-- ==== Sys2Proof/Word.lean ====
section
/-! DEFINITION. Word types of the OZN-3216 and their plainest arithmetic (R4: little-endian, bit 0 least significant). -/

namespace Sys2Proof

/-- One byte. -/
abbrev Byte := BitVec 8
/-- A 16-bit field. -/
abbrev Half := BitVec 16
/-- A 32-bit register or lane. -/
abbrev Word := BitVec 32
/-- A 64-bit register. -/
abbrev DWord := BitVec 64
/-- A 16-byte scratchpad granule, and an ember core's vector register (R122, R45). -/
abbrev Granule := BitVec 128
/-- A 64-byte command or ring entry (R157, R359). -/
abbrev Entry64 := BitVec 512
/-- A 32-byte response entry, event record or DRAM beat (R366, R412). -/
abbrev Entry32 := BitVec 256

end Sys2Proof
end

