-- ==== Sys2Proof/Syntax.lean ====
section
/-! DEFINITION. The commands of the block, one constructor per row of spec/opcode_table.json, with the types
of their operands. What the outside world decides (an address, a length, what a link or a pin does, what a
check outside the manual finds) is an operand. -/

namespace Sys2Proof

/-- A granule in which a read finds flipped bits: one (corrected) or an uncorrectable pattern (R125, R126). -/
structure SpmErr where
  granule : Nat
  unc : Bool
  deriving DecidableEq, Repr

/-- A granule of a named hearth in which engine work finds flipped bits. -/
structure FarErr where
  hearth : Fin 32
  granule : Nat
  unc : Bool
  deriving DecidableEq, Repr

/-- One request for a bank in one cycle (R133): its master, the core of master 0, and whether it is a
read-modify-write, which holds the bank for a second cycle (R124). -/
structure BankReq where
  master : Fin 12
  core : Fin 64
  rmw : Bool
  deriving DecidableEq, Repr

/-- What an access meets at its bank: cycles in which the march engine holds the bank first, then for each cycle
the other requests (R133, R134). -/
structure Rivals where
  held : Nat
  cycles : List (List BankReq)
  deriving DecidableEq, Repr

/-- No other request and no march: the bank is won at once. -/
def Rivals.none : Rivals := { held := 0, cycles := [] }

/-- A contest for one bank of a hearth, of the engine that is that hearth's master `master`. -/
structure BankContest where
  hearth : Fin 32
  master : Fin 12
  bank : Fin 32
  rivals : Rivals
  deriving DecidableEq, Repr

/-- What the scratchpad accesses of one piece of engine work meet: flipped bits and contested banks. -/
structure Touch where
  errs : List FarErr
  contests : List BankContest
  deriving DecidableEq, Repr

/-- Nothing found and nothing contested. -/
def Touch.none : Touch := { errs := [], contests := [] }

/-- A piece of work of array `a`: what its accesses meet, the beats it stood still by cause of Table 2.9 (R60, R74), and the
beats a duty cap withheld (R91). -/
structure ArrTurn where
  a : Fin 2
  touch : Touch
  stalls : List (Fin 11 × Nat)
  withheld : Nat
  deriving DecidableEq, Repr

/-- A piece of work of a hearth's engines, with the array beats lost by cause. -/
structure HearthTurn where
  h : Fin 32
  touch : Touch
  stalls : List (Fin 11 × Nat)
  withheld : Nat
  deriving DecidableEq, Repr

/-- Rows of a transfer that the fetch engine moves, with what its accesses meet. -/
structure MoveTurn where
  n : Nat
  touch : Touch
  deriving DecidableEq, Repr

/-- Rows that a drain lands, the beats it stood still by cause, and what its accesses meet. -/
structure DrainTurn where
  stalls : List (Fin 11 × Nat)
  touch : Touch
  deriving DecidableEq, Repr

/-- A hearth's engine at work outside the arrays, with what its accesses meet. -/
structure FetchTurn where
  h : Fin 32
  touch : Touch
  deriving DecidableEq, Repr

/-- What the post-processing kernel is given for one slot of a curd: the core that does it, the scratchpad address of a copy of
the curd's header block, the slot, the 64-bit address of the slot's head output and the positions it holds, the general hoop of
records (16 on), the picture's display size in pixels, and measurements by candidate (R313–R319). -/
structure PostTurn where
  core : Fin 64
  curd : Word
  slot : Fin 64
  head : DWord
  positions : Nat
  hoop : Fin 8
  width : Nat
  height : Nat
  values : List (Nat × Half)
  deriving DecidableEq, Repr

/-- A dictionary that the tokenizer loads: its 64-bit address, its bytes, and the base it gets in working scratchpad. -/
structure DictTurn where
  core : Fin 64
  src : DWord
  len : Nat
  base : Word
  deriving DecidableEq, Repr

/-- A prompt for the tokenizer: the base of its dictionary, the prompt's bytes in scratchpad, and where the tokens go. -/
structure TokenTurn where
  core : Fin 64
  base : Word
  prompt : Word
  len : Nat
  out : Word
  deriving DecidableEq, Repr

/-- What one turn of a KERNEL does: the HCC starts the cores, or a started core does a piece of the work of the kernels that
the manual describes. -/
inductive KernelWork where
  | start
  | post (p : PostTurn)
  | dict (p : DictTurn)
  | tokens (p : TokenTurn)
  deriving DecidableEq, Repr

/-- A turn of a KERNEL on one hearth, with what its accesses meet. -/
structure KernelTurn where
  h : Fin 32
  touch : Touch
  work : KernelWork
  deriving DecidableEq, Repr

/-- The delay tag of a hand-over, with what the accesses behind it meet. -/
structure TagTurn where
  tag : Fin 16
  touch : Touch
  deriving DecidableEq, Repr

/-- Cycles that a hearth's engines stood still for a job switch: arrays, then ember cores (R60, R89). -/
structure PreemptWait where
  hearth : Fin 32
  arrays : Nat
  cores : Nat
  deriving DecidableEq, Repr

/-- The end of a switch of a vat, with what its engines waited. -/
structure SwitchTurn where
  vat : Fin 32
  waits : List PreemptWait
  deriving DecidableEq, Repr

/-- A command that starts, with what the tiling firmware's reads meet. -/
structure StartTurn where
  seq : Word
  touch : Touch
  deriving DecidableEq, Repr

/-- Where a bump or an advance comes from: an engine of a hearth, or one of its ember cores (R138). -/
structure BumpSource where
  hearth : Fin 32
  core : Option (Fin 64)
  deriving DecidableEq, Repr

/-- The delay tag of an ADD, and whether it reaches the counter in the same cycle as the update before it (R140). -/
structure BumpTag where
  tag : Fin 16
  together : Bool
  deriving DecidableEq, Repr

/-- A steal's probe at ladle `ladle`: `cycles` the takers waited, should the probe end the steal. -/
structure StealTurn where
  ladle : Fin 16
  cycles : Nat
  deriving DecidableEq, Repr

/-- Bytes [off, off + len) of BAR0, as one read asks for them. -/
structure BarSpan where
  off : BitVec 26
  len : BitVec 13
  deriving DecidableEq, Repr

/-- What a core's instruction fetch and the access of the instruction meet: flipped bits, rivals for the bank, the line that
leaves the instruction cache when a new one comes in, and the delay tag a store carries. -/
structure CoreFetch where
  fetchErrs : List SpmErr
  errs : List SpmErr
  rivals : Rivals
  evict : Nat
  tag : Fin 16
  deriving DecidableEq, Repr

/-- A turn of core `c`: the ecall it has decoded (none), or the instruction at its program counter, fetched, decoded
and executed. -/
structure CoreTurn where
  c : Fin 64
  fetch : Option CoreFetch
  deriving DecidableEq, Repr

/-- RV32I load sizes. -/
inductive LoadSize where
  | lb
  | lh
  | lw
  | lbu
  | lhu
  deriving DecidableEq, Repr

/-- RV32I store sizes. -/
inductive StoreSize where
  | sb
  | sh
  | sw
  deriving DecidableEq, Repr

/-- Where an R-type Xember instruction runs, with its register fields. -/
structure VOp where
  hearth : Fin 32
  core : Fin 64
  /-- The funct3 field: the element type. -/
  ty : Fin 8
  vd : Fin 32
  vs1 : Fin 32
  vs2 : Fin 32
  deriving DecidableEq, Repr

/-- A tensor of a model package, as the package's compiler describes it: its place in the tensor area, its column
blocks, and for a BELL weight tensor its shape, GROUP field and grid slot; its number in the trainable list. -/
structure PkgTensor where
  offset : Nat
  len : Nat
  blocks : Nat
  k : Nat
  n : Nat
  group : Fin 3
  grid : Fin 8
  train : Option (Fin 32)
  deriving DecidableEq, Repr

/-- The masters a package carries for a trainable tensor: BF16 weights and FP32 scales. -/
structure PkgMasters where
  num : Fin 32
  w : List Half
  scales : List Word
  deriving DecidableEq, Repr

/-- A model package: where its tensor area stands in the model store, its tensors in residency order, its learned grids
(slot and 16 levels) and masters. -/
structure Package where
  base : BitVec 34
  len : Nat
  tensors : List PkgTensor
  grids : List (Fin 8 × List Byte)
  masters : List PkgMasters
  deriving DecidableEq, Repr

/-- One crop's gradient of a trainable tensor at its decoded weights, in row-major order, as the package's kernels and
the backward pass compute it (R111). -/
structure Grad where
  num : Fin 32
  w : List Word
  /-- The mark of poisoned data has reached one of its elements (R410). -/
  poisoned : Bool
  deriving DecidableEq, Repr

/-- Profiles that Table 9.1 names; `main` is that of either codec. -/
inductive Profile where
  | constrainedBaseline
  | baseline
  | main
  | high
  | main10
  | other
  deriving DecidableEq, Repr

/-- A sequence parameter set as its parser reads it (R240, R242, R244, R247). -/
structure Sps where
  h265 : Bool
  profile : Profile
  /-- chroma_format_idc, frame_mbs_only_flag (H.264) and the High tier (H.265). -/
  chroma : Nat
  frameMbsOnly : Bool
  highTier : Bool
  /-- Coded size. -/
  width : Nat
  height : Nat
  /-- Display window in the coded picture. -/
  dispX : Nat
  dispY : Nat
  dispW : Nat
  dispH : Nat
  depth : Nat
  /-- max_num_ref_frames, or sps_max_dec_pic_buffering_minus1. -/
  refs : Nat
  /-- Reorder depth it states: max_num_reorder_frames of its VUI, or sps_max_num_reorder_pics at the highest TemporalId (R325). -/
  reorder : Option Nat
  deriving DecidableEq, Repr

/-- What the parser of a decode core finds in a picture's access unit. Pictures of a stream are named by
numbers of the sender's choice. -/
structure PicParse where
  /-- A parameter set that the picture activates. -/
  sps : Option Sps
  /-- H.264 slice groups, or redundant pictures (Table 9.1). -/
  sliceGroups : Bool
  redundant : Bool
  name : Nat
  nonRef : Bool
  /-- TemporalId, in H.265. -/
  temporal : Nat
  /-- An IDR picture, or in H.265 an IDR, CRA or BLA picture. -/
  irap : Bool
  /-- An I picture, and recovery_frame_cnt of the recovery point SEI message that it carries. -/
  intra : Bool
  recovery : Option Nat
  /-- Pictures its slices name as references. -/
  refs : List Nat
  /-- Pictures still marked as references after its marking process. -/
  keep : List Nat
  /-- Pictures that the output process lets go when it completes. -/
  outs : List Nat
  /-- It waits for output order itself. -/
  holdOut : Bool
  /-- Luma samples and DATA bits of each unit (R250, R253). -/
  units : List (Nat × Nat)
  deriving DecidableEq, Repr

/-- Bytes of a reference picture that a block is predicted from. -/
structure RefRead where
  name : Nat
  off : Nat
  len : Nat
  deriving DecidableEq, Repr

/-- A run of bytes of the picture layout of R243: decoded samples, or none where no slice covers it or its
slice does not parse (R258). -/
structure PicBlock where
  off : Nat
  len : Nat
  samples : Option (List Byte)
  reads : List RefRead
  deriving DecidableEq, Repr

/-- A change of a frame buffer's marks (Table 9.5). -/
inductive MarkChange where
  | refUp
  | refDown
  | outClear
  | useUp
  | useDown
  deriving DecidableEq, Repr

/-- The header ECC of a CSI-2 packet (R295). -/
inductive HeaderEcc where
  | clean
  | corrected
  | bad
  deriving DecidableEq, Repr

/-- Why a completion to a command read fails it (R372). -/
inductive CplError where
  | unsupported
  | abort
  | ecrc
  | poisoned
  deriving DecidableEq, Repr

/-- Fatal transaction errors (Table 14.9). -/
inductive FatalTlp where
  | malformed
  | flowControl
  | overflow
  deriving DecidableEq, Repr

/-- Fields of configuration space that the manual names (R353, R354), and any other by its offset. -/
inductive ConfigField where
  | ids
  | classRev
  | subsystem
  | interruptPin
  | bar (k : Fin 6)
  | maxPayload
  | maxReadRequest
  | msixControl
  | other (offset : BitVec 12)
  deriving DecidableEq, Repr

/-- A flow of the datagram layer, by its peer: a control destination, a member's tensor or image channel, or the service peer (R434). -/
inductive FlowId where
  | control (d : Fin 16)
  | tensor (m : Fin 8)
  | image (m : Fin 8)
  | service
  deriving DecidableEq, Repr

/-- An RTP packet, its padding, CSRC list and header extension skipped (R386). -/
structure RtpIn where
  version : Fin 4
  pt : Fin 128
  seq : Half
  ts : Word
  marker : Bool
  ssrc : Word
  payload : List Byte
  deriving DecidableEq, Repr

/-- A HELLO as received: header fields and payload (R396). -/
structure HelloIn where
  joinId : Word
  src : Byte
  epoch : Word
  members : Byte
  glbId : Word
  image : Word
  deriving DecidableEq, Repr

inductive Instr where
  /-- REGISTER_WRITE: a write of one word or two with their byte enables -/
  | registerWrite (off : BitVec 26) (lo : Word) (loBe : BitVec 4) (hi : Option (Word × BitVec 4)) (poisoned : Bool)
  /-- LOW_HALF_READ -/
  | lowHalfRead (off : BarSpan)
  /-- LOW_HALF_WRITE -/
  | lowHalfWrite (off : BitVec 26) (value : Word)
  /-- HIGH_HALF_WRITE -/
  | highHalfWrite (off : BitVec 26) (value : Word)
  /-- POWER_ON_RESET: the levels of GPIO[7:0] at power-on -/
  | powerOnReset (gpio : Byte)
  /-- PERST_N_ASSERT -/
  | perstNAssert
  /-- PERST_N_RELEASE -/
  | perstNRelease
  /-- PLL_LOCK -/
  | pllLock
  /-- PLL_LOCK_LOST -/
  | pllLockLost
  /-- SYSCLK_LOSS -/
  | sysclkLoss
  /-- SYSCLK_RETURN -/
  | sysclkReturn
  /-- BANKED_REQUEST -/
  | bankedRequest
  /-- LIT_REQUEST -/
  | litRequest
  /-- BANKED_ENTRY_COMPLETE -/
  | bankedEntryComplete
  /-- BANKED_EXIT_COMPLETE -/
  | bankedExitComplete
  /-- GPIO_WAKE -/
  | gpioWake (pin : Fin 8)
  /-- PFAIL_ASSERT -/
  | pfailAssert
  /-- PFAIL_DEASSERT_CONFIRMED -/
  | pfailDeassertConfirmed
  /-- SUPPLY_LOSS -/
  | supplyLoss
  /-- UPDATE_INHIBIT_ASSERT -/
  | updateInhibitAssert
  /-- UPDATE_INHIBIT_DEASSERT -/
  | updateInhibitDeassert
  /-- FLR -/
  | flr
  /-- FLR_READY -/
  | flrReady
  /-- SCALAR_LOAD -/
  | scalarLoad (h : Fin 32) (c : Fin 64) (rd rs1 : Fin 32) (imm : BitVec 12) (size : LoadSize) (compressed : Bool) (errs : List SpmErr) (rivals : Rivals)
  /-- SCALAR_STORE -/
  | scalarStore (h : Fin 32) (c : Fin 64) (rs1 rs2 : Fin 32) (imm : BitVec 12) (size : StoreSize) (compressed : Bool) (tag : Fin 16) (rivals : Rivals)
  /-- FENCE -/
  | fence (h : Fin 32) (c : Fin 64)
  /-- ECALL -/
  | ecall (h : Fin 32) (c : CoreTurn)
  /-- EBREAK -/
  | ebreak (h : Fin 32) (c : Fin 64) (compressed : Bool)
  /-- XE_VADD -/
  | xeVadd (o : VOp)
  /-- XE_VSUB -/
  | xeVsub (o : VOp)
  /-- XE_VMUL -/
  | xeVmul (o : VOp)
  /-- XE_VMAX -/
  | xeVmax (o : VOp)
  /-- XE_VMIN -/
  | xeVmin (o : VOp)
  /-- XE_VCMP -/
  | xeVcmp (o : VOp)
  /-- XE_VDOT -/
  | xeVdot (o : VOp)
  /-- XE_VCVT -/
  | xeVcvt (o : VOp)
  /-- XE_VSHUF -/
  | xeVshuf (o : VOp)
  /-- XE_VMVX: `toX` says which way the lane moves. -/
  | xeVmvx (o : VOp) (toX : Bool)
  /-- XE_IOU -/
  | xeIou (o : VOp)
  /-- XE_BDEC -/
  | xeBdec (o : VOp)
  /-- XE_BSORT -/
  | xeBsort (o : VOp)
  /-- XE_VLD -/
  | xeVld (h : Fin 32) (c : Fin 64) (vd rs1 : Fin 32) (imm : BitVec 12) (errs : List SpmErr) (rivals : Rivals)
  /-- XE_VST -/
  | xeVst (h : Fin 32) (c : Fin 64) (vs2 rs1 : Fin 32) (imm : BitVec 12) (rivals : Rivals)
  /-- XE_TAKE -/
  | xeTake (h : Fin 32) (c : Fin 64) (rd : Fin 32) (ladle : Fin 16)
  /-- XE_DONE -/
  | xeDone (h : Fin 32) (c : Fin 64) (rs1 : Fin 32) (ladle : Fin 16)
  /-- XE_CWAIT -/
  | xeCwait (h : Fin 32) (c : Fin 64) (rs1 : Fin 32) (ctr : Fin 64)
  /-- XE_TRIE -/
  | xeTrie (h : Fin 32) (c : Fin 64) (rd rs1 rs2 : Fin 32)
  /-- REMOTE_LOAD_RESPONSE: `cycles` the core waited, counted under `cause` (R60). -/
  | remoteLoadResponse (h : Fin 32) (c : Fin 64) (errs : List SpmErr) (cycles : Nat) (cause : Fin 11)
  /-- STORE_ACK: the oldest store of the core to hearth `dst`, with its delay tag if it bumps a counter. -/
  | storeAck (h : Fin 32) (c : Fin 64) (dst : Fin 32) (tag : Fin 16)
  /-- CWAIT_RELEASE -/
  | cwaitRelease (h : Fin 32) (c : Fin 64) (cycles : Nat)
  /-- STEAL_PROBE -/
  | stealProbe (h : Fin 32) (ladle : StealTurn)
  /-- STEAL_SWAP -/
  | stealSwap (h : Fin 32) (ladle : Fin 16)
  /-- STEAL_REPLY -/
  | stealReply (h : Fin 32) (ladle : Fin 16) (cycles : Nat)
  /-- COMPLETION_REPORT: the oldest report on its way to `home`. -/
  | completionReport (home : Fin 32)
  /-- HEARTBEAT_TIMEOUT -/
  | heartbeatTimeout (h : Fin 32)
  /-- HEARTH_INTERNAL_ERROR: `parity` for an accumulator, feeder, ladle or counter unit, else HCC memory. -/
  | hearthInternalError (h : Fin 32) (parity : Bool)
  /-- REMOVAL_COMPLETE -/
  | removalComplete (h : Fin 32)
  /-- RESTORE -/
  | restore (h : Fin 32)
  /-- RETIRE -/
  | retire (h : Fin 32)
  /-- HEARTH_TEST_COMPLETE: what the core self-test found. -/
  | hearthTestComplete (h : Fin 32) (selfTestPass : Bool)
  /-- FLIT_LAND: the oldest flit launched from an outbound port. -/
  | flitLand (h : Fin 32) (port : Fin 16) (tag : Fin 16)
  /-- FLUE_CREDIT_RETURN: one credit reaches the sender; `cycles` it stalled for want of it. -/
  | flueCreditReturn (h : Fin 32) (port : Fin 16) (cycles : Nat)
  /-- FLUE_DRAIN_COMPLETE -/
  | flueDrainComplete (h : Fin 32) (port : Fin 16)
  /-- STALL_CLEAR_ARR -/
  | stallClearArr (h : Fin 32)
  /-- STALL_CLEAR_EMB -/
  | stallClearEmb (h : Fin 32)
  /-- CMD_HWM_CLEAR -/
  | cmdHwmClear (h : Fin 32)
  /-- PASS_START: `stalls`: cycles held, by cause of Table 2.9; `withheld`: beats withheld by a duty cap. -/
  | passStart (h : Fin 32) (a : Fin 2) (errs : Touch) (stalls : List (Fin 11 × Nat)) (withheld : Nat)
  /-- WEIGHT_ROW_WRITE -/
  | weightRowWrite (h : Fin 32) (a : Fin 2) (errs : Touch)
  /-- PASS_COMPLETE -/
  | passComplete (h : Fin 32) (a : ArrTurn)
  /-- DRAIN_START -/
  | drainStart (h : Fin 32) (a : Fin 2)
  /-- DRAIN_ROWS_LANDED: `n` rows land; `tag` is the delay tag of the bumps. -/
  | drainRowsLanded (h : Fin 32) (a : Fin 2) (n : Fin 1025) (tag : Fin 16) (stalls : DrainTurn)
  /-- ARR_COUNT_CLEAR -/
  | arrCountClear (h : Fin 32) (a : Fin 2)
  /-- ADAPT_STEP_COMPLETE: `runs`: lengths of the runs of elements in which the vat's reduction forms the norm; `grads`: for
  each crop of the batch in order, its gradients; `acts`: rows of activations that the forward pass saves. -/
  | adaptStepComplete (job : Half) (runs : List Nat) (grads : List (List Grad)) (acts : List (List Word))
  /-- QUANTISE_COMPLETE: `place`: device address of the new version; `touch`: what the scratchpad accesses of the
  quantising kernels meet. -/
  | quantiseComplete (job : Half) (place : BitVec 34) (touch : Touch)
  /-- MODEL_PUBLISH: `package`: the model that the host brings in, none for a held version. -/
  | modelPublish (model : Half) (version : Word) (package : Option Package)
  /-- VERSION_DELETE -/
  | versionDelete (model : Half) (version : Word)
  /-- BANK_POWER_SETTLED -/
  | bankPowerSettled (h : Fin 32) (bank : Fin 32)
  /-- SCRUB_BANK_COMPLETE -/
  | scrubBankComplete (h : Fin 32)
  /-- COUNTER_ADD: a store of `v` from hearth `src` (none for BAR4) to VALUE. -/
  | counterAdd (h : Fin 32) (ctr : Fin 64) (v : Word) (src : Option BumpSource) (tag : BumpTag) (poison : Bool)
  /-- COUNTER_SET -/
  | counterSet (h : Fin 32) (ctr : Fin 64) (v : Word) (poison : Bool)
  /-- HOOP_HEAD_ADVANCE -/
  | hoopHeadAdvance (h : Fin 32) (hoop : Fin 32) (n : Word) (src : Option BumpSource) (tag : Fin 16) (poison : Bool)
  /-- HOOP_TAIL_ADVANCE -/
  | hoopTailAdvance (h : Fin 32) (hoop : Fin 32) (n : Word) (src : Option BumpSource) (tag : Fin 16) (poison : Bool)
  /-- SPM_ECC_WRITEBACK -/
  | spmEccWriteback (h : Fin 32) (granule : Nat)
  /-- MARCH_START: the whole SPM_MARCH_CTRL word written. -/
  | marchStart (h : Fin 32) (ctrl : Word)
  /-- MARCH_BANK_COMPLETE -/
  | marchBankComplete (h : Fin 32) (pass : Bool)
  /-- MARCH_COMPLETE: the banks that mismatched and where the first mismatch was found. -/
  | marchComplete (h : Fin 32) (fail : Word) (element : Fin 12) (word : Fin 32768)
  /-- SPM_CLEAR_BANK_CONFLICT -/
  | spmClearBankConflict (h : Fin 32)
  /-- SPM_CLEAR_MASTER_CONFLICT -/
  | spmClearMasterConflict (h : Fin 32)
  /-- SPM_CLEAR_ECC -/
  | spmClearEcc (h : Fin 32)
  /-- SPM_CLEAR_ACCESS -/
  | spmClearAccess (h : Fin 32)
  /-- BAR4_READ -/
  | bar4Read (offset : BitVec 27) (len : Fin 4097) (errs : List SpmErr) (rivals : Rivals)
  /-- BAR4_WRITE: bytes with their enables. -/
  | bar4Write (offset : BitVec 27) (data : List Byte) (poisoned : Bool) (rivals : Rivals)
  /-- NOP -/
  | nop (job : Half) (seq : Word)
  /-- JOB_BEGIN -/
  | jobBegin (job : Half) (seq : Word)
  /-- JOB_END -/
  | jobEnd (job : Half) (seq : Word)
  /-- BIND_HOOP -/
  | bindHoop (job : Half) (seq : Word)
  /-- SET_COUNTER -/
  | setCounter (job : Half) (seq : Word)
  /-- SEM_ACQUIRE -/
  | semAcquire (job : Half) (seq : Word)
  /-- SEM_RELEASE -/
  | semRelease (job : Half) (seq : Word)
  /-- LOAD: The engine moves `n` rows. -/
  | load (job : Half) (seq : Word) (n : MoveTurn)
  /-- STORE: The engine moves `n` rows. -/
  | store (job : Half) (seq : Word) (n : MoveTurn)
  /-- FILL: The engine moves `n` rows. -/
  | fill (job : Half) (seq : Word) (n : MoveTurn)
  /-- FETCH_TRANSFER_COMPLETE: `tag`: the delay tag of the bump. -/
  | fetchTransferComplete (job : Half) (seq : Word) (tag : Fin 16)
  /-- GEMM: The array that takes a tile. -/
  | gemm (job : Half) (seq : Word) (h : Fin 32) (a : ArrTurn)
  /-- CONV: The array that takes a tile. -/
  | conv (job : Half) (seq : Word) (h : Fin 32) (a : ArrTurn)
  /-- POOL: The hearth that takes a row. -/
  | pool (job : Half) (seq : Word) (h : HearthTurn)
  /-- FUSED: The hearth that takes a band. -/
  | fused (job : Half) (seq : Word) (h : HearthTurn)
  /-- ARRAY_PASS -/
  | arrayPass (job : Half) (seq : Word)
  /-- DRAIN -/
  | drain (job : Half) (seq : Word)
  /-- KERNEL: The hearth whose HCC starts its cores, or one of whose cores works on it. -/
  | kernel (job : Half) (seq : Word) (h : KernelTurn)
  /-- CURD_TAKE: `tag`: the delay tag of the bump. -/
  | curdTake (job : Half) (seq : Word) (tag : Fin 16)
  /-- CURD_TAKE_SERVE -/
  | curdTakeServe (bucket : Fin 16)
  /-- EMIT: `tag`: the delay tag of the head counter's bump. -/
  | emit (job : Half) (seq : Word) (tag : TagTurn)
  /-- EMIT_HANDOVER: `tag`: as in EMIT. -/
  | emitHandover (job : Half) (seq : Word) (tag : TagTurn)
  /-- COMMAND_START -/
  | commandStart (job : Half) (seq : StartTurn)
  /-- WEIGHT_PREFETCH -/
  | weightPrefetch (job : Half) (seq : Word) (h : FetchTurn)
  /-- COMMAND_RETIRE -/
  | commandRetire (job : Half) (seq : Word)
  /-- RELOAD_START -/
  | reloadStart (region : Fin 32) (kill : Bool)
  /-- RELOAD_CANCEL -/
  | reloadCancel (region : Fin 32) (kill : Bool)
  /-- RELOAD_VERIFY_COMPLETE -/
  | reloadVerifyComplete
  /-- RELOAD_QUIESCE_COMPLETE -/
  | reloadQuiesceComplete
  /-- RELOAD_APPLY_COMPLETE -/
  | reloadApplyComplete
  /-- VAT_ENABLE -/
  | vatEnable (vat : Fin 32)
  /-- VAT_DISABLE -/
  | vatDisable (vat : Fin 32)
  /-- REFRESH_WINDOW_START -/
  | refreshWindowStart
  /-- REFRESH_WINDOW_END -/
  | refreshWindowEnd
  /-- RETRAIN_DUE -/
  | retrainDue (c : Fin 32)
  /-- RETRAIN_PAUSE_END -/
  | retrainPauseEnd (c : Fin 32) (marginOk : Bool)
  /-- DRAM_TEMP_READ: the four dies' readings in 0.25 °C. -/
  | dramTempRead (t0 t1 t2 t3 : BitVec 16)
  /-- DRAM_REQUEST: a read, or a write of bytes within one line. -/
  | dramRequest (port : Fin 40) (addr : BitVec 34) (len : Fin 129) (hint : Fin 4) (write : Option (List Byte)) (poisoned : Bool)
  /-- DRAM_READ_DELIVER: `errs`: beat, its first symbol in error, and whether two or more are. -/
  | dramReadDeliver (c : Fin 32) (errs : List (Fin 4 × Fin 36 × Bool))
  /-- PATROL_READ -/
  | patrolRead (c : Fin 32) (errs : List (Fin 4 × Fin 36 × Bool))
  /-- ROW_IDLE_CLOSE -/
  | rowIdleClose (c : Fin 32) (bank : Fin 32)
  /-- FULL_RETRAIN -/
  | fullRetrain (c : Fin 32)
  /-- FULL_RETRAIN_ATTEMPT_END -/
  | fullRetrainAttemptEnd (c : Fin 32) (pass : Bool)
  /-- TRAINING_ATTEMPT_END -/
  | trainingAttemptEnd (c : Fin 32) (pass : Bool)
  /-- DRC_CLEAR_TRAFFIC -/
  | drcClearTraffic (c : Fin 32)
  /-- DRC_CLEAR_ECC -/
  | drcClearEcc (c : Fin 32)
  /-- DRC_CLEAR_QUEUE_HWM -/
  | drcClearQueueHwm (c : Fin 32)
  /-- DRC_CLEAR_PORT -/
  | drcClearPort
  /-- DRC_CLEAR_HOT -/
  | drcClearHot
  /-- SESSION_ENABLE -/
  | sessionEnable (ses : Fin 256)
  /-- SESSION_DISABLE -/
  | sessionDisable (ses : Fin 256)
  /-- SESSION_TAIL_WRITE -/
  | sessionTailWrite (ses : Fin 256) (value : Word)
  /-- SESSION_STOP_COMPLETE -/
  | sessionStopComplete (ses : Fin 256)
  /-- DECODE_CLAIM -/
  | decodeClaim (core : Fin 16) (parse : PicParse)
  /-- DECODE_UNIT_COMPLETE -/
  | decodeUnitComplete (core : Fin 16) (blocks : List PicBlock) (memStall : Nat)
  /-- SCALER_ROW_CREDIT -/
  | scalerRowCredit (scaler : Fin 8)
  /-- STREAMED_ROW -/
  | streamedRow (core : Fin 16) (blocks : List PicBlock) (creditStall : Nat)
  /-- DECODER_ENABLE -/
  | decoderEnable (core : Fin 16)
  /-- DECODER_DISABLE -/
  | decoderDisable (core : Fin 16)
  /-- ENCODER_ENABLE -/
  | encoderEnable (core : Fin 4)
  /-- ENCODER_DISABLE -/
  | encoderDisable (core : Fin 4)
  /-- ENCODE_ATTEMPT_COMPLETE: the QP that rate control took, and the bytes of the attempt -/
  | encodeAttemptComplete (core : Fin 4) (qp : Nat) (data : List Byte)
  /-- VCD_CLEAR_SES -/
  | vcdClearSes
  /-- VCD_CLEAR_ENC -/
  | vcdClearEnc
  /-- VCD_CLEAR_DEC -/
  | vcdClearDec
  /-- PROG_COMMIT -/
  | progCommit (value : Word)
  /-- SCALER_ENABLE -/
  | scalerEnable (scaler : Fin 8)
  /-- SCALER_DISABLE -/
  | scalerDisable (scaler : Fin 8)
  /-- SCALER_JOB_START -/
  | scalerJobStart (scaler : Fin 8)
  /-- SCALER_JOB_COMPLETE -/
  | scalerJobComplete (scaler : Fin 8) (job : Fin 4) (memStall : Nat)
  /-- CROP_RING_POLL -/
  | cropRingPoll (scaler : Fin 8)
  /-- CROP_HOLD_EXPIRE -/
  | cropHoldExpire (source : Fin 272) (ts : DWord)
  /-- CROP_RING_ENABLE -/
  | cropRingEnable (group : Fin 32) (value : Word)
  /-- CROP_RING_DISABLE -/
  | cropRingDisable (group : Fin 32) (value : Word)
  /-- SCL_CLEAR_GROUP -/
  | sclClearGroup
  /-- SCL_CLEAR_SCALER -/
  | sclClearScaler
  /-- CSI_FRAME_START -/
  | csiFrameStart (source : Fin 16) (frame : Half)
  /-- CSI_FRAME_END -/
  | csiFrameEnd (source : Fin 16) (frame : Half)
  /-- CSI_LONG_PACKET -/
  | csiLongPacket (source : Fin 16) (vcx : Bool) (dataType : BitVec 6) (ecc : HeaderEcc) (crcOk : Bool) (data : List Byte)
  /-- SENSOR_ENABLE -/
  | sensorEnable (source : Fin 16)
  /-- SENSOR_DISABLE -/
  | sensorDisable (source : Fin 16)
  /-- SENSOR_STOP_COMPLETE -/
  | sensorStopComplete (source : Fin 16)
  /-- BUCKET_ENABLE -/
  | bucketEnable (bucket : Fin 16)
  /-- BUCKET_DISABLE -/
  | bucketDisable (bucket : Fin 16)
  /-- BUCKET_STOP_COMPLETE -/
  | bucketStopComplete (bucket : Fin 16)
  /-- CURD_FILL_TIMEOUT -/
  | curdFillTimeout (bucket : Fin 16)
  /-- CURD_READY -/
  | curdReady (bucket : Fin 16)
  /-- ALIGN_BLOCK_TIMEOUT -/
  | alignBlockTimeout (set : Fin 8)
  /-- SNS_CLEAR_SET -/
  | snsClearSet
  /-- SNS_CLEAR_SRC -/
  | snsClearSrc
  /-- SNS_CLEAR_RX -/
  | snsClearRx
  /-- INP_CLEAR_BKT -/
  | inpClearBkt
  /-- RECORD_POST -/
  | recordPost (source : Fin 272)
  /-- SNAPSHOT: route as in EMIT: the queue pair or control destination it came from -/
  | snapshot (route : Half) (entry : Entry64)
  /-- CLIP -/
  | clip (route : Half) (entry : Entry64)
  /-- CLIP_STOP -/
  | clipStop (route : Half) (entry : Entry64)
  /-- CLIP_TIME_TAKE -/
  | clipTimeTake (route : Half) (reqId : Word)
  /-- JOB_DISPATCH -/
  | jobDispatch (vat : Fin 32)
  /-- SEM_HOLD_LIMIT_EXPIRE -/
  | semHoldLimitExpire (vat : Fin 32)
  /-- SWITCH_OUT_COMPLETE -/
  | switchOutComplete (vat : SwitchTurn)
  /-- SWITCH_IN_COMPLETE -/
  | switchInComplete (vat : SwitchTurn)
  /-- JOB_KILL -/
  | jobKill (job : Half)
  /-- TEARDOWN_COMPLETE -/
  | teardownComplete (job : Half)
  /-- CAVE_TENSOR_LANDED: `tensor`: its number in residency order. -/
  | caveTensorLanded (vat : Fin 32) (model : Half) (version : Word) (tensor : Nat)
  /-- SCH_CLEAR_CAVE -/
  | schClearCave
  /-- SCH_CLEAR_VAT -/
  | schClearVat
  /-- POOL_ENABLE -/
  | poolEnable (group : Fin 32)
  /-- POOL_DISABLE -/
  | poolDisable (group : Fin 32)
  /-- BUFFER_REQUEST -/
  | bufferRequest (ses : Fin 256)
  /-- BUFFER_MARK_CHANGE -/
  | bufferMarkChange (engineGroup : Fin 32) (handle : Word) (change : MarkChange)
  /-- DEADLOCK_EVAL -/
  | deadlockEval
  /-- BPM_CLEAR_POOL -/
  | bpmClearPool
  /-- CMD_TAIL_DOORBELL -/
  | cmdTailDoorbell (q : Fin 64) (t : Word)
  /-- RSP_HEAD_DOORBELL -/
  | rspHeadDoorbell (q : Fin 64) (head : Word)
  /-- QP_ENABLE -/
  | qpEnable (q : Fin 64)
  /-- QP_DISABLE -/
  | qpDisable (q : Fin 64)
  /-- QP_STOP_COMPLETE -/
  | qpStopComplete (q : Fin 64)
  /-- COMMAND_FETCH -/
  | commandFetch (q : Fin 64)
  /-- COMMAND_READ_COMPLETE: The entries that the host's memory gives. -/
  | commandReadComplete (tag : Fin 1024) (entries : List Entry64)
  /-- COMPLETION_TIMEOUT -/
  | completionTimeout (tag : Fin 1024)
  /-- LATE_COMPLETION -/
  | lateCompletion (tag : Fin 1024)
  /-- UNEXPECTED_COMPLETION -/
  | unexpectedCompletion (tag : Fin 1024)
  /-- QUARANTINE_EXPIRE -/
  | quarantineExpire (tag : Fin 1024)
  /-- MESSAGE_POST -/
  | messagePost (q : Fin 64)
  /-- IRQ_TIMER -/
  | irqTimer (q : Fin 64)
  /-- WINDOW_COMMIT -/
  | windowCommit (mask : Byte)
  /-- BAR2_READ -/
  | bar2Read (offset : Word) (len : Fin 4097)
  /-- BAR2_WRITE -/
  | bar2Write (offset : Word) (data : List Byte) (poisoned : Bool)
  /-- ECRC_REQUEST_ERROR -/
  | ecrcRequestError
  /-- NO_BAR_REQUEST -/
  | noBarRequest
  /-- FATAL_TLP_ERROR -/
  | fatalTlpError (err : FatalTlp)
  /-- LINK_REPLAY: `n` replays. -/
  | linkReplay (n : Fin 65536)
  /-- CONFIG_REQUEST: A configuration write of a value, or a read. -/
  | configRequest (field : ConfigField) (write : Option Word)
  /-- PEP_CLEAR -/
  | pepClear
  /-- HQ_CLEAR_HWM -/
  | hqClearHwm
  /-- HQ_CLEAR_COUNTS -/
  | hqClearCounts
  /-- PORT_ENABLE -/
  | portEnable (port : Fin 2)
  /-- PORT_DISABLE -/
  | portDisable (port : Fin 2)
  /-- PORT_SHUTDOWN_COMPLETE -/
  | portShutdownComplete (port : Fin 2)
  /-- ETH_LINK_UP -/
  | ethLinkUp (link : Fin 8) (speed : Fin 4) (fec : Bool)
  /-- ETH_LINK_DOWN -/
  | ethLinkDown (link : Fin 8)
  /-- PFC_FRAME -/
  | pfcFrame (link : Fin 8) (priority : Fin 8) (pause : Bool)
  /-- UDP_DATAGRAM: `ok`: the frame keeps to Table 15.1; addresses of 4 or 16 bytes; `fec`: codewords corrected and uncorrectable. -/
  | udpDatagram (link : Fin 8) (ok : Bool) (src : List Byte) (srcPort : Half) (dst : List Byte) (dstPort : Half) (ce : Bool) (payload : List Byte) (fec : Nat × Nat)
  /-- RTP_PACKET -/
  | rtpPacket (session : Fin 256) (packet : RtpIn)
  /-- RTP_GAP_TIMEOUT -/
  | rtpGapTimeout (session : Fin 256)
  /-- RTCP_SENDER_REPORT -/
  | rtcpSenderReport (session : Fin 256) (ssrc : Word) (ntp : DWord) (rtpTs : Word)
  /-- RTCP_REPORT_TIMER -/
  | rtcpReportTimer (session : Fin 256)
  /-- RTSP_REPLY: `pt`, `sprop`: what the SDP of a DESCRIBE gives. -/
  | rtspReply (session : Fin 256) (ok : Bool) (pt : Fin 128) (sprop : List Byte)
  /-- RTSP_RETRY_TIMER -/
  | rtspRetryTimer (session : Fin 256)
  /-- RTSP_KEEPALIVE_TIMER -/
  | rtspKeepaliveTimer (session : Fin 256)
  /-- DATA_FRAME -/
  | dataFrame (flow : FlowId) (seq ack limit epoch : Word) (more ece ce : Bool) (payload : List Byte)
  /-- ACK_FRAME -/
  | ackFrame (flow : FlowId) (ack limit epoch : Word) (ece ce : Bool)
  /-- ACK_TIMER -/
  | ackTimer (flow : FlowId)
  /-- RETX_TIMEOUT -/
  | retxTimeout (flow : FlowId)
  /-- HELLO: The member whose configured address it came from. -/
  | hello (member : Fin 8) (hello : HelloIn)
  /-- LEAVE -/
  | leave (member : Fin 8)
  /-- HELLO_TIMER -/
  | helloTimer (member : Fin 8)
  /-- MEMBER_TIMEOUT -/
  | memberTimeout (member : Fin 8)
  /-- CC_STALL_TIMEOUT -/
  | ccStallTimeout (d : Fin 16)
  /-- CC_PROBE_TIMER -/
  | ccProbeTimer (d : Fin 16)
  /-- JOIN_ENABLE -/
  | joinEnable
  /-- JOIN_DISABLE -/
  | joinDisable
  /-- JOIN_SHUTDOWN_COMPLETE -/
  | joinShutdownComplete
  /-- ETH_CLEAR_JOIN -/
  | ethClearJoin
  /-- ETH_CLEAR_CC -/
  | ethClearCc
  /-- ETH_CLEAR_RTP -/
  | ethClearRtp
  /-- ETH_CLEAR_LINK -/
  | ethClearLink
  /-- ENGINE_HANG_TIMEOUT: engine 0–15 decodes, 16–19 encodes, 32–39 scales; the places of a decode core's unit, the fallback picture of an encode core -/
  | engineHangTimeout (engine : Fin 40) (blocks : List PicBlock) (data : List Byte)
  /-- MANTEL_WATCHDOG_TIMEOUT -/
  | mantelWatchdogTimeout (core : Byte)
  /-- FLUSH_TIMER -/
  | flushTimer
  /-- FLUSH_COMPLETE -/
  | flushComplete
  /-- ERASE_COMPLETE -/
  | eraseComplete
  /-- RATE_BUDGET_REFILL -/
  | rateBudgetRefill
  /-- OP_SECOND_TICK -/
  | opSecondTick
  /-- SOOT_CHECKPOINT_TIMER -/
  | sootCheckpointTimer
  /-- CHECKPOINT_COMPLETE -/
  | checkpointComplete
  /-- FLASH_PAGE_LOAD -/
  | flashPageLoad (page : Fin 1024)
  /-- FLASH_PAGE_READY -/
  | flashPageReady
  /-- SOOT_SNAP -/
  | sootSnap
  /-- FIRMWARE_START: the hearths whose tests fail, and the start models with what their signature checks give -/
  | firmwareStart (faulted : Word) (models : List (Half × Word × Package × Bool))
  /-- DRAW_CHECK_COMPLETE: whether the checksums of the codec and scaler test pictures agree -/
  | drawCheckComplete (codecOk : Bool)
  /-- CONFIRM -/
  | confirm
  /-- CONFIRM_TIMEOUT -/
  | confirmTimeout
  /-- RECOVERY_WRITE -/
  | recoveryWrite (offset : Fin 1024)
  /-- RECOVERY_END -/
  | recoveryEnd (offset : Fin 1024)
  /-- ATTEST_GO -/
  | attestGo
  /-- ATTEST_READY -/
  | attestReady
  /-- ORDER_SUBMIT -/
  | orderSubmit
  /-- FUSE_BURN_COMPLETE -/
  | fuseBurnComplete
  /-- UPDATE_OFFER -/
  | updateOffer (flow : FlowId)
  /-- UPDATE_CHUNK -/
  | updateChunk (flow : FlowId)
  /-- UPDATE_END -/
  | updateEnd (flow : FlowId)
  /-- UPDATE_VERIFY_COMPLETE: whether every start model passes its signature check -/
  | updateVerifyComplete (modelsOk : Bool)
  /-- UPDATE_RESULT -/
  | updateResult (flow : FlowId)
  /-- UPDATE_ABORT_OP -/
  | updateAbortOp (flow : FlowId)
  /-- UPDATE_CONFIRM_OP -/
  | updateConfirmOp (flow : FlowId)
  /-- CHUNK_TIMEOUT -/
  | chunkTimeout
  /-- UPDATE_FORWARD -/
  | updateForward
  /-- UPDATE_ABORT -/
  | updateAbort
  /-- SETTINGS_SAVE -/
  | settingsSave
  /-- RAIL_LOW -/
  | railLow (rail : Fin 7)
  /-- RAIL_RECOVERED -/
  | railRecovered (rail : Fin 7)
  /-- AVS_STEP: the direction, and the voltage measured in mV -/
  | avsStep (up : Bool) (measured : Half)
  /-- AVS_FAILURE -/
  | avsFailure
  /-- POWER_STEP: the draw estimated in 0.1 W -/
  | powerStep (p : Half)
  /-- THERMAL_SENSOR_READ: the 20 logic-die readings in 0.25 °C -/
  | thermalSensorRead (readings : List Half)
  /-- THERMAL_BUDGET_STEP -/
  | thermalBudgetStep
  /-- BUDGET_WRITE -/
  | budgetWrite (value : Word)
  /-- CPM_CLEAR_PEAK -/
  | cpmClearPeak
  /-- CPM_CLEAR_TIME -/
  | cpmClearTime
  /-- TRIPPED_CLEAR: whether a trip sets the bit in the same cycle -/
  | trippedClear (tripNow : Bool)
  /-- GPIO_OUT_WRITE -/
  | gpioOutWrite (value : Word)
  /-- SMB_ID -/
  | smbId
  /-- SMB_STATE -/
  | smbState
  /-- SMB_TEMP -/
  | smbTemp
  /-- SMB_POWER -/
  | smbPower
  /-- SMB_BUDGET_READ -/
  | smbBudgetRead
  /-- SMB_BUDGET_WRITE -/
  | smbBudgetWrite (value : Half)
  /-- SMB_STATUS -/
  | smbStatus
  /-- SMB_WAKE -/
  | smbWake
  /-- SMB_THERM -/
  | smbTherm
  /-- SMB_ALERT_RESPONSE -/
  | smbAlertResponse
  /-- SMB_TIMEOUT -/
  | smbTimeout
  /-- JTAG_BYPASS -/
  | jtagBypass
  /-- JTAG_IDCODE -/
  | jtagIdcode
  /-- JTAG_SAMPLE_PRELOAD: what the boundary cells capture, and what is shifted into them -/
  | jtagSamplePreload (captured update : List Bool)
  /-- JTAG_EXTEST -/
  | jtagExtest (captured update : List Bool)
  /-- JTAG_EXTEST_PULSE -/
  | jtagExtestPulse (captured update : List Bool)
  /-- JTAG_EXTEST_TRAIN -/
  | jtagExtestTrain (captured update : List Bool)
  /-- JTAG_CLAMP -/
  | jtagClamp
  /-- JTAG_HIGHZ -/
  | jtagHighz
  /-- BOOT_COMPLETE -/
  | bootComplete
  /-- DRAM_COMMAND_ISSUE -/
  | dramCommandIssue (c : Fin 32)
  /-- CSI_SHORT_PACKET -/
  | csiShortPacket (source : Fin 16) (vcx : Bool) (dataType : BitVec 6) (ecc : HeaderEcc)
  /-- DPHY_LANE_STATE_CHANGE -/
  | dphyLaneStateChange (receiver : Fin 4) (stop : BitVec 4) (ulps : BitVec 4) (hs : Bool)
  /-- PCIE_LINK_UP -/
  | pcieLinkUp (speed : Fin 6) (width : Fin 9)
  /-- PCIE_LINK_DOWN -/
  | pcieLinkDown
  /-- ASPM_L1_ENTRY: `l11`: L1.1 rather than L1. -/
  | aspmL1Entry (l11 : Bool)
  /-- ASPM_L1_EXIT -/
  | aspmL1Exit
  /-- COMPLETION_ERROR_STATUS -/
  | completionErrorStatus (tag : Fin 1024) (err : CplError)
  /-- ETH_FRAME_RECEIVED: `answer`: what mantel firmware answers an ARP, NDP or echo with; none for any other frame. -/
  | ethFrameReceived (link : Fin 8) (answer : Option (List Byte)) (fec : Nat × Nat)
  /-- SMB_OTHER_COMMAND -/
  | smbOtherCommand
  /-- HCC_HEARTBEAT -/
  | hccHeartbeat (h : Fin 32)
  deriving DecidableEq, Repr

end Sys2Proof
end

