-- ==== Sys2Proof/Config.lean ====
section
/-! DEFINITION. What an implementation fixes and the free values: constants without a body, so that no proof
can see what they are (assumption log 3). -/

namespace Sys2Proof.Config
open Sys2Proof

/-- A fresh value for each number of draws; `State.fresh` counts them. -/
opaque freeValue (w : Nat) (n : Nat) : BitVec w

/-- The data bits, all marked poisoned, that a read of a FAILED channel returns at a device address (R237). -/
opaque failedByte (addr : Nat) : Byte

/-- GLB_REV.ROM_VER, the boot ROM's version (Table 0.7). -/
opaque romVer : BitVec 16

/-- The signature by the device's identity key, whose private half no read path reaches, with a salt of its own (R429, R430). -/
opaque attestSign (message : List Byte) : List Byte

/-- What the drain's piecewise table gives for SIGMOID (7), TANH (8), SILU (9) or GELU (10) of a finite value; the
model keeps it only within the bound of R84. -/
opaque drainTable (op : Nat) (x : Word) : Word

/-- The level of a code in a bell grid slot that no bound model has loaded (R98). -/
opaque unsetGrid (slot code : Nat) : Half

/-- The tiling firmware's part of a firmware package, which the manual does not place (assumption log 73). -/
opaque hccSection : List Byte → List Byte

end Sys2Proof.Config
end

