-- ==== Sys2Proof/Machine/Bits.lean ====
section
/-! DEFINITION. Bit fields, byte order (R4), saturating and wrapping counters (R7), byte lists. -/

namespace Sys2Proof.Machine
open Sys2Proof

/-- Bits [hi:lo] of `x` as a number. -/
def bits {w : Nat} (x : BitVec w) (hi lo : Nat) : Nat := (x.toNat >>> lo) % 2 ^ (hi + 1 - lo)

/-- Bit `i` of `x`. -/
def bit {w : Nat} (x : BitVec w) (i : Nat) : Bool := x.getLsbD i

/-- 1 for true. -/
def b2n (b : Bool) : Nat := if b then 1 else 0

/-- A word built from (low bit, value) fields. -/
def pack (w : Nat) (fs : List (Nat × Nat)) : BitVec w :=
  BitVec.ofNat w (fs.foldl (fun a f => a + f.2 * 2 ^ f.1) 0)

/-- The word `x` with bits [hi:lo] replaced by `v`. -/
def setBits {w : Nat} (x : BitVec w) (hi lo v : Nat) : BitVec w :=
  let m : BitVec w := BitVec.ofNat w ((2 ^ (hi + 1 - lo) - 1) * 2 ^ lo)
  (x &&& ~~~m) ||| (BitVec.ofNat w ((v % 2 ^ (hi + 1 - lo)) * 2 ^ lo))

/-- R7: an RO counter advanced by `n` holds at all ones. -/
def satAdd {w : Nat} (x : BitVec w) (n : Nat) : BitVec w :=
  if x.toNat + n < 2 ^ w then BitVec.ofNat w (x.toNat + n) else BitVec.allOnes w

/-- A number held to `w` bits by saturation. -/
def satNat (w n : Nat) : BitVec w := if n < 2 ^ w then BitVec.ofNat w n else BitVec.allOnes w

/-- The little-endian bytes of `x`, `n` of them (R4). -/
def toBytes {w : Nat} (x : BitVec w) : Nat → List Byte
  | 0 => []
  | n + 1 => BitVec.ofNat 8 x.toNat :: toBytes (x >>> 8) n

/-- The number whose little-endian bytes are given (R4). -/
def leNat : List Byte → Nat
  | [] => 0
  | b :: bs => b.toNat + 256 * leNat bs

/-- The `w`-bit word of little-endian bytes. -/
def ofBytes (w : Nat) (bs : List Byte) : BitVec w := BitVec.ofNat w (leNat bs)

/-- Byte `i` of a byte list, 0 past its end. -/
def byteAt (bs : List Byte) (i : Nat) : Byte := bs.getD i 0

/-- Bytes `i … i+n−1` of a list as a number, 0 past its end. -/
def fieldAt (bs : List Byte) (i n : Nat) : Nat := leNat ((bs.drop i).take n)

/-- Exactly `n` bytes: the list cut, or filled with zeros. -/
def fitBytes (n : Nat) (bs : List Byte) : List Byte := (bs.take n) ++ List.replicate (n - bs.length) 0

/-- ⌈a / b⌉. -/
def cdiv (a b : Nat) : Nat := (a + b - 1) / b

/-- (a − b) modulo 2³², the distance between two sequence numbers. -/
def seqDist (a b : Word) : Nat := (a - b).toNat

/-- The distinct values of a list, first occurrences kept. -/
def dedup {α : Type} [DecidableEq α] : List α → List α
  | [] => []
  | a :: as => a :: (dedup as).filter (fun b => decide (b ≠ a))

/-- List update at an index. -/
def setAt {α : Type} : List α → Nat → α → List α
  | [], _, _ => []
  | _ :: as, 0, v => v :: as
  | a :: as, n + 1, v => a :: setAt as n v

/-- Insert in increasing order of `key`, after equals. -/
def insertBy {α : Type} (key : α → Nat) (x : α) : List α → List α
  | [] => [x]
  | a :: as => if key x < key a then x :: a :: as else a :: insertBy key x as

/-- Stable sort by increasing key. -/
def sortBy {α : Type} (key : α → Nat) (l : List α) : List α :=
  l.foldl (fun acc a => insertBy key a acc) []

/-- CRC-32 of the IEEE 802.3 polynomial, reflected form, one byte. -/
def crcByte (c : Word) (b : Byte) : Word :=
  (List.range 8).foldl (fun c _ => if c.getLsbD 0 then (c >>> 1) ^^^ 0xEDB88320#32 else c >>> 1)
    (c ^^^ (b.setWidth 32))

/-- CRC-32 (IEEE 802.3) of a byte list (R419). -/
def crc32 (bs : List Byte) : Word := ~~~(bs.foldl crcByte 0xFFFFFFFF#32)

end Sys2Proof.Machine
end

