-- ==== Sys2Proof/Machine/RegReset.lean ====
section
/-! DEFINITION. BAR0 offsets of the register blocks (Table 0.4) and the reset values of RW registers that do
not reset to 0. -/

namespace Sys2Proof.Machine
open Sys2Proof

def cpmBase : Nat := 0x10000
def lcsBase : Nat := 0x20000
def evrBase : Nat := 0x30000
def hqBase : Nat := 0x40000
def pepBase : Nat := 0x50000
def ethBase : Nat := 0x60000
def snsBase : Nat := 0x70000
def vcdBase : Nat := 0x80000
def sclBase : Nat := 0xA0000
def inpBase : Nat := 0xB0000
def bpmBase : Nat := 0xC0000
def schBase : Nat := 0xD0000
def stcBase : Nat := 0xE0000
def drcBase : Nat := 0x100000
def svcBase : Nat := 0x200000
def hearthBase (n : Nat) : Nat := 0x1000000 + n * 0x80000

/-- `off` is `base + k × stride` for some k below `n`. -/
def inArray (off base stride n : Nat) : Bool :=
  decide (base ≤ off ∧ off < base + stride * n ∧ (off - base) % stride = 0)

/-- The reset value of the RW register word at a BAR0 offset. -/
def regReset (off : Nat) : Word :=
  if off = cpmBase + 0x100 then 0x2
  else if off = cpmBase + 0x004 then 0x352
  else if off = cpmBase + 0x01C then 0x5F
  else if off = evrBase + 0x014 then 0xC
  else if inArray off (hqBase + 0x2C) 0x40 64 then 0x10000
  else if inArray off ethBase 0x40 2 then 0x5DC
  else if inArray off (bpmBase + 0x1000) 8 256 then 0xFFFF
  else if inArray off (hearthBase 0 + 0x2002C) 0x80000 32 then 0xFFFF
  else if inArray off (pepBase + 0x800C) 16 64 then 1
  else 0

end Sys2Proof.Machine
end

