-- ==== Sys2Proof/Machine/Table.lean ====
section
/-! DEFINITION. Sparse tables in one canonical form: keys strictly rising, no entry equal to what an
unlisted key reads as. Memories are `Table Byte` (lists of `Host.Cell`); numbered blocks (hearths,
queue pairs, sessions) are tables of records. -/

namespace Sys2Proof.Machine

/-- Key and value pairs, keys rising, no value equal to the key's default. -/
abbrev Table (β : Type) := List (Nat × β)

namespace Table
variable {β : Type}

/-- What key `k` reads as; `d` is the value of an unlisted key. -/
def get (d : β) : Table β → Nat → β
  | [], _ => d
  | (j, v) :: t, k => if j = k then v else get d t k

/-- The table without any entry of key `k`. -/
def erase : Table β → Nat → Table β
  | [], _ => []
  | (j, v) :: t, k => if j = k then erase t k else (j, v) :: erase t k

/-- `k ↦ v` put before the first larger key. -/
def insert : Table β → Nat → β → Table β
  | [], k, v => [(k, v)]
  | (j, w) :: t, k, v => if k < j then (k, v) :: (j, w) :: t else (j, w) :: insert t k v

/-- Write `v` at key `k`; a default value is not listed. -/
def set [DecidableEq β] (d : β) (t : Table β) (k : Nat) (v : β) : Table β :=
  if v = d then erase t k else insert (erase t k) k v

/-- Change the value at `k` by `f`. -/
def mod [DecidableEq β] (d : β) (t : Table β) (k : Nat) (f : β → β) : Table β :=
  set d t k (f (get d t k))

/-- Drop every entry whose key `p` accepts. -/
def drop (p : Nat → Bool) : Table β → Table β
  | [] => []
  | (j, v) :: t => if p j then drop p t else (j, v) :: drop p t

/-- Change the values at the keys `ks`, in order. -/
def modAll [DecidableEq β] (d : β) (t : Table β) (ks : List Nat) (f : Nat → β → β) : Table β :=
  ks.foldl (fun t k => mod d t k (f k)) t

/-- Change every listed value; a value that becomes the default is not listed. -/
def remap [DecidableEq β] (d : β) (f : Nat → β → β) : Table β → Table β
  | [] => []
  | (j, v) :: t => if f j v = d then remap d f t else (j, f j v) :: remap d f t

/-- All keys of the table are above `b`. -/
def above (b : Nat) : Table β → Bool
  | [] => true
  | (j, _) :: t => decide (b < j) && above b t

/-- The canonical form. -/
def wf [DecidableEq β] (d : β) : Table β → Bool
  | [] => true
  | (j, v) :: t => decide (v ≠ d) && above j t && wf d t

end Table

/-- The numbers below `n`, rising. -/
def upTo (n : Nat) : List Nat := List.range n

/-- The values of `f` at 0 … n−1 for which it gives one. -/
def firstSome {α : Type} (f : Nat → Option α) : List Nat → Option α
  | [] => none
  | k :: ks => match f k with
    | some a => some a
    | none => firstSome f ks

end Sys2Proof.Machine
end

