-- ==== Sys2Proof/Machine/TypesHearth.lean ====
section
/-! DEFINITION. What one hearth holds (chapters 2, 3 and 5): cores, ladles, flue ports, arrays,
scratchpad banks, hoops and arrival counters. -/

namespace Sys2Proof.Machine
open Sys2Proof

/-- Hearth states (Table 2.10). -/
inductive HearthState where
  | unassigned
  | active
  | removing
  | stoppingPendingEnable
  | faulted
  | testing
  deriving DecidableEq, Repr

/-- HRT_STATE.STATE (Table 2.13). -/
def HearthState.code : HearthState → Nat
  | .unassigned => 0
  | .active => 1
  | .removing => 2
  | .stoppingPendingEnable => 3
  | .faulted => 4
  | .testing => 5

/-- An integer register with its poison mark (R48). -/
structure XReg where
  v : Word
  p : Bool
  deriving DecidableEq, Repr

/-- A vector register with its poison mark. -/
structure VReg where
  v : Granule
  p : Bool
  deriving DecidableEq, Repr

/-- Ember core run states (Table 2.20). -/
inductive RunState where
  | idle
  | running
  | stalled
  | trapped
  | halted
  deriving DecidableEq, Repr

/-- EMB_STATUS.RUN. -/
def RunState.code : RunState → Nat
  | .idle => 0
  | .running => 1
  | .stalled => 2
  | .trapped => 3
  | .halted => 4

/-- Where a posted store goes once it lands. -/
inductive StoreDst where
  /-- Local address of a hearth's scratchpad or control region. -/
  | spm (hearth addr : Nat)
  /-- Outbound flue port slot. -/
  | port (hearth port offset : Nat)
  /-- Head advance register of an inbound port. -/
  | head (hearth port : Nat)
  deriving DecidableEq, Repr

/-- A store issued and not yet acknowledged (R44, R47). -/
structure FlightStore where
  dst : StoreDst
  data : List Byte
  poison : Bool
  /-- It has landed early for a later load or bump of the same core (R47, R138). -/
  landed : Bool
  /-- Delay tag that a bump or an advance carries (R60). -/
  tag : Nat
  deriving DecidableEq, Repr

/-- What a stalled core waits for. -/
inductive CoreWait where
  /-- A remote load: destination register (vector or integer), sign extension, address, length. -/
  | load (vec : Bool) (rd : Nat) (signed : Bool) (hearth addr len : Nat)
  | fence
  /-- A counter, its target, and the waiter's own cause: flue-empty or counter-wait (R60). -/
  | counter (c : Nat) (target : Word) (cause : Nat)
  | take (ladle rd : Nat)
  | ecall
  /-- The launch of a flit it has filled, or room for a store of (offset, bytes) behind a flit that waits. -/
  | flueFull (port : Nat) (store : Option (Nat × List Byte))
  deriving DecidableEq, Repr

/-- One ember core (R45, Table 2.19). -/
@[ext] structure Core where
  x : Table XReg
  v : Table VReg
  pc : Word
  run : RunState
  /-- EMB_STATUS.TRAP -/
  trap : Nat
  /-- EMB_PC: the program counter at the last stop or trap. -/
  stopPc : Word
  tval : Word
  removedAcc : Word
  /-- Posted stores, oldest first. -/
  stores : List FlightStore
  wait : Option CoreWait
  /-- The highest-priority cause that has stalled it since its last hand-over; 15 for none (R60). -/
  delay : Nat
  /-- The 8 KiB instruction cache: bytes and poison of each 32-byte line held, by address div 32 (R45). -/
  icache : Table (List (Byte × Bool))
  deriving DecidableEq, Repr

def Core.dflt : Core :=
  { x := [], v := [], pc := 0, run := .idle, trap := 0, stopPc := 0, tval := 0, removedAcc := 0,
    stores := [], wait := none, delay := 15, icache := [] }

/-- A steal in flight (R58 rules 4–6). -/
structure Steal where
  /-- Victims not yet tried, in order; the head is the one being tried. -/
  victims : List Nat
  /-- The probe's answer, (HEAD, TAIL) of the victim. -/
  probed : Option (Nat × Nat)
  /-- The swap's answer on its way back: none for a failed swap, else the stolen range. -/
  reply : Option (Option (Nat × Nat))
  deriving DecidableEq, Repr

/-- Who took, so that the answer finds its way: an ember core's register, or an array. -/
inductive Taker where
  | core (c rd : Nat)
  | array (a : Nat)
  deriving DecidableEq, Repr

/-- One ladle (R58, Table 2.16). -/
structure Ladle where
  head : Nat
  tail : Nat
  pending : Option (Nat × Nat)
  valid : Bool
  stealEn : Bool
  stealMax : Nat
  home : Nat
  job : Half
  /-- TOTAL and DONE_COUNT, meaningful at the home. -/
  total : Nat
  done : Nat
  /-- Byte offset of the completion bitmap in the home's scratchpad. -/
  bitmap : Nat
  /-- The owning command, as job and SEQ (R58 rule 7). -/
  seq : Word
  /-- First index of the round in the group (R183). -/
  base : Nat
  steal : Option Steal
  waiters : List Taker
  /-- Indices taken through this ladle and not yet reported complete (R59). -/
  held : List Nat
  deriving DecidableEq, Repr

def Ladle.dflt : Ladle :=
  { head := 0, tail := 0, pending := none, valid := false, stealEn := false, stealMax := 0, home := 0, job := 0,
    total := 0, done := 0, bitmap := 0, seq := 0, base := 0, steal := none, waiters := [], held := [] }

/-- Flue states (Table 2.8). -/
inductive FlueState where
  | closed
  | openF
  | draining
  | broken
  deriving DecidableEq, Repr

def FlueState.code : FlueState → Nat
  | .closed => 0
  | .openF => 1
  | .draining => 2
  | .broken => 3

/-- An outbound or inbound flue port (Table 2.17). -/
structure FluePort where
  valid : Bool
  state : FlueState
  /-- Lanes less 1. -/
  width : Nat
  peer : Nat
  peerPort : Nat
  flue : Nat
  depth : Nat
  credits : Nat
  /-- The flit slot being filled: byte mask and bytes (outbound only). -/
  slotMask : BitVec 64
  slot : BitVec 512
  slotPoison : Bool
  slotTag : Nat
  /-- Flits launched and not yet landed, oldest first, with poison and delay tag (outbound only). -/
  flight : List (BitVec 512 × Bool × Nat)
  /-- Delay tags of the credits on their way, oldest first, as (credits, tag) (inbound only). -/
  creditTags : List (Nat × Nat)
  deriving DecidableEq, Repr

def FluePort.dflt : FluePort :=
  { valid := false, state := .closed, width := 0, peer := 0, peerPort := 0, flue := 0, depth := 0, credits := 0,
    slotMask := 0, slot := 0, slotPoison := false, slotTag := 15, flight := [], creditTags := [] }

/-- Bank classes (Table 5.14). -/
inductive BankClass where
  | off
  | working
  | resident
  deriving DecidableEq, Repr

def BankClass.code : BankClass → Nat
  | .off => 0
  | .working => 1
  | .resident => 2

/-- Bank states (Table 5.3). -/
inductive BankState where
  | off
  | waking
  | scrubbing
  | ready
  | retained
  | testing
  | failed
  deriving DecidableEq, Repr

/-- One scratchpad bank. -/
structure Bank where
  cls : BankClass
  state : BankState
  /-- Resident tag: the model that owns the bank (R129). -/
  tag : Option Half
  /-- Class A won the bank's last contested cycle (R133). -/
  lastA : Bool
  /-- The last master granted in class A and in class B, and the last core (R133). -/
  grantA : Nat
  grantB : Nat
  grantCore : Nat
  /-- Turned off once the scrub under way ends (Table 5.3, hearth leaves its vat). -/
  offAfter : Bool
  deriving DecidableEq, Repr

def Bank.dflt : Bank :=
  { cls := .off, state := .off, tag := none, lastA := false, grantA := 13, grantB := 13, grantCore := 64, offAfter := false }

/-- An arrival counter (R139–R142). -/
structure Ctr where
  value : Word
  broken : Bool
  tag : Nat
  sources : Word
  deriving DecidableEq, Repr

def Ctr.dflt : Ctr := { value := 0, broken := false, tag := 15, sources := 0 }

/-- Hoop states (Table 5.8). -/
inductive HoopState where
  | unbound
  | bound
  | saved
  deriving DecidableEq, Repr

/-- A hoop (R144–R148). -/
structure Hoop where
  state : HoopState
  flue : Bool
  err : Bool
  tailCtr : Option Nat
  headCtr : Option Nat
  base : Nat
  size : Nat
  head : Word
  tail : Word
  deriving DecidableEq, Repr

def Hoop.dflt : Hoop :=
  { state := .unbound, flue := false, err := false, tailCtr := none, headCtr := none, base := 0, size := 0,
    head := 0, tail := 0 }

/-- TAIL − HEAD modulo 2³². -/
def Hoop.occ (h : Hoop) : Nat := seqDist h.tail h.head

/-- Results of a march (Table 5.19). -/
structure March where
  running : Bool
  preserving : Bool
  bank : Nat
  left : List Nat
  result : Nat
  fail : Word
  failAddr : Word
  deriving DecidableEq, Repr

/-- One 128-lane accumulator entry with its poison bit (R78). -/
structure AccRow where
  v : List Word
  p : Bool
  deriving DecidableEq, Repr

/-- An entry after a clear (R471): +0.0 in every lane. -/
def AccRow.dflt : AccRow := { v := List.replicate 128 0, p := false }

/-- A weight set as its feeder has written it so far (R66, R69): element codes expanded (INT8 sign-extended, or
BF16) by row, FP32 scales by group. -/
structure WSet where
  mode : Nat
  /-- GROUP field: G is 32, 64 or 128. -/
  group : Nat
  kValid : Nat
  nValid : Nat
  rows : List (List Half)
  scales : List (List Word)
  poison : Bool
  deriving DecidableEq, Repr

def WSet.empty : WSet := { mode := 0, group := 0, kValid := 0, nValid := 0, rows := [], scales := [], poison := false }

/-- A pass queued or in an array (Table 6.15). -/
structure Pass where
  job : Half
  seq : Word
  mode : Nat
  group : Nat
  grid : Nat
  model : Half
  wbase : Nat
  xbase : Nat
  xStride : Nat
  rows : Nat
  accBase : Nat
  kValid : Nat
  nValid : Nat
  /-- Address of the row mask, none to feed every row. -/
  mask : Option Nat
  /-- The counter wait: counter and target. -/
  wait : Option (Nat × Word)
  acc : Bool
  reuse : Bool
  /-- Fed vectors, as (tile row, element codes, poison), read when the pass starts. -/
  fed : List (Nat × List Half × Bool)
  /-- The set it uses once a later set has taken its place in the cells. -/
  own : Option WSet
  deriving DecidableEq, Repr

/-- A drain queued or running. -/
structure DrainRun where
  job : Half
  seq : Word
  desc : List Byte
  entryBase : Nat
  count : Nat
  /-- Rows landed. -/
  done : Nat
  deriving DecidableEq, Repr

/-- One matrix array with its feeders and its drain. -/
structure Arr where
  active : WSet
  shadow : WSet
  tag : Bool
  /-- Raw passes waiting, oldest first, and those whose vectors are in the array. -/
  queue : List Pass
  flight : List Pass
  acc : Table AccRow
  drains : List DrainRun
  drain : Option DrainRun
  /-- The layer command whose tiles it runs, and the half of its entries that the next tile takes (R182). -/
  half : Option (Half × Word × Nat)
  /-- The weight set its cells hold for a layer command: job, SEQ and the set's number (R179). -/
  lastSet : Option (Half × Word × Nat)
  passes : DWord
  fed : DWord
  drainRows : DWord
  throttle : DWord
  poisonRows : Word
  deriving DecidableEq, Repr

def Arr.dflt : Arr :=
  { active := WSet.empty, shadow := WSet.empty, tag := false, queue := [], flight := [], acc := [], drains := [],
    drain := none, half := none, lastSet := none, passes := 0, fed := 0, drainRows := 0, throttle := 0, poisonRows := 0 }

end Sys2Proof.Machine
end

