-- ==== Sys2Proof/Machine/TypesHost.lean ====
section
/-! DEFINITION. The PCIe endpoint of chapter 14: queue pairs, messages, tags, windows, the link, and
what leaves the device. -/

namespace Sys2Proof.Machine
open Sys2Proof

/-- The four states that every enable and disable pair goes through (Tables 14.4, 11.6, 10.5, 15.2). -/
inductive Run4 where
  | disabled
  | running
  | stopping
  | stoppingPendingEnable
  deriving DecidableEq, Repr

/-- The STATE field of the four states. -/
def Run4.code : Run4 → Nat
  | .disabled => 0
  | .running => 1
  | .stopping => 2
  | .stoppingPendingEnable => 3

/-- One queue pair (R359–R365). -/
@[ext] structure Qp where
  state : Run4
  /-- HQ_QP_STATUS.REASON -/
  reason : Byte
  /-- Sampled on entry to ENABLED (R365). -/
  cmdBase : DWord
  rspBase : DWord
  headwbAddr : DWord
  cfg : Word
  cmdHead : Word
  cmdTail : Word
  /-- Ring position of the next entry to fetch. -/
  fetchPos : Word
  rspHead : Word
  rspTail : Word
  /-- Fetched entries not yet accepted, in ring order, with their ring positions (R361). -/
  fetchBuf : List (Word × Entry64)
  /-- Entries posted since the vector last fired for the queue pair (R364). -/
  posted : Nat
  /-- When the oldest of those was posted. -/
  postedAt : Nat
  /-- The open job (R361). -/
  openJob : Option Half
  /-- Jobs killed or torn down whose later entries are discarded unread (R361, R338). -/
  torn : List Half
  /-- When CMD_HEAD was last written back, none for never (R362). -/
  wbAt : Option Nat
  deriving DecidableEq, Repr

/-- The reset queue pair: DISABLED, no job. -/
def Qp.dflt : Qp :=
  { state := .disabled, reason := 0, cmdBase := 0, rspBase := 0, headwbAddr := 0, cfg := 0, cmdHead := 0,
    cmdTail := 0, fetchPos := 0, rspHead := 0, rspTail := 0, fetchBuf := [], posted := 0, postedAt := 0,
    openJob := none, torn := [], wbAt := none }

/-- Entries of the command ring, from CMD_SIZE. -/
def Qp.cmdEntries (q : Qp) : Nat := 2 ^ (4 + bits q.cfg 3 0)
/-- Entries of the response ring, from RSP_SIZE. -/
def Qp.rspEntries (q : Qp) : Nat := 2 ^ (8 + bits q.cfg 7 4)

/-- How R368 treats a message when the store is full. -/
inductive MsgClass where
  /-- Power state, reload result, curd low-water, event notice, update progress, join change. -/
  | droppable
  /-- Command complete, status and media done. -/
  | kept
  deriving DecidableEq, Repr

/-- A message of 32-byte entries for one queue pair (R366); PHASE and the queue pair are put in when it is posted. -/
structure Msg where
  qp : Nat
  cls : MsgClass
  entry : Entry32
  deriving DecidableEq, Repr

/-- A command read outstanding under a tag (R370). -/
structure Tag where
  qp : Nat
  /-- Ring position of the first entry read. -/
  pos : Word
  count : Nat
  /-- 1 when this read is the reissue of a timed-out read (R371). -/
  reissue : Bool
  quarantined : Bool
  deriving DecidableEq, Repr

/-- An inbound DRAM window in force (R356). -/
structure Window where
  base : DWord
  cfg : Word
  deriving DecidableEq, Repr

/-- Completion status of a memory or configuration request. -/
inductive CplStatus where
  | success
  | unsupported
  | abort
  | retry
  deriving DecidableEq, Repr

/-- Error classes of Table 14.9 and of R371 to R374. -/
inductive AerErr where
  | correctable
  | poisonedTlp
  | ecrc
  | completionTimeout
  | unexpectedCompletion
  | completerAbort
  | unsupportedRequest
  | fatal
  deriving DecidableEq, Repr

/-- RTSP requests of the client (R390). -/
inductive RtspReq where
  | describe
  | setup
  | play
  | getParameter
  | teardown
  deriving DecidableEq, Repr

/-- What leaves the device: writes to host memory, completions, frames, SMBus replies, pins. -/
inductive Output where
  /-- A posted write to host memory, with its relaxed-ordering attribute. -/
  | hostWrite (addr : Nat) (data : List Byte) (relaxed : Bool)
  /-- A command read issued under a tag. -/
  | hostRead (tag addr len : Nat) (relaxed : Bool)
  /-- The MSI-X message of a vector. -/
  | msix (vector : Nat) (addr : DWord) (data : Word)
  /-- A completion to a BAR read. -/
  | barRead (bar offset : Nat) (data : List Byte) (poisoned : Bool) (status : CplStatus)
  /-- A completion with Unsupported Request to a request that hits no BAR. -/
  | unsupportedRequest
  /-- The answer to a configuration request. -/
  | config (field : ConfigField) (data : Word) (status : CplStatus)
  /-- An error reported under AER (Table 14.9). -/
  | aer (err : AerErr)
  /-- An Ethernet datagram or frame: link, destination, payload. -/
  | datagram (link : Nat) (dst : List Byte) (port : Nat) (payload : List Byte)
  /-- An RTSP request over TCP: link, session, request, with the URL and credentials of its descriptor. -/
  | rtsp (link ses : Nat) (req : RtspReq) (descriptor : List Byte)
  /-- An RTCP receiver report of a session (R388). -/
  | rtcp (link ses : Nat)
  /-- Mantel firmware's answer to an ARP, NDP or ICMP frame (Table 15.1). -/
  | ethAnswer (link : Nat) (payload : List Byte)
  /-- PFC for the join priority of a port: 1 pauses, 0 releases. -/
  | ethControl (link : Nat) (what : Nat)
  /-- Bytes returned on SMBus; none for a NACK. -/
  | smbus (data : Option (List Byte))
  /-- A value shifted out at TDO. -/
  | jtag (data : List Bool)
  deriving DecidableEq, Repr

/-- The PCIe link and its counters (R379). -/
@[ext] structure Pcie where
  dlActive : Bool
  speed : Nat
  width : Nat
  pm : Nat
  commitStatus : Word
  cplTimeout : Word
  lateCpl : Word
  unexpCpl : Word
  poisonRx : Word
  poisonTx : Word
  winMiss : Word
  windows : Table Window
  tags : Table (Option Tag)
  /-- Next tag number to try. -/
  nextTag : Nat
  /-- MSI-X Pending Bit Array. -/
  pba : DWord
  /-- Requests are answered with Retry Status (R377): BOOTING or after an FLR. -/
  notReady : Bool
  /-- An FLR waits for a reload in QUIESCING or APPLYING, or for the Banked exit (R376, R377). -/
  flrBusy : Bool
  msgHwm : Nat
  msgDropped : Word
  doorbellDiscard : Word
  /-- Max Payload Size and Max Read Request Size programmed, in bytes (Table 14.1). -/
  mps : Nat
  mrrs : Nat
  /-- MSI-X Enable and Function Mask. -/
  msixOn : Bool
  msixMask : Bool
  /-- Base address registers as programmed. -/
  bars : Table Word
  /-- Subsystem IDs from the boot flash; none where it holds none (R354). -/
  subsystem : Option Word
  deriving DecidableEq, Repr

end Sys2Proof.Machine
end

