-- ==== Sys2Proof/Machine/TypesJob.lean ====
section
/-! DEFINITION. Jobs, commands, plans, vats, the structure image, the cave, models and buffer pools
(chapters 4, 6, 7 and 13). -/

namespace Sys2Proof.Machine
open Sys2Proof

/-- Command states (Table 6.1); RETIRED, DISCARDED and FAILED commands are no longer held. -/
inductive CmdState where
  | waiting
  | starting
  | executing
  /-- Its part is finished in every hearth, every store landed (R160): it may retire. -/
  | finished
  deriving DecidableEq, Repr

/-- A tile plan (R179–R183). -/
structure Plan where
  /-- Level-0 tile: rows, columns, reduction elements. -/
  mt : Nat
  nt : Nat
  kt : Nat
  /-- Vectors per pass. -/
  mt1 : Nat
  /-- Blocks of M, N and K at level 0. -/
  mb : Nat
  nb : Nat
  kb : Nat
  order0 : Nat
  order1 : Nat
  /-- AUTO: output tiles t, parts per tile s; others use the enumeration of R179. -/
  auto : Bool
  t : Nat
  s : Nat
  /-- Ladle indices, rounds and the round in the ladles (R183). -/
  u : Nat
  round : Nat
  stealMax : Nat
  stealEn : Bool
  deriving DecidableEq, Repr

/-- One command in flight (R157–R161). -/
structure Cmd where
  qp : Nat
  job : Half
  seq : Word
  entry : Entry64
  state : CmdState
  /-- Hearths holding an in-flight entry for it (R53). -/
  hearths : List Nat
  /-- Hearths that have still to finish their part. -/
  partsLeft : List Nat
  /-- Ladle number of its group (R184). -/
  ladle : Option Nat
  plan : Option Plan
  /-- Rows moved so far by the fetch engine, or stages done (LOAD, STORE, FILL). -/
  moved : Nat
  /-- Cores started and not yet ended, as (hearth, core) (KERNEL). -/
  cores : List (Nat × Nat)
  /-- End of its model-space ranges, for a check 0x07 that is still to run (R472). -/
  deferred07 : Option Nat
  /-- Every hearth it was delivered to, ACTIVE or not: the queues it stands in (R158). -/
  queues : List Nat
  /-- Order of its start among all commands. -/
  execOrder : Nat
  /-- Weight sets loaded while WAITING, as (hearth, the set's 64-bit address, its place in that hearth's reserve) (R187). -/
  prefetch : List (Nat × Nat × Nat)
  /-- Tensors of its model that were resident when it started, by residency order (R341). -/
  resident : List Nat
  /-- The curd that a CURD_TAKE was served, as (bucket, SEQ), or the DETAIL it was refused with. -/
  served : Option (Nat × Word)
  /-- Split-K sums per output tile: parts combined so far, in landing order, and the sum (R185). -/
  landed : List (Nat × Nat × List AccRow)
  /-- The drain descriptor or template read when it started (R82, R178). -/
  desc : List Byte
  /-- The stage list of a FUSED command, read when it started. -/
  stages : List Byte
  /-- Slots that the post-processing kernel has done under it, as (slot, source, hearth, core) (R317). -/
  posted : List (Nat × Nat × Nat × Nat)
  deriving DecidableEq, Repr

/-- Job states (Table 13.1); a GONE job is no longer held. -/
inductive JobState where
  | queued
  | running
  | switchingOut
  | suspended
  | switchingIn
  | tearingDown
  deriving DecidableEq, Repr

/-- What a switch out saves of one hearth (R334). -/
structure SavedHearth where
  hearth : Nat
  written : Word
  mem : List (Nat × Byte)
  poison : List (Nat × Bool)
  ctrs : Table Ctr
  hoops : Table Hoop
  ladles : Table Ladle
  cores : Table Core
  /-- The accumulators and active sets of the arrays, with their queued passes and drains. -/
  arrs : Table Arr
  deriving DecidableEq, Repr

/-- Stages of an adaptation job (Table 4.7). -/
inductive AdaptState where
  | preparing
  | stepping
  | quantising
  | staged
  | publishing
  | done
  | failed
  | abandoned
  deriving DecidableEq, Repr

/-- The masters of one trainable tensor (R110): BF16 weights in row-major order, FP32 group scales. -/
structure Masters where
  num : Nat
  w : List Half
  scales : List Word
  deriving DecidableEq, Repr

/-- The optimizer state of one tensor: moments as they decode (R112). -/
structure Moments where
  m : List Word
  v : List Word
  ms : List Word
  vs : List Word
  deriving DecidableEq, Repr

/-- A row of activations saved for the backward pass (Table 4.4): INT8 codes with a row scale, or BF16. -/
inductive SavedRow where
  | int8 (scale : Word) (codes : List Int)
  | bf16 (codes : List Half)
  deriving DecidableEq, Repr

/-- An adaptation job's own state (R110–R117). -/
structure Adapt where
  state : AdaptState
  /-- The 64-byte parameter block read at the start. -/
  params : List Byte
  /-- Steps done. -/
  steps : Nat
  tensors : List (Masters × Moments)
  /-- Activations that the step's forward pass saved. -/
  acts : List SavedRow
  deriving DecidableEq, Repr

/-- One job (R169, Table 6.7). -/
@[ext] structure Job where
  qp : Nat
  vat : Nat
  state : JobState
  kind : Nat
  prio : Nat
  fwBanks : Nat
  semMask : Word
  bind : List Half
  /-- Version bound per model of `bind`, once JOB_BEGIN has started (R118). -/
  bound : List (Half × Word)
  paramAddr : DWord
  counterMask : DWord
  hoopMask : Half
  /-- Order of acceptance among all jobs (R332). -/
  order : Nat
  /-- SEQ of JOB_BEGIN and of the last accepted command. -/
  beginSeq : Word
  lastSeq : Word
  /-- JOB_BEGIN has started. -/
  begun : Bool
  /-- JOB_END has been accepted. -/
  ended : Bool
  /-- A kill latched in PUBLISHING (R337). -/
  killLatched : Bool
  /-- Status and DETAIL of the fault or kill under way, and whether the raising rule has posted it (R338). -/
  cause : Option (Half × Byte × Bool)
  saveSlot : Option Nat
  saved : List SavedHearth
  /-- It was QUEUED or SUSPENDED when its teardown began: it holds no engine of the vat. -/
  passive : Bool
  /-- Steps 3 to 5 of its teardown are done, and its banks' scrub runs (R338). -/
  cleared : Bool
  adapt : Option Adapt
  deriving DecidableEq, Repr

/-- Vat states (Table 7.11). -/
inductive VatState where
  | unformed
  | running
  | stopping
  | stoppingPendingEnable
  | stopped
  | reloading
  | holding
  deriving DecidableEq, Repr

def VatState.code : VatState → Nat
  | .unformed => 0
  | .running => 1
  | .stopping => 2
  | .stoppingPendingEnable => 3
  | .stopped => 4
  | .reloading => 5
  | .holding => 6

/-- A request latched in HOLDING or RELOADING (Table 7.17). -/
inductive VatLatch where
  | none
  | disable
  | enable
  deriving DecidableEq, Repr

def VatLatch.code : VatLatch → Nat
  | .none => 0
  | .disable => 1
  | .enable => 2

/-- Cave residency of one model version in a vat (Table 13.2). -/
inductive CaveState where
  | loading
  | resident
  | partialRes
  deriving DecidableEq, Repr

/-- A piece of a tensor placed in a resident bank (R339, R340). -/
structure CavePiece where
  /-- Index of the tensor in the version's residency order, and the stripe of it. -/
  tensor : Nat
  stripe : Nat
  /-- Offset in the tensor area and bytes. -/
  offset : Nat
  len : Nat
  hearth : Nat
  /-- Local scratchpad address in a resident bank. -/
  addr : Nat
  landed : Bool
  deriving DecidableEq, Repr

/-- The directory entry of one version (R339–R343); a version not listed is ABSENT. -/
structure CaveEntry where
  model : Half
  version : Word
  state : CaveState
  pieces : List CavePiece
  spilled : List Nat
  /-- Order of last binding (R342). -/
  bound : Nat
  deriving DecidableEq, Repr

/-- A deferred pre-emption (R336). -/
structure Deferral where
  preemptor : Half
  since : Nat
  deriving DecidableEq, Repr

/-- One vat (R206, R332–R343). -/
@[ext] structure Vat where
  state : VatState
  latch : VatLatch
  /-- It was STOPPED when its reload reached QUIESCING. -/
  wasStopped : Bool
  deferral : Option Deferral
  switchLast : Word
  switches : Word
  deferrals : Word
  evictions : Word
  spilledCount : Word
  switchAt : Nat
  cave : List CaveEntry
  /-- Partition offsets of the tracker states in use. -/
  trackers : List Nat
  deriving DecidableEq, Repr

def Vat.dflt : Vat :=
  { state := .unformed, latch := .none, wasStopped := false, deferral := none, switchLast := 0, switches := 0,
    deferrals := 0, evictions := 0, spilledCount := 0, switchAt := 0, cave := [], trackers := [] }

/-- Stream-class record (Table 7.6). -/
structure ClassRec where
  cls : Nat
  codecs : Nat
  bitDepth : Nat
  maxRefs : Nat
  maxWidth : Nat
  maxHeight : Nat
  maxLuma : Nat
  maxKbps : Nat
  maxFps : Nat
  consumers : Nat
  deriving DecidableEq, Repr

/-- FLUES record (Table 7.8). -/
structure FlueRec where
  flue : Nat
  width : Nat
  depth : Nat
  src : Nat
  srcPort : Nat
  dst : Nat
  dstPort : Nat
  rxBase : Nat
  route : Nat
  hops : Nat
  path : Nat
  deriving DecidableEq, Repr

/-- GROUPS record (Table 7.9). -/
structure GroupRec where
  group : Nat
  vat : Nat
  decoders : Nat
  scalers : Nat
  classes : Nat
  maxSessions : Nat
  floor : Nat
  dramBase : Nat
  dramUnits : Nat
  deriving DecidableEq, Repr

/-- One region: its vat, bank maps, flues and groups (R195, R198–R202). -/
structure Region where
  region : Nat
  size : Nat
  dramTarget : Nat
  dramBase : Nat
  dramUnits : Nat
  hearths : List Nat
  /-- Bank class map per hearth, as SPM_BANK_CLASS. -/
  banks : List (Nat × Nat)
  flues : List FlueRec
  groups : List GroupRec
  deriving DecidableEq, Repr

/-- A parsed structure image (R195–R202), with the bytes it came from. -/
structure Image where
  version : Word
  imageBytes : Nat
  rollback : Nat
  modelBase : Nat
  modelUnits : Nat
  portTarget : List Nat
  classes : List ClassRec
  regions : List Region
  raw : List Byte
  deriving DecidableEq, Repr

def Image.empty : Image :=
  { version := 0, imageBytes := 0, rollback := 0, modelBase := 0, modelUnits := 0, portTarget := [], classes := [],
    regions := [], raw := [] }

/-- Reload engine states (Table 7.12). -/
inductive ReloadState where
  | idle
  | verifying
  | waitingIdle
  | quiescing
  | applying
  deriving DecidableEq, Repr

def ReloadState.code : ReloadState → Nat
  | .idle => 0
  | .verifying => 1
  | .waitingIdle => 2
  | .quiescing => 3
  | .applying => 4

/-- The reload engine (R207–R213). -/
structure Reload where
  state : ReloadState
  region : Nat
  kill : Bool
  detail : Nat
  result : Nat
  verifyUs : Nat
  quiesceUs : Nat
  count : Word
  startedAt : Nat
  verifiedAt : Nat
  quiesceAt : Nat
  /-- The image that passed its checks and is being applied. -/
  staged : Image
  deriving DecidableEq, Repr

def Reload.reset : Reload :=
  { state := .idle, region := 0, kill := false, detail := 0, result := 0, verifyUs := 0, quiesceUs := 0, count := 0, startedAt := 0,
    verifiedAt := 0, quiesceAt := 0, staged := Image.empty }

/-- Model version states (Table 4.8). -/
inductive VersionState where
  | staged
  | current
  | retiring
  | idle
  deriving DecidableEq, Repr

/-- A tensor of a version: its place in the tensor area, and its column blocks (0 for none). -/
structure TensorRec where
  offset : Nat
  len : Nat
  blocks : Nat
  /-- Tensors shared between versions name one store address. -/
  store : Nat
  /-- Rows, columns, GROUP field and grid slot of a BELL weight tensor. -/
  k : Nat
  n : Nat
  group : Nat
  grid : Nat
  /-- Its number in the package's trainable list. -/
  train : Option Nat
  deriving DecidableEq, Repr

/-- A held model version (R118–R121); a version not listed is FREED. -/
structure Version where
  model : Half
  version : Word
  state : VersionState
  /-- Device DRAM address and bytes of the tensor area. -/
  base : Nat
  len : Nat
  tensors : List TensorRec
  /-- Bell grid slots 1–7, 16 levels each (R98). -/
  grids : List (Nat × List Half)
  /-- Masters held until it is freed (R120). -/
  masters : List Masters
  deriving DecidableEq, Repr

end Sys2Proof.Machine
end

