-- ==== Sys2Proof/Machine/StateHearth.lean ====
section
/-! DEFINITION. The state of one hearth, gathered (Table 2.1). -/

namespace Sys2Proof.Machine
open Sys2Proof

/-- Counters of the HRT_ and SPM_ blocks that only count (R7). -/
structure HearthCounts where
  dupDone : Word := 0
  badDone : Word := 0
  stealOk : Word := 0
  stealFail : Word := 0
  flueDiscard : Word := 0
  eccCorr : Word := 0
  eccUncorr : Word := 0
  /-- SPM_ECC_LAST, packed as Table 5.16. -/
  eccLast : Word := 0
  offAccess : Word := 0
  resDenied : Word := 0
  ctlDiscard : Word := 0
  bar4Discard : Word := 0
  /-- By master and by bank (R134). -/
  conflict : Table Word := []
  bankConflict : Table Word := []
  /-- By cause code of Table 2.9. -/
  stallArr : Table DWord := []
  stallEmb : Table DWord := []
  deriving DecidableEq, Repr

/-- A run of the reserve that the tiling firmware has given to a command (R170). -/
structure ResBlock where
  job : Nat
  seq : Word
  addr : Nat
  len : Nat
  deriving DecidableEq, Repr

/-- One hearth. -/
@[ext] structure Hearth where
  state : HearthState
  /-- HRT_HCC_HEARTBEAT, and when it last changed. -/
  heartbeat : Word
  beatAt : Nat
  /-- HRT_CMD_OCC.HIGH_WATER; OCCUPIED is counted from the commands. -/
  cmdHwm : Nat
  counts : HearthCounts
  ladles : Table Ladle
  outPorts : Table FluePort
  inPorts : Table FluePort
  cores : Table Core
  arrs : Table Arr
  /-- Scratchpad bytes by local address; an unlisted byte is zero (R127, R131). -/
  mem : Table Byte
  /-- Granules with their poison bit set, by address div 16 (R124). -/
  poison : Table Bool
  /-- Granules corrected on a read and not yet written back (R125). -/
  eccPending : List Nat
  banks : Table Bank
  /-- Banks the scrub engine has still to do, in order; the head is being scrubbed (R131). -/
  scrubLeft : List Nat
  march : March
  hoops : Table Hoop
  ctrs : Table Ctr
  /-- Banks with their WRITTEN bit set (chapter 13). -/
  written : Word
  /-- One above the word last read by the rotator of master m; 0 before any read (R135). -/
  rotator : Table Nat
  /-- The HCC's 64 KiB private memory, as the tiling firmware loaded into it leaves it (Table 2.1, R470). -/
  hccMem : List Byte
  /-- What the firmware has placed in its reserve banks (R170, assumption log 23). -/
  reserve : List ResBlock
  /-- Cause 1 heartbeat … 5 RETIRE of the last declared fault. -/
  faultCause : Nat
  deriving DecidableEq, Repr

def March.dflt : March :=
  { running := false, preserving := false, bank := 0, left := [], result := 0, fail := 0, failAddr := 0 }

/-- A hearth after reset: UNASSIGNED, banks off, memory scrubbed. -/
def Hearth.dflt : Hearth :=
  { state := .unassigned, heartbeat := 0, beatAt := 0, cmdHwm := 0, counts := {}, ladles := [], outPorts := [],
    inPorts := [], cores := [], arrs := [], mem := [], poison := [], eccPending := [], banks := [], scrubLeft := [],
    march := March.dflt, hoops := [], ctrs := [], written := 0, rotator := [], hccMem := [], reserve := [], faultCause := 0 }

/-- A completion on its way to the home hearth (R58 rule 7). -/
structure DoneMsg where
  src : Nat
  ladle : Nat
  home : Nat
  index : Nat
  deriving DecidableEq, Repr

end Sys2Proof.Machine
end

