-- ==== Sys2Proof/Machine/TypesBoot.lean ====
section
/-! DEFINITION. Boot flash slots, fuses, orders, attestation and updates (chapter 17). -/

namespace Sys2Proof.Machine
open Sys2Proof

/-- Slot states (Table 17.9). -/
inductive SlotState where
  | empty
  | writing
  | pending
  | trial
  | confirmed
  | old
  | failed
  deriving DecidableEq, Repr

/-- SVC_STATUS.SLOT_A and SLOT_B. -/
def SlotState.code : SlotState → Nat
  | .empty => 0
  | .writing => 1
  | .pending => 2
  | .trial => 3
  | .confirmed => 4
  | .old => 5
  | .failed => 6

/-- One firmware slot of the boot flash with its part of the slot record (R422, R424). -/
structure Slot where
  state : SlotState
  attempts : Nat
  /-- The package's bytes as far as written. -/
  data : List Byte
  deriving DecidableEq, Repr

def Slot.dflt : Slot := { state := .empty, attempts := 0, data := [] }

/-- The counted fuse banks (R431, Table 17.6): value and changes left. -/
structure Fuses where
  cls : Nat
  clsLeft : Nat
  owner : Bool
  ownerLeft : Nat
  rollback : Nat
  rollbackLeft : Nat
  revoked : BitVec 4
  revokedLeft : Nat
  /-- Bit r: region r locked. -/
  locked : Word
  /-- Changes used of each region's 8. -/
  lockUsed : Table Nat
  digests : Table (BitVec 256)
  /-- Root-key slots: SHA-256 of the public key; none for an empty slot (R428). -/
  keyHash : Table (Option (BitVec 256))
  deriving DecidableEq, Repr

/-- As shipped: 60 W, unlocked, every change left (Table 17.6); no root key is stated. -/
def Fuses.shipped : Fuses :=
  { cls := 1, clsLeft := 6, owner := false, ownerLeft := 4, rollback := 0, rollbackLeft := 96, revoked := 0, revokedLeft := 3,
    locked := 0, lockUsed := [], digests := [], keyHash := [] }

/-- The identity area of the boot flash (Table 17.1). -/
structure Identity where
  serial : BitVec 128
  cert : List Byte
  /-- Root public key moduli by slot. -/
  moduli : Table (List Byte)
  /-- MAC addresses of links 0–7, and of the service port at 8. -/
  macs : Table DWord
  /-- PCIe subsystem IDs (R354). -/
  subsystem : Option Word
  deriving DecidableEq, Repr

/-- How far a start has come (R29, R424). -/
inductive BootPhase where
  /-- Power-on reset, or PERST_N asserted. -/
  | held
  /-- Waiting for the root PLL to lock. -/
  | relock
  /-- Clocks gated by a lost lock or a trip; the fundamental reset follows the lock (R29, R460). -/
  | gated
  /-- A slot is chosen and its firmware loaded. -/
  | loaded
  /-- The firmware runs. -/
  | started
  deriving DecidableEq, Repr

/-- SVC_STATUS.UPDATE -/
inductive UpdState where
  | idle
  | receiving
  | verifying
  deriving DecidableEq, Repr

def UpdState.code : UpdState → Nat
  | .idle => 0
  | .receiving => 1
  | .verifying => 2

/-- The update transfer being received (R434, R435). -/
structure Update where
  state : UpdState
  /-- The flow it comes by. -/
  flow : FlowId
  transfer : Word
  slot : Nat
  rxBytes : Nat
  pkgBytes : Nat
  deriving DecidableEq, Repr

def Update.idle : Update :=
  { state := .idle, flow := .service, transfer := 0, slot := 0, rxBytes := 0, pkgBytes := 0 }

/-- An offer passed along the chain (R441): to whom, under which TRANSFER, and whether it was accepted. -/
structure Forward where
  member : Nat
  transfer : Word
  accepted : Bool
  deriving DecidableEq, Repr

/-- The mantel's boot, security and update state. -/
@[ext] structure Boot where
  phase : BootPhase
  slotA : Slot
  slotB : Slot
  /-- The running slot: 0 A, 1 B. -/
  active : Nat
  degraded : Bool
  /-- FAILED channels and FAULTED hearths at the CONFIRMED slot's last start (R437). -/
  lastFailed : Nat
  lastFaulted : Nat
  /-- The same counts of the start under way or last ended. -/
  startFailed : Nat
  startFaulted : Nat
  /-- The draw check of the running TRIAL slot has passed. -/
  drawOk : Bool
  /-- The structure image of the start failed its checks (Table 17.3). -/
  imageBad : Bool
  /-- A start model failed its signature. -/
  modelBad : Bool
  /-- When the confirmation timer started. -/
  confirmAt : Option Nat
  /-- SVC_UPDATE_STATUS -/
  updStatus : Word
  update : Update
  forward : Option Forward
  /-- Settings records: the kept SVC_ registers, by BAR0 offset, and the formats kept (R440). -/
  settings : Table Word
  formats : List Half
  fuses : Fuses
  identity : Identity
  nonce : BitVec 128
  orderStatus : Word
  /-- The order whose burn is under way. -/
  order : Option (List Byte)
  attestBusy : Bool
  attestReady : Bool
  attest : List Byte
  /-- The SVC_RECOVERY window, and the OFFSET of the next piece (R426). -/
  recWindow : Table Byte
  recNext : Nat
  deriving DecidableEq, Repr

def Boot.reset : Boot :=
  { phase := .held, slotA := Slot.dflt, slotB := Slot.dflt, active := 0, degraded := false, lastFailed := 0, lastFaulted := 0, startFailed := 0, startFaulted := 0, drawOk := false,
    imageBad := false, modelBad := false, confirmAt := none, updStatus := 0, update := Update.idle, forward := none, settings := [], formats := [],
    fuses := Fuses.shipped, identity := { serial := 0, cert := [], moduli := [], macs := [], subsystem := none }, nonce := 0, orderStatus := 0,
    order := none, attestBusy := false, attestReady := false, attest := [], recWindow := [], recNext := 0 }

end Sys2Proof.Machine
end

