-- ==== Sys2Proof/Machine/TypesDram.lean ====
section
/-! DEFINITION. The DRAM channel controllers of chapter 8: queues, banks, schedule, counters. -/

namespace Sys2Proof.Machine
open Sys2Proof

/-- Channel states (Table 8.5). -/
inductive ChState where
  | init
  | training
  | online
  | retraining
  | fullRetrain
  | selfRefresh
  | failed
  deriving DecidableEq, Repr

/-- DRC_CH_STATUS.STATE (Table 8.8). -/
def ChState.code : ChState → Nat
  | .init => 0
  | .training => 1
  | .online => 2
  | .retraining => 3
  | .fullRetrain => 4
  | .selfRefresh => 5
  | .failed => 6

/-- A request in a channel (R224–R230). -/
structure DReq where
  /-- Order of arrival at the channel's router. -/
  id : Nat
  /-- Port 0–39; 40 for the controller's own requests. -/
  port : Nat
  addr : Nat
  len : Nat
  write : Bool
  /-- Whole beats a write covers; a partial beat needs a read first (R218). -/
  rmw : Bool
  /-- The read of a read-modify-write has issued. -/
  readDone : Bool
  hint : Nat
  /-- Held in the router in the bulk class, as fetch-engine transfers are (R42, R227). -/
  bulk : Bool
  /-- Cycle of arrival at the router, and of entry into the queue: the time between counts under memory-wait. -/
  came : Nat
  at_ : Nat
  /-- A write's bytes, until it enters the queue (R228). -/
  data : List (Byte × Bool)
  /-- Beats of the line that a write-back covers; empty for any other request (R231). -/
  beats : List Nat
  /-- Queued during a retraining pause or full retraining; during a window or held by its fence (R230). -/
  sawRetrain : Bool
  sawRefresh : Bool
  /-- Its row was opened for it. -/
  missed : Bool
  /-- A patrol read, with the symbols in error that it meets: beat, symbol, two or more (R234). -/
  patrol : Bool
  found : List (Nat × Nat × Bool)
  deriving DecidableEq, Repr

/-- A read whose column command has issued. -/
structure DFlight where
  req : DReq
  data : List (Byte × Bool)
  /-- Cycle of the column command. -/
  col : Nat
  /-- Beats of the line that a waiting write-back serves, and beats that hold the stored-poison pattern (R231, R475). -/
  clean : List Nat
  bad : List Nat
  deriving DecidableEq, Repr

/-- One bank of a channel: its open row and the cycles of its last commands. -/
structure DBank where
  row : Option Nat
  act : Option Nat
  pre : Option Nat
  read : Option Nat
  /-- End of its last write data. -/
  wrEnd : Option Nat
  /-- The last request to the row asked to keep it open, and when its column command issued (R229). -/
  keep : Bool
  used : Nat
  /-- Row hits served while an older request to another row waited (R226). -/
  hits : Nat
  /-- The read-modify-write that holds the bank (R218). -/
  holder : Option Nat
  deriving DecidableEq, Repr

def DBank.dflt : DBank :=
  { row := none, act := none, pre := none, read := none, wrEnd := none, keep := false, used := 0, hits := 0, holder := none }

/-- A response: read data at the controller's output, or the acknowledgement of a write, with no data (R219, R228). -/
structure DResp where
  port : Nat
  addr : Nat
  write : Bool
  data : List (Byte × Bool)
  /-- Delay tag of R230; 15 for none. -/
  tag : Nat
  /-- Cycles in the router's buffer, which the requester counts under memory-wait (R227). -/
  held : Nat
  deriving DecidableEq, Repr

/-- One channel controller. -/
@[ext] structure Channel where
  state : ChState
  latched : Bool
  attempt : Nat
  eccCorr : Word
  eccUncorr : Word
  lastAddr : DWord
  lastInfo : Word
  rowHits : DWord
  rowMisses : DWord
  readLines : DWord
  writeLines : DWord
  retrainCount : Word
  fullUs : Half
  pauseNs : Half
  wqHwm : Nat
  rqHwm : Nat
  fwdCount : Word
  /-- Corrected beats in the count window of R474. -/
  winCorr : Nat
  /-- Retraining is due, and a window has begun since: the pause starts at that window's end (R223). -/
  due : Bool
  armed : Bool
  /-- Cycle at which the pause or full retraining began. -/
  since : Nat
  banks : Table DBank
  reads : List DReq
  writes : List DReq
  /-- Requests held in the router's buffer (R227). -/
  router : List DReq
  /-- Reads whose column command has issued, with their data, oldest first. -/
  flight : List DFlight
  /-- Responses of the last row that gave any. -/
  output : List DResp
  drain : Bool
  /-- Cycles of the last four activates, newest first. -/
  acts : List Nat
  /-- Cycle of the last column command, by bank group, and of any. -/
  colGroup : Table (Option Nat)
  colAny : Option Nat
  lastRead : Option Nat
  lastWrEnd : Option Nat
  nextId : Nat
  /-- Next line of the patrol (R234). -/
  patrol : Nat
  deriving DecidableEq, Repr

def Channel.dflt : Channel :=
  { state := .init, latched := false, attempt := 0, eccCorr := 0, eccUncorr := 0, lastAddr := 0, lastInfo := 0,
    rowHits := 0, rowMisses := 0, readLines := 0, writeLines := 0, retrainCount := 0, fullUs := 0, pauseNs := 0,
    wqHwm := 0, rqHwm := 0, fwdCount := 0, winCorr := 0, due := false, armed := false, since := 0, banks := [], reads := [],
    writes := [], router := [], flight := [], output := [], drain := false, acts := [], colGroup := [],
    colAny := none, lastRead := none, lastWrEnd := none, nextId := 0, patrol := 0 }

/-- What the channels share: the refresh timer, the die sensors, the port counters (R220–R225). -/
structure DramShared where
  /-- Cycle at which the next window starts; none before the first ONLINE. -/
  next : Option Nat
  window : Bool
  /-- Cycle at which the last window began. -/
  started : Nat
  hot : Bool
  /-- Die sensor reads in a row at 82.0 °C or below. -/
  coolReads : Nat
  refCount : DWord
  /-- Die temperatures in 0.25 °C. -/
  temps : Table (BitVec 16)
  hotEntries : Word
  overdue : Table Word
  maxLat : Table Word
  deriving DecidableEq, Repr

def DramShared.dflt : DramShared :=
  { next := none, window := false, started := 0, hot := false, coolReads := 0, refCount := 0, temps := [], hotEntries := 0,
    overdue := [], maxLat := [] }

/-- The normal and hot intervals (Table 8.3). -/
def DramShared.interval (d : DramShared) : Nat := if d.hot then 1950 else 3900

end Sys2Proof.Machine
end

