-- ==== Sys2Proof/Machine/TypesElec.lean ====
section
/-! DEFINITION. Rails, clocks, warning lines, power manager, sensors, sideband and JTAG (chapter 18). -/

namespace Sys2Proof.Machine
open Sys2Proof

/-- JTAG instructions (R463). -/
inductive JtagIr where
  | bypass
  | idcode
  | sample
  | extest
  | extestPulse
  | extestTrain
  | clamp
  | highz
  deriving DecidableEq, Repr

/-- The four caps, in sixteenths (R455). -/
structure Caps where
  array : Nat
  ember : Nat
  dram : Nat
  codec : Nat
  deriving DecidableEq, Repr

/-- The always-on island's electrical state. -/
@[ext] structure Elec where
  /-- Input lines, PFAIL_N apart: PERST_N and UPDATE_INHIBIT_N asserted. -/
  perst : Bool
  inhibit : Bool
  /-- SYSCLK runs; the root PLL is locked. -/
  sysclk : Bool
  pllLocked : Bool
  /-- LOW bits of CPM_RAIL_STATUS. -/
  low : BitVec 7
  avsFail : Bool
  /-- VDD_CORE set point and measurement in mV. -/
  vset : Nat
  vmeas : Nat
  caps : Caps
  /-- Budgets in 0.1 W: SMBus (0xFFFF lifts it), thermal (none: lifted). -/
  smbBudget : Half
  thermBudget : Option Nat
  /-- Draw P, its 1 ms average and the peak, in 0.1 W; the last 50 estimates, newest first. -/
  power : Nat
  samples : List Nat
  peak : Nat
  throttleUs : DWord
  floor : Bool
  /-- B in force since the last step, with its LIMITER (R455, R469). -/
  budget : Nat
  limiter : Nat
  /-- 20 µs steps in a row with P below B − 2 W, and steps since a cap was raised. -/
  belowSteps : Nat
  sinceRaise : Nat
  /-- Sensor readings in 0.25 °C. -/
  sensors : Table Half
  /-- A level holds; readings in a row at which it was clear (Table 18.6). -/
  alertLevel : Bool
  alertCool : Nat
  throttleLevel : Bool
  throttleCool : Nat
  /-- Consecutive readings at the trip level, logic and DRAM. -/
  tripLogic : Nat
  tripDram : Nat
  tripped : Bool
  /-- A trip waits for the dies to cool before relock (R460). -/
  tripWait : Bool
  /-- SMB_ALERT_N asserted. -/
  smbAlert : Bool
  strap : BitVec 3
  gpioPins : Byte
  /-- The instruction loaded. -/
  jtag : JtagIr
  /-- Boundary cells as preloaded. -/
  boundary : List Bool
  deriving DecidableEq, Repr

def Elec.reset : Elec :=
  { perst := true, inhibit := false, sysclk := true, pllLocked := false, low := 0, avsFail := false, vset := 750, vmeas := 750,
    caps := { array := 12, ember := 16, dram := 12, codec := 16 }, smbBudget := 0xFFFF, thermBudget := none, power := 0, samples := [], peak := 0,
    throttleUs := 0, floor := false, budget := 600, limiter := 0, belowSteps := 0, sinceRaise := 0, sensors := [], alertLevel := false,
    alertCool := 0, throttleLevel := false, throttleCool := 0, tripLogic := 0, tripDram := 0, tripped := false, tripWait := false, smbAlert := false,
    strap := 0, gpioPins := 0, jtag := .idcode, boundary := [] }

end Sys2Proof.Machine
end

