-- ==== Sys2Proof/Machine/TypesEther.lean ====
section
/-! DEFINITION. The Ethernet ports, RTP ingest, the datagram layer, the control channel and the join (chapter 15). -/

namespace Sys2Proof.Machine
open Sys2Proof

/-- An Ethernet port (R383). -/
structure EthPort where
  state : Run4
  /-- ETH_PORT_CFG as sampled on entry to RUNNING. -/
  cfg : Word
  /-- PFC for the join priority has been sent and not released (R384). -/
  pfcSent : Bool
  deriving DecidableEq, Repr

def EthPort.dflt : EthPort := { state := .disabled, cfg := 0, pfcSent := false }

/-- A link (Table 15.8). -/
structure EthLink where
  up : Bool
  fecLock : Bool
  speed : Nat
  rxDrop : Word
  rxFrames : DWord
  txFrames : DWord
  fecCorr : Word
  fecUncorr : Word
  /-- Priorities paused by received PFC. -/
  paused : Byte
  deriving DecidableEq, Repr

def EthLink.dflt : EthLink :=
  { up := false, fecLock := false, speed := 0, rxDrop := 0, rxFrames := 0, txFrames := 0, fecCorr := 0, fecUncorr := 0, paused := 0 }

/-- An RTP packet held or taken: extended sequence number, timestamp, marker, payload. -/
structure RtpPkt where
  seq : Nat
  ts : Word
  marker : Bool
  payload : List Byte
  deriving DecidableEq, Repr

/-- The depacketizer's and RTSP client's state of one session (R386–R390). -/
structure Rtp where
  /-- ETH_RTP_ registers, sampled under R249. -/
  cfg : Word
  ssrcReq : Word
  rtspAddr : DWord
  ssrc : Option Word
  /-- Payload type learned from the SDP. -/
  pt : Option Nat
  /-- ETH_RTP_STATUS.RTSP -/
  rtsp : Nat
  /-- Parameter sets of the SDP, to be written in front of the first access unit after PLAY. -/
  sprop : List Byte
  spropDue : Bool
  /-- Next extended sequence number expected. -/
  next : Option Nat
  held : List RtpPkt
  heldAt : Nat
  /-- The access unit in assembly: its timestamp, its bytes, a fragment open, data lost. -/
  auTs : Option Word
  au : List Byte
  fuOpen : Bool
  auBad : Bool
  /-- The next access unit written carries DISCONTINUITY. -/
  disc : Bool
  /-- Last timestamp, extended by its wraps. -/
  lastTs : Option Nat
  /-- NTP and extended RTP timestamps of the latest sender report. -/
  sr : Option (Nat × Nat)
  overflowing : Bool
  lost : Word
  late : Word
  overflow : Word
  deriving DecidableEq, Repr

def Rtp.dflt : Rtp :=
  { cfg := 0, ssrcReq := 0, rtspAddr := 0, ssrc := none, pt := none, rtsp := 0, sprop := [], spropDue := false, next := none,
    held := [], heldAt := 0, auTs := none, au := [], fuOpen := false, auBad := false, disc := false, lastTs := none, sr := none,
    overflowing := false, lost := 0, late := 0, overflow := 0 }

/-- A DATA frame kept until it is acknowledged (R393). -/
structure TxFrame where
  seq : Word
  more : Bool
  payload : List Byte
  sentAt : Nat
  deriving DecidableEq, Repr

/-- One channel between this device and a peer: the flow it sends and the flow it receives (R391–R393). -/
structure Flow where
  next : Word
  unacked : List TxFrame
  /-- Frames that wait for window or credit, as (MORE, payload). -/
  queue : List (Bool × List Byte)
  limit : Word
  w : Nat
  /-- Frames acknowledged since W last grew; no ECE among them. -/
  grown : Nat
  cutAt : Option Nat
  timeout : Nat
  /-- Next SEQ expected from the peer. -/
  expected : Word
  /-- Frames accepted since the last datagram was sent. -/
  accepted : Nat
  /-- CE was seen: the next datagram carries ECE. -/
  ece : Bool
  /-- Frames discarded for a later SEQ (R392). -/
  early : Word
  /-- Payloads accepted and not yet taken out of the flow's frame buffers. -/
  rx : List (List Byte)
  deriving DecidableEq, Repr

def Flow.dflt : Flow :=
  { next := 0, unacked := [], queue := [], limit := 0, w := 64, grown := 0, cutAt := none, timeout := 200, expected := 0, accepted := 0,
    ece := false, early := 0, rx := [] }

/-- A control destination (R394, R395). -/
structure Dest where
  flow : Flow
  stalled : Bool
  retx : Word
  deriving DecidableEq, Repr

def Dest.dflt : Dest := { flow := Flow.dflt, stalled := false, retx := 0 }

/-- Member states (Table 15.6). -/
inductive MemberState where
  | down
  | probing
  | refused
  | up
  | lost
  deriving DecidableEq, Repr

def MemberState.code : MemberState → Nat
  | .down => 0
  | .probing => 1
  | .refused => 2
  | .up => 3
  | .lost => 4

/-- A join member as this device sees it. -/
structure Member where
  state : MemberState
  reason : Byte
  epoch : Word
  /-- ETH_JOIN_PEER as sampled when the join entered RUNNING. -/
  cfg : Word
  tensor : Flow
  image : Flow
  retx : Word
  ece : Word
  /-- LEAVE has been sent in this shut-down. -/
  leaveSent : Bool
  deriving DecidableEq, Repr

def Member.dflt : Member :=
  { state := .down, reason := 0, epoch := 0, cfg := 0, tensor := Flow.dflt, image := Flow.dflt, retx := 0, ece := 0, leaveSent := false }

/-- A unit of a tensor that a member has sent: its transfer, its index in it, and its encoding (R399). -/
structure TensorUnit where
  member : Nat
  transfer : Word
  index : Nat
  enc : Nat
  /-- Elements of a BELL unit. -/
  g : Nat
  bytes : List Byte
  deriving DecidableEq, Repr

/-- The Ethernet block. -/
@[ext] structure Ether where
  ports : Table EthPort
  links : Table EthLink
  rtps : Table Rtp
  dests : Table Dest
  join : Run4
  /-- ETH_JOIN_CFG and ETH_JOIN_ID as sampled. -/
  joinCfg : Word
  joinId : Word
  /-- Times the join has entered RUNNING since power-on (R396). -/
  joinEntries : Nat
  members : Table Member
  /-- Units of tensors received from members and not yet used, in arrival order (R400). -/
  tensorIn : List TensorUnit
  /-- Channel 0x02 with the service peer (R434). -/
  service : Flow
  deriving DecidableEq, Repr

def Ether.reset : Ether :=
  { ports := [], links := [], rtps := [], dests := [], join := .disabled, joinCfg := 0, joinId := 0, joinEntries := 0, members := [], tensorIn := [], service := Flow.dflt }

end Sys2Proof.Machine
end

