-- ==== Sys2Proof/Machine/TypesMedia.lean ====
section
/-! DEFINITION. Streams from access unit to record: decode cores, sessions and frame buffers (chapters 9, 13),
scalers (10), sensors, buckets and curds (11), the assembler and the encode requests (12). -/

namespace Sys2Proof.Machine
open Sys2Proof

/-! ### Frame buffers and pools (R254, R344–R349) -/

inductive BufState where
  | free
  | decoding
  | held
  deriving DecidableEq, Repr

/-- Size and depth of a decoded picture (R243, R244). -/
structure Geom where
  width : Nat
  height : Nat
  dispX : Nat
  dispY : Nat
  dispW : Nat
  dispH : Nat
  depth : Nat
  deriving DecidableEq, Repr

def Geom.zero : Geom := { width := 0, height := 0, dispX := 0, dispY := 0, dispW := 0, dispH := 0, depth := 8 }

/-- A frame buffer with the picture it holds (Table 9.5). -/
structure Buffer where
  /-- GEN, modulo 2¹². -/
  gen : Nat
  state : BufState
  ses : Nat
  ts : DWord
  /-- Decode order in its stream. -/
  order : Nat
  name : Nat
  layer : Nat
  ref : Nat
  out : Bool
  use : Nat
  concealed : Bool
  poisoned : Bool
  failed : Bool
  geom : Geom
  /-- Its stream has ended: its session was CLOSED since. -/
  old : Bool
  deriving DecidableEq, Repr

def Buffer.dflt : Buffer :=
  { gen := 0, state := .free, ses := 0, ts := 0, order := 0, name := 0, layer := 0, ref := 0, out := false,
    use := 0, concealed := false, poisoned := false, failed := false, geom := Geom.zero, old := false }

/-- A waiting buffer request (R346). -/
structure BufWait where
  ses : Nat
  since : Nat
  deriving DecidableEq, Repr

/-- One buffer pool (R344–R349). -/
structure Pool where
  state : Run4
  detail : Nat
  /-- Buffers by class × 4,096 + index. -/
  buffers : Table Buffer
  /-- Waiting requests, oldest first. -/
  waits : List BufWait
  deadlocks : Word
  quotaRefused : Word
  badHandle : Word
  waitMax : Word
  /-- Evaluations in a row at which a waiting session stood in a wait cycle (R348). -/
  streak : Table Nat
  deriving DecidableEq, Repr

def Pool.dflt : Pool :=
  { state := .disabled, detail := 0, buffers := [], waits := [], deadlocks := 0, quotaRefused := 0, badHandle := 0,
    waitMax := 0, streak := [] }

/-! ### Sessions and decode cores (R245–R262) -/

/-- A waiting access unit (Table 9.2). -/
structure Au where
  /-- Sequence number of its record, and bytes of the record with its padding. -/
  pos : Word
  padded : Nat
  len : Nat
  ts : DWord
  discontinuity : Bool
  eos : Bool
  /-- TAIL arrival order in the device (R252). -/
  order : Nat
  /-- When it completed step 1. -/
  at_ : Nat
  deriving DecidableEq, Repr

/-- Where a claimed picture stands. -/
inductive PicStage where
  /-- Its core asks for a buffer. -/
  | needBuf
  /-- The claim is given up; the session waits for the pool. -/
  | waitBuf
  /-- The pool has granted a buffer; any core may claim it. -/
  | granted
  /-- Streamed, and no scaler job slot is free. -/
  | waitSlot
  | decoding
  deriving DecidableEq, Repr

/-- The picture in decode of a session. -/
structure Pic where
  au : Au
  parse : PicParse
  stage : PicStage
  handle : Option Word
  streamed : Bool
  /-- Streamed: the scaler that holds its job. -/
  scaler : Option Nat
  /-- Units given to cores, and units decoded. -/
  given : Nat
  done : Nat
  /-- Cores that have taken part, each counted once for the 2,000 cycles of R250. -/
  cores : List Nat
  /-- Some slice decoded. -/
  anyOk : Bool
  concealed : Bool
  poisoned : Bool
  /-- A substitute was used (R257); a part was concealed under R258. -/
  subst : Bool
  broken : Bool
  deriving DecidableEq, Repr

/-- A decoded-picture-buffer entry; `buf` is none for a mid-grey substitute. -/
structure Dpb where
  name : Nat
  buf : Option Word
  concealed : Bool
  deriving DecidableEq, Repr

inductive SesState where
  | closed
  | running
  | stopping
  | stoppingPendingEnable
  | faulted
  deriving DecidableEq, Repr

def SesState.code : SesState → Nat
  | .closed => 0
  | .running => 1
  | .stopping => 2
  | .stoppingPendingEnable => 3
  | .faulted => 4

/-- A decode session (R245–R249). -/
@[ext] structure Session where
  state : SesState
  reason : Byte
  /-- Sampled at the move to RUNNING. -/
  cfg : Word
  hoopBase : DWord
  hoopSize : Nat
  head : Word
  tail : Word
  /-- Position up to which the hoop has been scanned for access units. -/
  scan : Word
  aus : List Au
  /-- It has been FAULTED since it opened: its records left are discarded without frame records (Table 9.4). -/
  quiet : Bool
  /-- END_OF_STREAM was parsed. -/
  ended : Bool
  /-- The active parameter set, and a newer one that waits for the next IDR or IRAP picture (R247). -/
  sps : Option Sps
  nextSps : Option Sps
  pic : Option Pic
  dpb : List Dpb
  nextOrder : Nat
  concealing : Bool
  postedMissing : Bool
  postedError : Bool
  concealedCount : Word
  pictures : DWord
  dropped : Word
  /-- Windows of R248 seen, as (w, bytes, access units), the newest first. -/
  windows : List (Nat × Nat × Nat)
  /-- Latest timestamp of a picture decoded (R329). -/
  lateTs : Nat
  deriving DecidableEq, Repr

def Session.dflt : Session :=
  { state := .closed, reason := 0, cfg := 0, hoopBase := 0, hoopSize := 0, head := 0, tail := 0, scan := 0, aus := [],
    quiet := false, ended := false, sps := none, nextSps := none, pic := none, dpb := [], nextOrder := 0, concealing := false,
    postedMissing := false, postedError := false, concealedCount := 0, pictures := 0, dropped := 0, windows := [], lateTs := 0 }

/-- States of a decode core, encode core or scaler (Table 9.6). -/
inductive CoreState where
  | unbound
  | idle
  | busy
  | stopping
  | stoppingPendingEnable
  | disabled
  deriving DecidableEq, Repr

def CoreState.code : CoreState → Nat
  | .unbound => 0
  | .idle => 1
  | .busy => 2
  | .stopping => 3
  | .stoppingPendingEnable => 4
  | .disabled => 5

/-- A decode core. -/
@[ext] structure Decoder where
  state : CoreState
  group : Nat
  /-- The session whose unit it holds, and the unit's index. -/
  work : Option (Nat × Nat)
  /-- A reload has taken it from its group: UNBOUND after the picture. -/
  leaving : Bool
  busy : DWord
  units : DWord
  stallCredit : Word
  stallMem : Word
  deriving DecidableEq, Repr

def Decoder.dflt : Decoder :=
  { state := .unbound, group := 0, work := none, leaving := false, busy := 0, units := 0, stallCredit := 0, stallMem := 0 }

/-! ### Scalers (R270–R285) -/

inductive ScKind where
  | whole
  | streamed
  | crop
  deriving DecidableEq, Repr

/-- One output's slot: program output, bucket, curd SEQ, slot index. -/
structure SlotRef where
  output : Nat
  bucket : Nat
  seq : Word
  slot : Nat
  deriving DecidableEq, Repr

/-- A crop entry's own window, PROG, OUTPUT and TAG (Table 10.6). -/
structure CropReq where
  prog : Nat
  output : Nat
  x0 : Nat
  y0 : Nat
  x1 : Nat
  y1 : Nat
  tag : Word
  /-- No picture was found for it, or PROG or OUTPUT is out of range (R281). -/
  expired : Bool
  badProg : Bool
  deriving DecidableEq, Repr

/-- Where a job's samples come from. -/
inductive PixSrc where
  /-- A frame buffer. -/
  | buffer (handle : Word)
  /-- Slot `k` of a sensor's frame hoop. -/
  | frame (slot : Nat)
  /-- Rows held in the job. -/
  | rows
  | nothing
  deriving DecidableEq, Repr

/-- A picture or crop for a scaler: waiting in its group, or held as a job. -/
structure ScJob where
  kind : ScKind
  group : Nat
  source : Nat
  ts : DWord
  pix : PixSrc
  geom : Geom
  concealed : Bool
  poisoned : Bool
  failed : Bool
  estimated : Bool
  crop : Option CropReq
  /-- The program as copied when the job started. -/
  prog : List Byte
  /-- It has started: its slots are assigned, or it has none. -/
  started : Bool
  slots : List SlotRef
  /-- Bytes received of a streamed picture, by offset in the layout of R243. -/
  rows : Table Byte
  rowPoison : Table Bool
  /-- Row credits granted and not used; rows sent and not consumed (R283). -/
  credits : Nat
  queued : Nat
  /-- The decode core has sent its last row. -/
  complete : Bool
  readyAt : Nat
  /-- It waits for a curd: the bucket, and since when (R305). -/
  waitAt : Option (Nat × Nat)
  deriving DecidableEq, Repr

/-- A scaler. -/
@[ext] structure Scaler where
  state : CoreState
  group : Nat
  leaving : Bool
  /-- Up to four jobs held. -/
  jobs : List ScJob
  busy : DWord
  done : DWord
  outPixels : DWord
  invalid : Word
  stallMem : Word
  deriving DecidableEq, Repr

def Scaler.dflt : Scaler :=
  { state := .unbound, group := 0, leaving := false, jobs := [], busy := 0, done := 0, outPixels := 0, invalid := 0,
    stallMem := 0 }

/-- A group's crop ring and waiting pictures (R281, R271). -/
structure GroupIn where
  cropOn : Bool
  cropBase : DWord
  cropLog2 : Nat
  cropHead : Word
  cropExpired : Word
  badWindow : Word
  /-- Pictures ready for a scaler, oldest first. -/
  ready : List ScJob
  deriving DecidableEq, Repr

def GroupIn.dflt : GroupIn :=
  { cropOn := false, cropBase := 0, cropLog2 := 0, cropHead := 0, cropExpired := 0, badWindow := 0, ready := [] }

/-! ### Sensors (R293–R300) -/

/-- A slot of a frame hoop in use (R297). -/
structure Frame where
  slot : Nat
  number : Half
  ts : DWord
  estimated : Bool
  corrupt : Bool
  /-- Scaler jobs that read it. -/
  jobs : Nat
  /-- Its crop hold runs. -/
  hold : Bool
  deriving DecidableEq, Repr

/-- The frame in progress. -/
structure Incoming where
  slot : Nat
  number : Half
  /-- It is dropped: its slot was still in use, or its source stops. -/
  dropped : Bool
  corrupt : Bool
  embedded : Option (List Byte)
  lines : Nat
  deriving DecidableEq, Repr

/-- A sensor source (R294, R309). -/
structure Sensor where
  state : Run4
  reason : Byte
  /-- Sampled on entering RUNNING. -/
  cfg : Word
  size : Word
  hoopBase : DWord
  frameCount : Nat
  tsCfg : Word
  tsHz : Nat
  period : Nat
  incoming : Option Incoming
  frames : List Frame
  nextSlot : Nat
  lastTs : Option DWord
  /-- Last 4-byte count and its wraps (R298). -/
  lastCount : Nat
  wraps : Nat
  /-- The last 16 frames completed, newest first, as (number, timestamp) (R299). -/
  history : List (Half × DWord)
  completed : DWord
  dropped : Word
  corrupt : Word
  estimated : Word
  deriving DecidableEq, Repr

def Sensor.dflt : Sensor :=
  { state := .disabled, reason := 0, cfg := 0, size := 0, hoopBase := 0, frameCount := 0, tsCfg := 0, tsHz := 0,
    period := 0, incoming := none, frames := [], nextSlot := 0, lastTs := none, lastCount := 0, wraps := 0,
    history := [], completed := 0, dropped := 0, corrupt := 0, estimated := 0 }

/-- A CSI-2 receiver's lane states and counters (Table 11.10). -/
structure Receiver where
  stop : BitVec 4
  ulps : BitVec 4
  hs : Bool
  eccCorr : Word
  discard : Word
  crc : Word
  deriving DecidableEq, Repr

def Receiver.dflt : Receiver := { stop := 0, ulps := 0, hs := false, eccCorr := 0, discard := 0, crc := 0 }

/-! ### Buckets, curds, alignment sets (R301–R308) -/

/-- A slot of a curd and its header (Table 11.3). -/
structure CurdSlot where
  source : Nat
  kind : Nat
  output : Nat
  tag : Word
  ts : DWord
  status : Nat
  flags : Nat
  h : Nat
  w : Nat
  c : Nat
  cx : Nat
  cy : Nat
  cw : Nat
  ch : Nat
  x0 : Nat
  y0 : Nat
  x1 : Nat
  y1 : Nat
  /-- The slot's data has been written. -/
  written : Bool
  valid : Bool
  /-- A member slot of an open alignment block that no picture has filled. -/
  reserved : Bool
  deriving DecidableEq, Repr

def CurdSlot.blank : CurdSlot :=
  { source := 0xFFFF, kind := 0, output := 0, tag := 0, ts := 0, status := 0, flags := 0, h := 0, w := 0, c := 0, cx := 0, cy := 0,
    cw := 0, ch := 0, x0 := 0, y0 := 0, x1 := 0, y1 := 0, written := false, valid := false, reserved := false }

/-- Curd states; a FREE curd is not listed (Table 11.4). -/
inductive CurdState where
  | filling
  | closing
  | ready
  | taken
  deriving DecidableEq, Repr

structure Curd where
  seq : Word
  state : CurdState
  slots : List CurdSlot
  short : Bool
  /-- The job that took it. -/
  holder : Option Half
  /-- SEQ of the CURD_TAKE that took it. -/
  takenBy : Word
  deriving DecidableEq, Repr

/-- An open block of an alignment set (R306). -/
structure AlignBlock where
  seq : Word
  first : Nat
  ts : DWord
  deriving DecidableEq, Repr

/-- An alignment set: its registers as sampled when its bucket entered RUNNING, and its open blocks. -/
structure AlignSet where
  on : Bool
  bucket : Nat
  count : Nat
  members : List Nat
  tol : Nat
  open_ : List AlignBlock
  blocks : Word
  incomplete : Word
  deriving DecidableEq, Repr

def AlignSet.dflt : AlignSet :=
  { on := false, bucket := 0, count := 0, members := [], tol := 0, open_ := [], blocks := 0, incomplete := 0 }

/-- A bucket (R301–R309). -/
@[ext] structure Bucket where
  state : Run4
  reason : Byte
  /-- Sampled on entering RUNNING. -/
  cfg : Word
  slotBytes : Nat
  ringBase : DWord
  ringCfg : Word
  /-- Curds that are not FREE, oldest first. -/
  curds : List Curd
  seqNext : Word
  short : Word
  dropped : Word
  lowEvents : Word
  fullWait : Word
  /-- The low-water message has been posted and READY has not returned to LOW_WATER (R308). -/
  lowPosted : Bool
  deriving DecidableEq, Repr

def Bucket.dflt : Bucket :=
  { state := .disabled, reason := 0, cfg := 0, slotBytes := 0, ringBase := 0, ringCfg := 0, curds := [], seqNext := 0,
    short := 0, dropped := 0, lowEvents := 0, fullWait := 0, lowPosted := false }

def Bucket.group (b : Bucket) : Nat := bits b.cfg 20 16
def Bucket.slots (b : Bucket) : Nat := bits b.cfg 14 8
def Bucket.curdCount (b : Bucket) : Nat := bits b.ringCfg 7 0
def Bucket.fillUs (b : Bucket) : Nat := bits b.ringCfg 31 12
def Bucket.hdrBytes (b : Bucket) : Nat := cdiv (64 + 64 * b.slots) 256 * 256
def Bucket.curdBytes (b : Bucket) : Nat := cdiv (b.hdrBytes + b.slots * b.slotBytes) 4096 * 4096

/-! ### The assembler (R321–R326) -/

/-- A waiting record: a placeholder until it is filled. -/
structure WaitRec where
  ts : DWord
  /-- When its picture completed step 1 (LATENCY). -/
  at_ : Nat
  /-- Number of its claim among the source's. -/
  claim : Nat
  concealed : Bool
  poisoned : Bool
  estimated : Bool
  filled : Option (List Entry32)
  /-- The route that the EMIT of its kernel record carried (R322); none: the source's route stands. -/
  route : Option Half
  deriving DecidableEq, Repr

/-- What the assembler knows of a picture whose frame record it has posted, for the side records that follow. -/
structure PostedRec where
  ts : DWord
  frame : Half
  concealed : Bool
  poisoned : Bool
  estimated : Bool
  deriving DecidableEq, Repr

/-- The assembler's state of one source. -/
structure AsmSource where
  waiting : List WaitRec
  claims : Nat
  route : Half
  frame : Half
  lastTs : Option DWord
  /-- Side records held for their frame record, in order of arrival. -/
  sides : List (DWord × Half × List Entry32)
  /-- Side records whose turn it is, each with its route (R322, R325). -/
  outbox : List (Half × List Entry32)
  /-- The 256 newest pictures posted, newest first. -/
  posted : List PostedRec
  deriving DecidableEq, Repr

def AsmSource.dflt : AsmSource :=
  { waiting := [], claims := 0, route := 0, frame := 0, lastTs := none, sides := [], outbox := [], posted := [] }

/-! ### Snapshots, clips and encode cores (R263–R267, R327–R331) -/

inductive ReqState where
  | pending
  | recording
  | finishing
  deriving DecidableEq, Repr

/-- A picture to encode, with its USE mark, and how far its attempts have come. -/
structure EncPic where
  handle : Word
  ts : DWord
  idr : Bool
  /-- Attempts made. -/
  tries : Nat
  qp : Nat
  /-- The attempt under way is the fallback picture of R265. -/
  fallback : Bool
  deriving DecidableEq, Repr

/-- A snapshot or clip that is not DONE (Table 12.7). -/
structure MediaReq where
  route : Half
  reqId : Word
  ses : Nat
  clip : Bool
  state : ReqState
  time : DWord
  endTs : DWord
  dst : DWord
  dstBytes : Nat
  params : List Byte
  status : Nat
  pictures : Nat
  bytes : Nat
  firstTs : DWord
  lastTs : DWord
  /-- Timestamp of clip time 0, and the number of the next clip time. -/
  t0 : DWord
  n : Nat
  /-- The clip's candidate, with its USE mark. -/
  cand : Option Word
  /-- Pictures taken and not yet encoded, oldest first; the first may be on a core. -/
  queue : List EncPic
  core : Option Nat
  /-- Fullness f of R265 in 1/90 bit. -/
  f90 : Nat
  deriving DecidableEq, Repr

structure Encoder where
  state : CoreState
  busy : DWord
  pictures : DWord
  retries : Word
  fallback : Word
  deriving DecidableEq, Repr

def Encoder.dflt : Encoder := { state := .idle, busy := 0, pictures := 0, retries := 0, fallback := 0 }

/-- The streams' side of the device. -/
@[ext] structure Media where
  sessions : Table Session
  decoders : Table Decoder
  /-- TAIL arrival order of the next access unit. -/
  nextAu : Nat
  pools : Table Pool
  scalers : Table Scaler
  /-- Committed programs of 128 bytes by index; an unlisted one holds zeros. -/
  programs : Table (List Byte)
  progStatus : Word
  groups : Table GroupIn
  sensors : Table Sensor
  receivers : Table Receiver
  sets : Table AlignSet
  buckets : Table Bucket
  asm : Table AsmSource
  /-- Crop holds running, as (source, timestamp). -/
  holds : List (Nat × DWord)
  encoders : Table Encoder
  requests : List MediaReq
  deriving DecidableEq, Repr

def Media.reset : Media :=
  { sessions := [], decoders := [], nextAu := 0, pools := [], scalers := [], programs := [], progStatus := 0, groups := [],
    sensors := [], receivers := [], sets := [], buckets := [], asm := [], holds := [], encoders := [], requests := [] }

end Sys2Proof.Machine
end

