-- ==== Sys2Proof/Machine/TypesPower.lean ====
section
/-! DEFINITION. Power states and their registers' state (chapter 1, Tables 1.5–1.8). -/

namespace Sys2Proof.Machine
open Sys2Proof

/-- Device power states, with the boot between Cold and Lit (Table 1.5). -/
inductive PState where
  | cold
  | booting
  | lit
  | enteringBanked
  | banked
  | exitingBanked
  /-- The ROM waits for a package (R426). -/
  | recovery
  deriving DecidableEq, Repr

/-- CPM_PSTATE_STATUS.STATE; a boot value is never read (Table 1.8). -/
def PState.code : PState → Nat
  | .cold => 1
  | .booting => 1
  | .lit => 1
  | .enteringBanked => 2
  | .banked => 3
  | .exitingBanked => 4
  | .recovery => 1

/-- The power state and the fields of CPM_PSTATE_STATUS. -/
@[ext] structure Power where
  state : PState
  /-- PENDING: 0 none, 1 Banked, 2 Lit (R35). -/
  pending : Nat
  lastResult : Nat
  wakeCause : Nat
  /-- CPM_BANKED_COUNT -/
  bankedCount : Word
  /-- An accepted Banked request waits for a running march (R150). -/
  bankedWaits : Bool
  /-- An FLR woke the device and runs once it is Lit (Table 1.5). -/
  flrAfterWake : Bool
  /-- Hearth faults found while Banked, as (hearth, cause), contained on exit (R408). -/
  deferredFaults : List (Nat × Nat)
  deriving DecidableEq, Repr

end Sys2Proof.Machine
end

