-- ==== Sys2Proof/Machine/TypesRec.lean ====
section
/-! DEFINITION. The event recorder and soot of chapter 16: records, the flash log, the soot totals. -/

namespace Sys2Proof.Machine
open Sys2Proof

/-- One event record (Table 16.3). -/
structure EvRec where
  seq : Word
  code : Half
  sev : Byte
  kind : Byte
  id : Half
  supp : Half
  opSeconds : Word
  powerCycles : Word
  arg : DWord
  /-- SEQ_END; it differs from SEQ_BEGIN in a flash place whose programming was cut short (R421). -/
  seqEnd : Word
  deriving DecidableEq, Repr

/-- The lifetime totals of Table 16.6, less FORMAT, OP_SECONDS, POWER_CYCLES and the CRC, which are
computed when an image is made. -/
structure Soot where
  checkpoints : Word := 0
  tempHist : Table Word := []
  classTime : Table Word := []
  hotEntries : Word := 0
  pcieReplays : Word := 0
  pcieLinkDown : Word := 0
  flrCount : Word := 0
  hearthFaults : Table Half := []
  channelFailed : Word := 0
  pfailCount : Word := 0
  spmEccCorr : DWord := 0
  spmEccUncorr : DWord := 0
  dramCorr : Table DWord := []
  dramUncorr : Table Word := []
  stallArr : Table DWord := []
  streamFaults : Table Word := []
  deriving DecidableEq, Repr

/-- A checkpoint copy in flash: the totals with the two stamps it holds (R420). -/
structure SootCopy where
  soot : Soot
  opSeconds : Word
  powerCycles : Word
  deriving DecidableEq, Repr

/-- The event recorder in the always-on island (R412–R421). -/
@[ext] structure Recorder where
  /-- EVR_SEQ_NEXT -/
  seqNext : Word
  /-- EVR_SEQ_FLUSHED -/
  seqFlushed : Word
  /-- The SRAM ring by slot, SEQ mod 8,192 (R412). -/
  ring : Table (Option EvRec)
  /-- The flash log by record place; an unlisted place is erased (R416). -/
  flash : Table (Option EvRec)
  opSeconds : Word
  powerCycles : Word
  /-- Records spent of each code's budget of 8 (R414). -/
  spent : Table Nat
  /-- Records of a code suppressed since its previous record (R414). -/
  suppSince : Table Half
  /-- EVR_SUPPRESSED -/
  suppressed : Word
  /-- EVR_LOST -/
  lost : Word
  /-- Records lost since the previous 0x0D01 record (R416). -/
  lostSince : Nat
  /-- A flush is running, and the first SEQ past it (EVR_STATUS.FLUSHING). -/
  flushing : Option Word
  /-- A flush fell due while the flash could not program (R416). -/
  flushDue : Bool
  /-- Sector under erase (EVR_STATUS.ERASING). -/
  erasing : Option Nat
  /-- Sectors whose erase PFAIL_N stopped, to be erased again (R416). -/
  eraseAgain : List Nat
  /-- Checkpoint copy being written (EVR_STATUS.CHECKPOINT), with the image it will hold. -/
  checkpoint : Option (Nat × SootCopy)
  /-- A checkpoint fell due while the flash was busy (R420). -/
  ckptDue : Bool
  /-- The two checkpoint copies; none is an invalid CRC (R420). -/
  copies : Table (Option SootCopy)
  /-- Seconds since the last checkpoint (EVR_SOOT_AGE). -/
  sootAge : Word
  /-- The live totals. -/
  soot : Soot
  /-- The EVR_SOOT window; none before the first SNAP since power-on. -/
  sootWin : Option SootCopy
  /-- FLASH_PAGE.LOAD reads 1. -/
  loading : Bool
  /-- The page shown in EVR_FLASH_WIN. -/
  flashWin : Table (Option EvRec)
  /-- EVR_STATUS.PFAIL. -/
  pfail : Bool
  /-- When the oldest unflushed record was written, in the model's ns. -/
  oldestAt : Nat
  deriving DecidableEq, Repr

end Sys2Proof.Machine
end

