-- ==== Sys2Proof/Machine/State.lean ====
section
/-! DEFINITION. The whole state of the device as plain data, its state after reset, and the reasons a
command can stop. -/

namespace Sys2Proof.Machine
open Sys2Proof

/-- A fault stops the machine. No command of the manual does so: every fault the manual names is an effect
on the state. -/
inductive Fault where
  /-- Raised by no meaning. Safe: a stop proves nothing. -/
  | none
  deriving DecidableEq, Repr

/-- A refusal: no meaning for the command. -/
inductive Refusal where
  /-- Raised by `exec` for a command that has no meaning yet. Safe. -/
  | notModelled (mnemonic : String)
  deriving DecidableEq, Repr

/-- The state of the device. -/
@[ext]
structure State where
  /-- Commands waiting, first in first out. -/
  pending : List Instr
  /-- The model's clock in ns, advanced by an idle step (assumption log 2). -/
  now : Nat
  /-- Draws made of the free values (assumption log 3). -/
  fresh : Nat
  /-- What has left the device, oldest first. -/
  out : List Output
  /-- RW and RWS registers as last written, by BAR0 offset of each 4-byte word; an unlisted word holds its
  reset value (R5). -/
  cfg : Table Word
  /-- Read holding register of each 64-bit register, by its low offset (R11). -/
  readHold : Table Word
  /-- Write holding register of each 64-bit register, by its low offset (R11). -/
  writeHold : Table (Option Word)
  recorder : Recorder
  power : Power
  pcie : Pcie
  qps : Table Qp
  /-- The message store of 4,096 entries, oldest first (R368). -/
  store : List Msg
  /-- Kept messages raised while the store was full (R368). -/
  raised : List Msg
  hearths : Table Hearth
  dones : List DoneMsg
  jobs : Table (Option Job)
  jobOrder : Nat
  cmds : List Cmd
  sems : Table (Option Half)
  killStatus : Word
  vats : Table Vat
  image : Image
  reload : Reload
  versions : List Version
  media : Media
  ether : Ether
  /-- DRAM bytes by device address; poison by 32-byte beat (R233). -/
  dram : Table Byte
  dramPoison : Table Bool
  channels : Table Channel
  drams : DramShared
  boot : Boot
  elec : Elec
  deriving DecidableEq, Repr

/-- The recorder of a device powered for the first time: nothing logged, one power cycle, its first checkpoint due. -/
def Recorder.reset : Recorder :=
  { seqNext := 0, seqFlushed := 0, ring := [], flash := [], opSeconds := 0, powerCycles := 1, spent := [], suppSince := [],
    suppressed := 0, lost := 0, lostSince := 0, flushing := none, flushDue := false, erasing := none, eraseAgain := [],
    checkpoint := none, ckptDue := true, copies := [], sootAge := 0, soot := {}, sootWin := none, loading := false,
    flashWin := [], pfail := false, oldestAt := 0 }

/-- BOOTING: STATE, PENDING, LAST_RESULT and WAKE_CAUSE at their reset values (Table 1.8). -/
def Power.reset : Power :=
  { state := .booting, pending := 0, lastResult := 0, wakeCause := 0, bankedCount := 0, bankedWaits := false,
    flrAfterWake := false, deferredFaults := [] }

/-- The endpoint: link down, requests answered with Retry Status until the start ends (R427). -/
def Pcie.reset : Pcie :=
  { dlActive := false, speed := 0, width := 0, pm := 0, commitStatus := 0, cplTimeout := 0, lateCpl := 0, unexpCpl := 0,
    poisonRx := 0, poisonTx := 0, winMiss := 0, windows := [], tags := [], nextTag := 0, pba := 0, notReady := true,
    flrBusy := false, msgHwm := 0, msgDropped := 0, doorbellDiscard := 0, mps := 128, mrrs := 512, msixOn := false,
    msixMask := false, bars := [], subsystem := none }

/-- The machine right after power-on reset, with PERST_N asserted: no command waits, nothing is listed in any memory, and
every register holds its reset value (assumption log 4 names those the manual takes from flash, fuses or chance). -/
def State.reset : State :=
  { pending := [], now := 0, fresh := 0, out := [], cfg := [], readHold := [], writeHold := [], recorder := Recorder.reset,
    power := Power.reset, pcie := Pcie.reset, qps := [], store := [], raised := [], hearths := [], dones := [], jobs := [],
    jobOrder := 0, cmds := [], sems := [], killStatus := 0, vats := [], image := Image.empty, reload := Reload.reset,
    versions := [], media := Media.reset, ether := Ether.reset, dram := [], dramPoison := [], channels := [],
    drams := DramShared.dflt, boot := Boot.reset, elec := Elec.reset }

end Sys2Proof.Machine
end

