-- ==== Sys2Proof/Machine/Ops.lean ====
section
/-! DEFINITION. The named operations over the state that every family uses: registers, tables of blocks,
event records (chapter 16), messages (chapter 14), free values, and who owns what (chapters 6, 7, 13). -/

namespace Sys2Proof.Machine
open Sys2Proof

/-- The outcome of every command's meaning. -/
abbrev Res := Host.Outcome State Fault Refusal

/-! ### Registers and block tables -/

/-- The stored word of an RW register (R5). -/
def cfgGet (s : State) (off : Nat) : Word := Table.get (regReset off) s.cfg off
/-- Store a word in an RW register. -/
def cfgSet (off : Nat) (v : Word) (s : State) : State := { s with cfg := Table.set (regReset off) s.cfg off v }
/-- The 64-bit register at `off`, low half first (R11). -/
def cfgGet64 (s : State) (off : Nat) : DWord := cfgGet s (off + 4) ++ cfgGet s off
def cfgSet64 (off : Nat) (v : DWord) (s : State) : State :=
  cfgSet (off + 4) (v >>> 32 |>.setWidth 32) (cfgSet off (v.setWidth 32) s)

def State.hearth (s : State) (h : Nat) : Hearth := Table.get Hearth.dflt s.hearths h
def modHearth (h : Nat) (f : Hearth → Hearth) (s : State) : State :=
  { s with hearths := Table.mod Hearth.dflt s.hearths h f }
def State.qp (s : State) (q : Nat) : Qp := Table.get Qp.dflt s.qps q
def modQp (q : Nat) (f : Qp → Qp) (s : State) : State := { s with qps := Table.mod Qp.dflt s.qps q f }
def State.job (s : State) (j : Nat) : Option Job := Table.get none s.jobs j
def setJob (j : Nat) (b : Option Job) (s : State) : State := { s with jobs := Table.set none s.jobs j b }
def modJob (j : Nat) (f : Job → Job) (s : State) : State :=
  { s with jobs := Table.mod none s.jobs j (fun b => b.map f) }
def State.vat (s : State) (v : Nat) : Vat := Table.get Vat.dflt s.vats v
def modVat (v : Nat) (f : Vat → Vat) (s : State) : State := { s with vats := Table.mod Vat.dflt s.vats v f }

def Hearth.core (x : Hearth) (c : Nat) : Core := Table.get Core.dflt x.cores c
def modCore (h c : Nat) (f : Core → Core) (s : State) : State :=
  modHearth h (fun x => { x with cores := Table.mod Core.dflt x.cores c f }) s
def Hearth.ladle (x : Hearth) (l : Nat) : Ladle := Table.get Ladle.dflt x.ladles l
def modLadle (h l : Nat) (f : Ladle → Ladle) (s : State) : State :=
  modHearth h (fun x => { x with ladles := Table.mod Ladle.dflt x.ladles l f }) s
def Hearth.bank (x : Hearth) (b : Nat) : Bank := Table.get Bank.dflt x.banks b
def modBank (h b : Nat) (f : Bank → Bank) (s : State) : State :=
  modHearth h (fun x => { x with banks := Table.mod Bank.dflt x.banks b f }) s
def Hearth.ctr (x : Hearth) (c : Nat) : Ctr := Table.get Ctr.dflt x.ctrs c
def modCtr (h c : Nat) (f : Ctr → Ctr) (s : State) : State :=
  modHearth h (fun x => { x with ctrs := Table.mod Ctr.dflt x.ctrs c f }) s
def Hearth.hoop (x : Hearth) (j : Nat) : Hoop := Table.get Hoop.dflt x.hoops j
def modHoop (h j : Nat) (f : Hoop → Hoop) (s : State) : State :=
  modHearth h (fun x => { x with hoops := Table.mod Hoop.dflt x.hoops j f }) s
def Hearth.outPort (x : Hearth) (p : Nat) : FluePort := Table.get FluePort.dflt x.outPorts p
def modOut (h p : Nat) (f : FluePort → FluePort) (s : State) : State :=
  modHearth h (fun x => { x with outPorts := Table.mod FluePort.dflt x.outPorts p f }) s
def Hearth.inPort (x : Hearth) (p : Nat) : FluePort := Table.get FluePort.dflt x.inPorts p
def modIn (h p : Nat) (f : FluePort → FluePort) (s : State) : State :=
  modHearth h (fun x => { x with inPorts := Table.mod FluePort.dflt x.inPorts p f }) s
def modCounts (h : Nat) (f : HearthCounts → HearthCounts) (s : State) : State :=
  modHearth h (fun x => { x with counts := f x.counts }) s

/-- Do `f` for each element, in order. -/
def forEach {α : Type} (l : List α) (f : α → State → State) (s : State) : State := l.foldl (fun s a => f a s) s

/-- Do `f` when `c` holds. -/
def when (c : Bool) (f : State → State) (s : State) : State := if c then f s else s

/-- Append to what has left the device. -/
def emit (o : Output) (s : State) : State := { s with out := s.out ++ [o] }

/-- Draw a free value of `w` bits (assumption log 3). -/
def draw (w : Nat) (s : State) : BitVec w × State := (Config.freeValue w s.fresh, { s with fresh := s.fresh + 1 })

/-- Root-derived logic runs: the root PLL is locked (R29). -/
def clocked (s : State) : Bool := s.elec.pllLocked

/-- The Ethernet and CSI-2 ports are powered: not in Banked, nor while root-derived logic is held in reset (R29, R32). -/
def portsPowered (s : State) : Bool := clocked s && decide (s.power.state ≠ .banked ∧ s.power.state ≠ .cold)

/-- The outcome of a row of root-derived logic: `t`, or nothing while its clocks are gated or it is held in reset (R29). -/
def rooted (s t : State) : Res := .next (if clocked s then t else s)

/-- The outcome of a row of an Ethernet or CSI-2 port, which is also powered down in Banked (R32). -/
def ported (s t : State) : Res := .next (if portsPowered s then t else s)

/-! ### Entries and messages (R366, R368) -/

/-- A 32-byte entry from (byte offset, value) fields. -/
def entry32 (fs : List (Nat × Nat)) : Entry32 := pack 256 (fs.map fun f => (8 * f.1, f.2))

/-- HQ_GLB_CFG.EVENT_QP. -/
def eventQp (s : State) : Nat := bits (cfgGet s (hqBase + 0x1000)) 5 0

/-! ### Event records (R412–R418) -/

/-- Severity of an event code (Table 16.5). -/
def eventSeverity (code : Nat) : Nat :=
  if code = 0x0201 then 3
  else if code ∈ [0x0202, 0x0301, 0x0302, 0x0401, 0x0501, 0x0503, 0x0601, 0x0A04] then 2
  else if code ∈ [0x0203, 0x0204, 0x0B01, 0x0C01] then 0
  else 1

def modRec (f : Recorder → Recorder) (s : State) : State := { s with recorder := f s.recorder }
def modPcie (f : Pcie → Pcie) (s : State) : State := { s with pcie := f s.pcie }
def modSoot (f : Soot → Soot) (s : State) : State := modRec (fun r => { r with soot := f r.soot }) s

/-- SRAM slots of the recorder, and record places of the flash log (R412, R416). -/
def ringSlots : Nat := 8192
def flashPlaces : Nat := 131072
def sectorPlaces : Nat := 2048

/-- Put one record into the SRAM ring; an unflushed record it overwrites is lost (R416). -/
def ringWrite (code kind id : Nat) (arg : DWord) (now : Nat) (r : Recorder) : Recorder :=
  let e : EvRec :=
    { seq := r.seqNext, code := BitVec.ofNat 16 code, sev := BitVec.ofNat 8 (eventSeverity code),
      kind := BitVec.ofNat 8 kind, id := BitVec.ofNat 16 id, supp := Table.get 0 r.suppSince code,
      opSeconds := r.opSeconds, powerCycles := r.powerCycles, arg := arg,
      seqEnd := r.seqNext }
  let full := decide (seqDist r.seqNext r.seqFlushed ≥ ringSlots)
  { r with
    ring := Table.set none r.ring (r.seqNext.toNat % ringSlots) (some e)
    suppSince := Table.set 0 r.suppSince code 0
    oldestAt := if r.seqNext = r.seqFlushed then now else r.oldestAt
    seqNext := r.seqNext + 1
    seqFlushed := if full then r.seqFlushed + 1 else r.seqFlushed
    lost := if full then satAdd r.lost 1 else r.lost
    lostSince := if full then r.lostSince + 1 else r.lostSince }

/-- Start a flush, or mark it due while the flash cannot program (R416). The 0x0D01 record of earlier losses
is written at its start. -/
def startFlush (now : Nat) (r : Recorder) : Recorder :=
  if r.seqNext = r.seqFlushed then r
  else if r.flushing.isSome || r.erasing.isSome || r.checkpoint.isSome ||
      decide (r.seqFlushed.toNat % flashPlaces / sectorPlaces ∈ r.eraseAgain) then { r with flushDue := true }
  else
    let r := if r.lostSince = 0 then r
      else { ringWrite 0x0D01 0 0 (BitVec.ofNat 64 r.lostSince) now r with lostSince := 0 }
    { r with flushing := some r.seqNext, flushDue := false }

/-- Write a record of `code` unless its budget of 8 is empty (R414), and start a flush when one falls due
(R416). The second part says whether a record was written. -/
def recordCore (code kind id : Nat) (arg : DWord) (now : Nat) (r : Recorder) : Recorder × Bool :=
  let sev := eventSeverity code
  if sev ≠ 3 ∧ Table.get 0 r.spent code ≥ 8 then
    ({ r with suppressed := satAdd r.suppressed 1,
              suppSince := Table.mod 0 r.suppSince code (fun x => satAdd x 1) }, false)
  else
    let r := if sev = 3 then r else { r with spent := Table.mod 0 r.spent code (· + 1) }
    let r := ringWrite code kind id arg now r
    let r := if sev ≥ 2 ∨ seqDist r.seqNext r.seqFlushed ≥ 64 then startFlush now r else r
    (r, true)

/-- The event-notice message of a record just written (Table 16.4). -/
def noticeEntry (code kind id : Nat) (supp : Half) (arg : DWord) (r : Recorder) : Entry32 :=
  entry32 [(0, 0x0007), (4, code), (6, eventSeverity code), (7, kind), (8, id), (10, supp.toNat),
    (12, (r.seqNext - 1).toNat), (16, r.opSeconds.toNat), (20, arg.toNat)]

/-- Record an event and post its notice (R417). A notice that finds the store full is dropped, which is an
event of its own (R368); the budget of 0x0A03 ends the chain, and `fuel` counts it. -/
def recordFuel : Nat → Nat → Nat → Nat → DWord → State → State
  | 0, _, _, _, _, s => s
  | fuel + 1, code, kind, id, arg, s =>
    let supp := Table.get 0 s.recorder.suppSince code
    let (r, wrote) := recordCore code kind id arg s.now s.recorder
    let s := { s with recorder := r }
    if wrote && bit (cfgGet s (evrBase + 0x14)) (eventSeverity code) then
      if s.store.length < 4096 ∧ s.raised = [] then
        { s with store := s.store ++ [{ qp := eventQp s, cls := .droppable, entry := noticeEntry code kind id supp arg r }],
                 pcie := { s.pcie with msgHwm := max s.pcie.msgHwm (s.store.length + 1) } }
      else recordFuel fuel 0x0A03 0 0 7 { s with pcie := { s.pcie with msgDropped := satAdd s.pcie.msgDropped 1 } }
    else s

/-- The device records an event (R418). -/
def record (code kind id : Nat) (arg : DWord) (s : State) : State := recordFuel 10 code kind id arg s

/-- 0x0101: a BAR0 access discarded (R9, R33, R377). -/
def recordBar (off : Nat) (s : State) : State := record 0x0101 0 0 (BitVec.ofNat 64 off) s
/-- 0x0102: a register write discarded or refused by state or value. -/
def recordWrite (off : Nat) (v : Word) (s : State) : State := record 0x0102 0 0 (v ++ BitVec.ofNat 32 off) s

/-- Blocks served in recovery: GLB_, LCS_, EVR_ and SVC_ (R426). -/
def recoveryBlock (off : Nat) : Bool :=
  decide (off < 0x10000 ∨ (0x20000 ≤ off ∧ off < 0x40000) ∨ (0x200000 ≤ off ∧ off < 0x1000000))

/-- BAR0 is served at an offset: past the boot or an FLR, and in Lit or, for the always-on blocks, in Banked
and the transitions (R33, R377); in recovery for four blocks (R426). -/
def bar0Served (s : State) (off : Nat) : Bool :=
  !s.pcie.notReady && ((decide (s.power.state = .recovery) && recoveryBlock off) || decide (s.power.state = .lit) ||
    (decide (s.power.state = .enteringBanked ∨ s.power.state = .banked ∨ s.power.state = .exitingBanked) && decide (off < 0x40000)))

/-- A host write at `off` acts by `f` where BAR0 is served, and is otherwise discarded and recorded (R33, R377); in
recovery it falls on an unoccupied offset (R10, R426). Nothing serves it while the root clocks are gated (R29). -/
def guard (off : Nat) (f : State → State) (s : State) : State :=
  if clocked s = false then s
  else if bar0Served s off then f s else if s.power.state = .recovery ∧ s.pcie.notReady = false then s else recordBar off s

/-- A poisoned write TLP has been received: counted and reported (R373). -/
def poisonedTlp (s : State) : State :=
  emit (.aer .poisonedTlp) (modPcie (fun p => { p with poisonRx := satAdd p.poisonRx 1 }) s)

/-- A read completes with Completer Abort (R33, R356, Table 14.9). -/
def abortRead (bar offset : Nat) (s : State) : State :=
  emit (.aer .completerAbort) (emit (.barRead bar offset [] false .abort) s)

/-- Post a message to a queue pair's ring by way of the store (R367, R368). -/
def postMsg (q : Nat) (cls : MsgClass) (e : Entry32) (s : State) : State :=
  if s.store.length < 4096 ∧ s.raised = [] then
    { s with store := s.store ++ [{ qp := q, cls := cls, entry := e }],
             pcie := { s.pcie with msgHwm := max s.pcie.msgHwm (s.store.length + 1) } }
  else match cls with
    | .droppable =>
      record 0x0A03 0 0 (BitVec.ofNat 64 (e.toNat % 65536))
        { s with pcie := { s.pcie with msgDropped := satAdd s.pcie.msgDropped 1 } }
    | .kept => { s with raised := s.raised ++ [{ qp := q, cls := cls, entry := e }] }

/-- A status message's fields (Table 14.7). -/
structure StatusMsg where
  status : Nat
  job : Nat := 0xFFFF
  seq : Nat := 0
  detail : Nat := 0
  kind : Nat := 0
  id : Nat := 0
  ts : Nat := 0
  deriving DecidableEq, Repr

def StatusMsg.entry (m : StatusMsg) : Entry32 :=
  entry32 [(0, 0x0002), (4, m.status), (6, m.job), (8, m.seq), (12, m.detail), (13, m.kind), (14, m.id), (16, m.ts)]

/-- Post a status to one queue pair (R367, rules 1 and 2). -/
def postStatusTo (q : Nat) (m : StatusMsg) (s : State) : State := postMsg q .kept m.entry s
/-- Post a status to the event queue pair (R367, rule 4). -/
def postStatus (m : StatusMsg) (s : State) : State := postStatusTo (eventQp s) m s

/-! ### Vats, hearths and jobs -/

def regionOf (i : Image) (v : Nat) : Option Region := i.regions.find? (fun r => r.region = v ∧ r.size ≠ 0)

/-- The hearths of vat `v` in vat-local order (R198). -/
def vatHearths (s : State) (v : Nat) : List Nat := ((regionOf s.image v).map (·.hearths)).getD []

/-- The vat whose region names hearth `h`. -/
def vatOf (s : State) (h : Nat) : Option Nat := (s.image.regions.find? (fun r => decide (h ∈ r.hearths))).map (·.region)

/-- Hearths of the vat that are ACTIVE. -/
def activeHearths (s : State) (v : Nat) : List Nat :=
  (vatHearths s v).filter (fun h => decide ((s.hearth h).state = .active))

/-- The vat window: vat-local hearth k, modulo the vat size (R26, R46). -/
def localHearth (s : State) (h k : Nat) : Nat :=
  match vatOf s h with
  | none => h
  | some v => let l := vatHearths s v; l.getD (k % max l.length 1) h

/-- Position of hearth `h` in its vat. -/
def vatIndex (s : State) (h : Nat) : Nat :=
  match vatOf s h with
  | none => 0
  | some v => (vatHearths s v).findIdx (fun x => x = h)

/-- The home hearth: vat-local index 0. -/
def homeHearth (s : State) (v : Nat) : Nat := (vatHearths s v).headD 0

/-- Hops between two hearths (R40). -/
def hops (a b : Nat) : Nat := (a % 8 - b % 8) + (b % 8 - a % 8) + ((a / 8 - b / 8) + (b / 8 - a / 8))

/-- The jobs held, as (id, job). -/
def liveJobs (s : State) : List (Nat × Job) := s.jobs.filterMap (fun p => p.2.map (fun j => (p.1, j)))

/-- The vat's job in RUNNING, SWITCHING_OUT or SWITCHING_IN (R332). -/
def activeJob (s : State) (v : Nat) : Option (Nat × Job) :=
  (liveJobs s).find? (fun p => decide (p.2.vat = v ∧ (p.2.state = .running ∨ p.2.state = .switchingOut ∨ p.2.state = .switchingIn)))

/-- The job on whose behalf engines of a hearth act. -/
def jobOfHearth (s : State) (h : Nat) : Option (Nat × Job) := (vatOf s h).bind (activeJob s)

/-- Commands of one job. -/
def jobCmds (s : State) (j : Nat) : List Cmd := s.cmds.filter (fun c => decide (c.job.toNat = j))

def modCmd (j : Nat) (seq : Word) (f : Cmd → Cmd) (s : State) : State :=
  { s with cmds := s.cmds.map (fun c => if c.job.toNat = j ∧ c.seq = seq then f c else c) }

def findCmd (s : State) (j : Nat) (seq : Word) : Option Cmd := s.cmds.find? (fun c => decide (c.job.toNat = j ∧ c.seq = seq))

/-- Commands holding an in-flight entry of hearth `h`: each from its acceptance until it retires, also while its job is set
aside (R53). -/
def cmdOcc (s : State) (h : Nat) : Nat := (s.cmds.filter (fun c => decide (h ∈ c.hearths))).length

/-- Raise HRT_CMD_OCC.HIGH_WATER to the present occupancy. -/
def raiseHwm (h : Nat) (s : State) : State :=
  let n := cmdOcc s h
  modHearth h (fun x => { x with cmdHwm := max x.cmdHwm n }) s

/-! ### Job faults (R338) -/

/-- Stop a hearth's cores as a teardown does: idle, no waits, posted stores stay in flight (R334 step 1). -/
def stopCores (h : Nat) (s : State) : State :=
  modHearth h (fun x => { x with cores := Table.remap Core.dflt (fun _ c =>
    { c with run := if c.run = .trapped ∨ c.run = .halted then c.run else RunState.idle, wait := none }) x.cores }) s

/-- Arrays abandon their passes and undrained entries (R90); sums stay until a clear (R471). -/
def abandonArrays (h : Nat) (s : State) : State :=
  modHearth h (fun x => { x with arrs := Table.remap Arr.dflt (fun _ a =>
    { a with queue := [], flight := [], drains := [], drain := none, shadow := WSet.empty }) x.arrs }) s

/-- The queue pair's later entries for job `j` are discarded unread (R338 step 2, R361). -/
def closeOnQp (j : Nat) (s : State) : State :=
  match s.job j with
  | none => s
  | some b =>
    if (s.qp b.qp).openJob = some (BitVec.ofNat 16 j) then
      modQp b.qp (fun q => { q with openJob := none, torn := BitVec.ofNat 16 j :: q.torn }) s
    else s

/-- A job fault or kill takes the job to TEARING_DOWN: steps 1 and 2 of R338. `posted` says that the raising rule
posts the status itself. -/
def jobFault (j : Nat) (status detail : Nat) (posted : Bool) (s : State) : State :=
  match s.job j with
  | none => s
  | some b =>
    if b.state = .tearingDown then s else
    let passive := decide (b.state = .queued ∨ b.state = .suspended)
    let s := closeOnQp j s
    let s := modJob j (fun b => { b with
      state := .tearingDown, cause := some (BitVec.ofNat 16 status, BitVec.ofNat 8 detail, posted), saveSlot := none,
      passive := passive
      adapt := b.adapt.map (fun a => { a with state := if a.state = .failed then .failed else .abandoned, tensors := [], acts := [] }) }) s
    let s := { s with cmds := s.cmds.filter (fun c => decide (c.job.toNat ≠ j)) }
    if passive then s else forEach (vatHearths s b.vat) (fun h s => abandonArrays h (stopCores h s)) s

/-- ST_JOB_FAULT with a trap cause or reason (R51, R338). -/
def jobFaultTrap (h cause : Nat) (s : State) : State :=
  match jobOfHearth s h with
  | none => s
  | some p => jobFault p.1 0x0102 cause false s

end Sys2Proof.Machine
end

