-- ==== Sys2Proof/Machine/OpsSpm.lean ====
section
/-! DEFINITION. Scratchpad access: banks, check bits and poison, the control region, arbitration (chapter 5). -/

namespace Sys2Proof.Machine
open Sys2Proof

/-- Who reads or stores: an engine for a job (none: no job runs), or the unchecked engines of R129. -/
inductive Agent where
  | job (j : Option Nat)
  | unchecked
  deriving DecidableEq, Repr

def spmBytes : Nat := 0x400000
def bankOf (a : Nat) : Nat := a / 0x20000 % 32
/-- The control region (R136). -/
def isControl (a : Nat) : Bool := decide (0xFFC00 ≤ a ∧ a < 0x100000)

/-- The job binds model `m`: its JOB_BEGIN lists it (R129). -/
def jobBinds (s : State) (j : Option Nat) (m : Half) : Bool :=
  match j with
  | none => false
  | some j => match s.job j with
    | none => false
    | some b => decide (m ∈ b.bind)

/-- How a bank answers an access. -/
inductive Access where
  | ok
  | off
  | denied
  deriving DecidableEq, Repr

/-- A preserving march works on bank `b`: other masters wait for it, and find its contents kept (R149, R152). -/
def marchOn (x : Hearth) (b : Nat) : Bool :=
  x.march.running && x.march.preserving && decide (x.march.bank = b ∧ (x.bank b).state = .testing)

/-- A bank that serves accesses: READY, or under a preserving march whose end they wait for (R128, R152). -/
def bankServes (x : Hearth) (b : Nat) : Bool := decide ((x.bank b).state = .ready) || marchOn x b

/-- R128, R129: whether the bank at `a` of hearth `h` answers a read of `who`. -/
def readAccess (s : State) (h a : Nat) (who : Agent) : Access :=
  let x := s.hearth h
  let b := x.bank (bankOf a)
  if x.state ≠ .active ∨ bankServes x (bankOf a) = false then .off
  else if b.cls = .resident then
    match who, b.tag with
    | .unchecked, _ => .ok
    | .job j, some m => if jobBinds s j m then .ok else .denied
    | .job _, none => .denied
  else .ok

/-- R128, R129: whether the bank takes a store; a job never stores to a resident bank. -/
def writeAccess (s : State) (h a : Nat) (who : Agent) : Access :=
  let x := s.hearth h
  let b := x.bank (bankOf a)
  if x.state ≠ .active ∨ bankServes x (bankOf a) = false then .off
  else if b.cls = .resident then (if who = .unchecked then .ok else .denied)
  else .ok

/-- Count a refused access once (R128, R129). -/
def countAccess (h : Nat) : Access → State → State
  | .ok, s => s
  | .off, s => modCounts h (fun c => { c with offAccess := satAdd c.offAccess 1 }) s
  | .denied, s => modCounts h (fun c => { c with resDenied := satAdd c.resDenied 1 }) s

/-- A corrected granule (R125). -/
def eccCorrected (h g : Nat) (s : State) : State :=
  let s := modCounts h (fun c => { c with eccCorr := satAdd c.eccCorr 1 }) s
  let s := modHearth h (fun x => { x with eccPending := g :: x.eccPending.filter (· ≠ g) }) s
  modSoot (fun t => { t with spmEccCorr := satAdd t.spmEccCorr 1 }) s

/-- An uncorrectable granule found by master `m` (R126, R411). The data bits it holds are a free value. -/
def eccUncorrectable (h m g : Nat) (s : State) : State :=
  let (d, s) := draw 128 s
  let s := modHearth h (fun x => { x with mem := (upTo 16).foldl (fun t i =>
    Table.set 0 t (g * 16 + i) (byteAt (toBytes d 16) i)) x.mem }) s
  let last : Word := pack 32 [(31, 1), (26, m), (4, g)]
  let s := modCounts h (fun c => { c with eccUncorr := satAdd c.eccUncorr 1, eccLast := last }) s
  let s := modHearth h (fun x => { x with poison := Table.set false x.poison g true, eccPending := x.eccPending.filter (· ≠ g) }) s
  let s := modSoot (fun t => { t with spmEccUncorr := satAdd t.spmEccUncorr 1 }) s
  let s := record 0x0401 8 h (last.setWidth 64) s
  postStatus { status := 0x0B02, kind := 8, id := h } s

def applyErr (h m : Nat) (e : SpmErr) (s : State) : State :=
  if e.unc then eccUncorrectable h m e.granule s else eccCorrected h e.granule s

/-- The 128-byte words that L bytes at A touch (R135). -/
def wordsOf (a len : Nat) : List Nat :=
  if len = 0 then [] else (upTo ((a % 128 + len + 127) / 128)).map (fun i => a / 128 + i)

/-- The bytes at local address `a` with their poison marks, as `who` sees them. -/
def spmPeek (s : State) (h a len : Nat) (who : Agent) : List (Byte × Bool) :=
  let x := s.hearth h
  (upTo len).map fun i =>
    let b := (a + i) % spmBytes
    if readAccess s h b who = .ok then (Table.get 0 x.mem b, Table.get false x.poison (b / 16)) else (0, true)

/-- Masters that read through a byte-lane rotator (R135). -/
def hasRotator (m : Nat) : Bool := decide (m ∈ [2, 3, 4, 5, 8, 11])

/-- The rotator keeps the last word it read (R135). -/
def keepWord (h m a len : Nat) (s : State) : State :=
  match (wordsOf a len).getLast? with
  | none => s
  | some w => if hasRotator m then
      modHearth h (fun x => { x with rotator := Table.set 0 x.rotator m (w % 0x8000 + 1) }) s else s

/-- Rotators let go of a kept word that is stored to, so that no read of it is out of date (R21, assumption log 70). -/
def dropKept (ws : List Nat) (x : Hearth) : Hearth :=
  { x with rotator := Table.drop (fun m => decide (Table.get 0 x.rotator m - 1 ∈ ws.map (· % 0x8000))) x.rotator }

/-- The words of a read that access a bank: all but a first word that the master's rotator has kept (R135). -/
def bankWords (s : State) (h m a len : Nat) (who : Agent) : List Nat :=
  match wordsOf a len with
  | [] => []
  | w :: ws =>
    if hasRotator m && decide (Table.get 0 (s.hearth h).rotator m = w % 0x8000 + 1 ∧ readAccess s h (w * 128 % spmBytes) who = .ok)
    then ws else w :: ws

/-- The errors that the words read show (R125, R126). -/
def errHits (s : State) (h m a len : Nat) (who : Agent) (errs : List SpmErr) : List SpmErr :=
  errs.filter fun e =>
    decide (e.granule * 16 < a + len ∧ a < e.granule * 16 + 16 ∧ e.granule / 8 ∈ bankWords s h m a len who) &&
      decide (readAccess s h (e.granule * 16 % spmBytes) who = .ok)

/-- Read L bytes at local address A of hearth `h` for `who` as master `m`: access checks and counts (R128,
R129), errors found in the granules read (R125, R126), then the data with its poison. -/
def spmRead (h m a len : Nat) (who : Agent) (errs : List SpmErr) (s : State) : List (Byte × Bool) × State :=
  let acc := (bankWords s h m a len who).map (fun w => readAccess s h (w * 128 % spmBytes) who)
  let hits := errHits s h m a len who errs
  let s := forEach acc (countAccess h) s
  let s := forEach hits (applyErr h m) s
  (spmPeek s h a len who, keepWord h m a len s)

/-- Write single bytes of memory. -/
def pokeBytes (mem : Table Byte) (a : Nat) : List Byte → Table Byte
  | [] => mem
  | b :: bs => pokeBytes (Table.set 0 mem (a % spmBytes) b) (a + 1) bs

/-- R124: the poison bit of granule `g` after a store of `data` at `a`. -/
def granulePoison (old : Bool) (a g : Nat) (data : List (Byte × Bool)) : Bool :=
  let inG := (upTo 16).filterMap (fun i => if a ≤ g * 16 + i then data[g * 16 + i - a]? else none)
  let new := inG.any (·.2)
  if inG.length = 16 then new else old || new

/-- Store bytes with poison at local address `a` for `who`: discarded and counted where R128 or R129 says so;
otherwise the bytes and poison bits land (R124), a pending write-back of a stored granule is dropped (R125), and a
job's store sets the bank's WRITTEN bit. -/
def spmWrite (h a : Nat) (who : Agent) (data : List (Byte × Bool)) (s : State) : State :=
  let ws := wordsOf a data.length
  let s := forEach (ws.map (fun w => writeAccess s h (w * 128 % spmBytes) who)) (countAccess h) s
  let okByte := fun i => decide (writeAccess s h ((a + i) % spmBytes) who = .ok)
  let grans := (upTo ((a % 16 + data.length + 15) / 16)).map (fun i => a / 16 + i)
  modHearth h (fun x =>
    let mem := (upTo data.length).foldl (fun mem i =>
      if okByte i then Table.set 0 mem ((a + i) % spmBytes) ((data.getD i (0, false)).1) else mem) x.mem
    let okGran := fun g => decide (writeAccess s h (g * 16 % spmBytes) who = .ok)
    let poison := grans.foldl (fun p g => if okGran g then
      Table.set false p (g % 0x40000) (granulePoison (Table.get false p (g % 0x40000)) a g data) else p) x.poison
    let written := grans.foldl (fun w g => if okGran g && decide (who ≠ .unchecked) then w ||| BitVec.ofNat 32 (2 ^ bankOf (g * 16 % spmBytes)) else w) x.written
    let kept := x.eccPending.filter (fun g => decide (g ∉ (grans.filter okGran).map (· % 0x40000)))
    dropKept ws { x with mem := mem, poison := poison, eccPending := kept, written := written }) s

/-! ### Arrival counters (R139–R142) -/

/-- ADD of `v` from a source hearth (none: BAR4), with the hand-over's delay tag: TAG takes it (R140). -/
def ctrAdd (h c : Nat) (v : Word) (src : Option Nat) (tag : Nat) (s : State) : State :=
  modCtr h c (fun k =>
    let sources := match src with
      | none => k.sources
      | some g => k.sources ||| BitVec.ofNat 32 (2 ^ g)
    { k with value := k.value + v, tag := tag % 16, sources := sources }) s

/-- SET to `v` (R139, R140). -/
def ctrSet (h c : Nat) (v : Word) (s : State) : State :=
  modCtr h c (fun k => { k with value := v, sources := 0, tag := 15 }) s

/-- R141: VALUE − t as a signed number is zero or more. -/
def ctrMet (k : Ctr) (t : Word) : Bool := !(k.value - t).msb

/-! ### Hoops (R144–R148) -/

def ctlDiscard (h : Nat) (s : State) : State := modCounts h (fun c => { c with ctlDiscard := satAdd c.ctlDiscard 1 }) s

/-- An advance refused: no pointer moves, ERR is set on a BOUND hoop, the refusal counts (R145, Table 5.8). -/
def hoopRefuse (h j : Nat) (s : State) : State :=
  ctlDiscard h (modHoop h j (fun k => if k.state = .bound then { k with err := true } else k) s)

def bumpOpt (h : Nat) (c : Option Nat) (n : Nat) (src : Option Nat) (tag : Nat) (s : State) : State :=
  match c with
  | none => s
  | some c => ctrAdd h c (BitVec.ofNat 32 n) src tag s

/-- HEAD advance by n (R145–R147). A flue hoop's freed slots set credits on their way to the sender. -/
def headAdvance (h j n : Nat) (src : Option Nat) (tag : Nat) (s : State) : State :=
  let k := (s.hearth h).hoop j
  if n = 0 then s
  else if k.state ≠ .bound ∨ n > k.occ then hoopRefuse h j s
  else
    let s := modHoop h j (fun k => { k with head := k.head + BitVec.ofNat 32 n }) s
    let s := bumpOpt h k.headCtr n src tag s
    if k.flue then modIn h j (fun p => { p with credits := p.credits + n, creditTags := p.creditTags ++ [(n, tag % 16)] }) s else s

/-- TAIL advance by n of a bound hoop (R145, R146). -/
def tailAdvance (h j n : Nat) (src : Option Nat) (tag : Nat) (s : State) : State :=
  let k := (s.hearth h).hoop j
  if n = 0 then s
  else if k.state ≠ .bound ∨ n > k.size - k.occ then hoopRefuse h j s
  else
    let s := modHoop h j (fun k => { k with tail := k.tail + BitVec.ofNat 32 n }) s
    bumpOpt h k.tailCtr n src tag s

/-! ### The control region (R136, R137) -/

/-- The 16 bytes of a hoop's control word (Table 5.7). -/
def hoopWord (k : Hoop) : List Byte :=
  if k.state = .bound then
    toBytes k.head 4 ++ toBytes k.tail 4 ++ toBytes (BitVec.ofNat 32 k.occ) 4 ++ toBytes (BitVec.ofNat 32 k.size) 4
  else List.replicate 16 0

/-- The 8 bytes of a counter's control word (Table 5.6). -/
def ctrWord (k : Ctr) : List Byte :=
  toBytes k.value 4 ++ toBytes (pack 32 [(31, b2n k.broken), (0, k.tag)]) 4

/-- The whole control region as bytes from 0xFFC00. -/
def ctlByte (x : Hearth) (a : Nat) : Byte :=
  let o := a - 0xFFC00
  if o < 0x200 then byteAt (ctrWord (x.ctr (o / 8))) (o % 8)
  else byteAt (hoopWord (x.hoop ((o - 0x200) / 16))) (o % 16)

/-- A load form that R137 allows. -/
def ctlLoadOk (a len : Nat) : Bool :=
  (len == 4 && a % 4 == 0) || (len == 8 && a % 8 == 0 && decide (a < 0xFFE00)) ||
  (len == 16 && a % 16 == 0 && decide (0xFFE00 ≤ a))

/-- A load of the control region: live values for the allowed forms, zero for others; poisoned zeros and a
count while the hearth is not ACTIVE (R136, R137). -/
def ctlLoad (h a len : Nat) (s : State) : List (Byte × Bool) × State :=
  let x := s.hearth h
  if x.state ≠ .active then
    (List.replicate len (0, true), modCounts h (fun c => { c with offAccess := satAdd c.offAccess 1 }) s)
  else if ctlLoadOk a len then ((upTo len).map (fun i => (ctlByte x (a + i), false)), s)
  else (List.replicate len (0, false), s)

/-- A store to the control region of an ACTIVE hearth: ADD, SET or an advance for the aligned 4-byte forms;
every other store, and any poisoned one, is discarded and counted (R137). -/
def ctlStore (h a : Nat) (data : List Byte) (poison : Bool) (src : Option Nat) (tag : Nat) (s : State) : State :=
  let x := s.hearth h
  let v : Word := ofBytes 32 data
  if x.state ≠ .active then modCounts h (fun c => { c with offAccess := satAdd c.offAccess 1 }) s
  else if poison ∨ data.length ≠ 4 ∨ a % 4 ≠ 0 then ctlDiscard h s
  else
    let o := a - 0xFFC00
    if o < 0x200 then (if o % 8 = 0 then ctrAdd h (o / 8) v src tag s else ctrSet h (o / 8) v s)
    else
      let j := (o - 0x200) / 16
      if o % 16 = 0 then headAdvance h j v.toNat src tag s
      else if o % 16 = 4 ∧ (x.hoop j).flue = false ∧ 16 ≤ j then tailAdvance h j v.toNat src tag s
      else ctlDiscard h s

/-! ### Whole ranges of a hearth's addresses (R136, R137) -/

def ctlLow : Nat := 0xFFC00
def ctlHigh : Nat := 0x100000

/-- The bytes of a read that fall on the control region without being one of R137's forms: zeros, or poisoned zeros and a
count while the hearth is not ACTIVE. -/
def ctlOther (h len : Nat) (s : State) : List (Byte × Bool) × State :=
  if len = 0 then ([], s)
  else if (s.hearth h).state ≠ .active then
    (List.replicate len (0, true), modCounts h (fun c => { c with offAccess := satAdd c.offAccess 1 }) s)
  else (List.replicate len (0, false), s)

/-- Read local addresses of hearth `g`: the control region for the part that lies in it, the banks for the rest. -/
def localRead (g m a len : Nat) (who : Agent) (errs : List SpmErr) (s : State) : List (Byte × Bool) × State :=
  if isControl a ∧ a + len ≤ ctlHigh then ctlLoad g a len s
  else if a + len ≤ ctlLow ∨ ctlHigh ≤ a then spmRead g m a len who errs s
  else
    let (x, s) := spmRead g m a (ctlLow - a) who errs s
    let (y, s) := ctlOther g (min (a + len) ctlHigh - max a ctlLow) s
    let (z, s) := spmRead g m ctlHigh (a + len - ctlHigh) who errs s
    (x ++ y ++ z, s)

/-- Store at local addresses of hearth `g`: bytes for the banks land there; a store that lies whole in the control
region acts or is discarded as R137 says, and the part of a longer one that falls on it is discarded and counted. -/
def localWrite (g a : Nat) (who : Agent) (src : Option Nat) (tag : Nat) (d : List (Byte × Bool)) (s : State) : State :=
  let len := d.length
  if isControl a ∧ a + len ≤ ctlHigh then ctlStore g a (d.map (·.1)) (d.any (·.2)) src tag s
  else if a + len ≤ ctlLow ∨ ctlHigh ≤ a then spmWrite g a who d s
  else
    let s := spmWrite g a who (d.take (ctlLow - a)) s
    let s := ctlStore g ctlLow (List.replicate 5 0) false src tag s
    spmWrite g ctlHigh who (d.drop (ctlHigh - a)) s

/-! ### Stall counters (R60) -/

/-- Add stall cycles of ember cores under a cause of Table 2.9 (R60). -/
def stallEmb (h cause n : Nat) (s : State) : State :=
  modCounts h (fun c => { c with stallEmb := Table.mod 0 c.stallEmb cause (fun v => satAdd v n) }) s

/-- Add array stall cycles under a cause; the lifetime total goes to soot (R60, R419). -/
def stallArr (h cause n : Nat) (s : State) : State :=
  let s := modCounts h (fun c => { c with stallArr := Table.mod 0 c.stallArr cause (fun v => satAdd v n) }) s
  modSoot (fun t => { t with stallArr := Table.mod 0 t.stallArr cause (fun v => satAdd v n) }) s

/-- Priority number of a cause (Table 2.9); a code that names none comes last. -/
def causePrio (c : Nat) : Nat := [5, 4, 3, 2, 9, 8, 10, 11, 6, 7, 1].getD c 12

/-- Of two delay tags, the one whose cause has the lower priority number; 0xF names none (R60, R140). -/
def worseTag (a b : Nat) : Nat := if causePrio b < causePrio a then b else a

/-! ### Arbitration (R133, R134) -/

/-- Class A masters stream data for the arrays (Table 5.5). -/
def classA (m : Nat) : Bool := decide (2 ≤ m ∧ m ≤ 8)

/-- Round-robin in number order after `last`. -/
def roundRobin (last : Nat) (ms : List Nat) : Option Nat :=
  let sorted := sortBy id ms
  match sorted.find? (fun m => decide (last < m)) with
  | some m => some m
  | none => sorted.head?

/-- One cycle: the request granted, and the bank's arbitration state after it (R133 rules 3 and 4). -/
def arbCycle (b : Bank) (reqs : List BankReq) : Option BankReq × Bank :=
  let as := reqs.filter (fun r => classA r.master)
  let bs := reqs.filter (fun r => !classA r.master)
  let pickA := if as = [] then false else if bs = [] then true else !b.lastA
  let b := if as ≠ [] ∧ bs ≠ [] then { b with lastA := pickA } else b
  let cs := if pickA then as else bs
  match roundRobin (if pickA then b.grantA else b.grantB) (cs.map (·.master.val)) with
  | none => (none, b)
  | some m =>
    let b := if pickA then { b with grantA := m } else { b with grantB := m }
    if m ≠ 0 then (cs.find? (fun r => decide (r.master.val = m)), b)
    else
      let c := roundRobin b.grantCore ((cs.filter (fun r => decide (r.master.val = 0))).map (·.core.val))
      (cs.find? (fun r => decide (r.master.val = 0 ∧ some r.core.val = c)), { b with grantCore := c.getD b.grantCore })

/-- The requests that wait, cycle by cycle, until `own` is granted and through the second cycle of a read-modify-write of
its own. `held` says that the cycle is the second one of another's (R133 rule 2). -/
def contest (own : BankReq) : Bool → List (List BankReq) → Bank → List BankReq × Bank
  | held, [], b => (if held then [own] else [], (arbCycle b [own]).2)
  | held, rs :: rest, b =>
    let reqs := own :: dedup (rs.filter (fun r => decide (r ≠ own)))
    if held then
      let (ls, b) := contest own false rest b
      (reqs ++ ls, b)
    else
      let (g, b) := arbCycle b reqs
      let lost := reqs.filter (fun r => decide (some r ≠ g))
      if g = some own then (lost ++ (if own.rmw then rest.headD [] else []), b)
      else
        let (ls, b) := contest own ((g.map (·.rmw)).getD false) rest b
        (lost ++ ls, b)

/-- Count the waits of a contest at bank `k` (R134): each waiting master and the bank, and the stalls of the waiting
engines other than `own`, whose own stall its caller counts. An array loses one beat for two bank cycles. -/
def chargeWaits (h k : Nat) (own : BankReq) (lost : List BankReq) (held : Nat) (s : State) : State :=
  let n := fun m => (lost.filter (fun r => decide (r.master.val = m))).length + (if own.master.val = m then held else 0)
  let others := lost.filter (fun r => decide (r ≠ own))
  let cores := (others.filter (fun r => decide (r.master.val = 0))).length
  let arrays := (others.filter (fun r => decide (2 ≤ r.master.val ∧ r.master.val ≤ 7))).length
  let s := modCounts h (fun c => { c with
    conflict := Table.modAll 0 c.conflict ((upTo 12).filter (fun m => decide (n m ≠ 0))) (fun m v => satAdd v (n m))
    bankConflict := Table.mod 0 c.bankConflict k (fun v => satAdd v (lost.length + held)) }) s
  let s := if cores = 0 then s else stallEmb h 8 cores s
  if arrays = 0 then s else stallArr h 8 (cdiv arrays 2) s

/-- The cycles that request `own` waits for bank `k` of hearth `h`, with everything counted (R133, R134). -/
def arbitrate (h k : Nat) (own : BankReq) (r : Rivals) (s : State) : Nat × State :=
  let (lost, b) := contest own false r.cycles ((s.hearth h).bank k)
  let s := modBank h k (fun _ => b) s
  ((lost.filter (fun x => decide (x = own))).length + r.held, chargeWaits h k own lost r.held s)

/-- A store of `len` bytes at `a` covers some granule only in part (R124). -/
def partStore (a len : Nat) : Bool := decide (a % 16 ≠ 0 ∨ len % 16 ≠ 0)

/-- A request of master `m` for no core. -/
def engineReq (m : Fin 12) (rmw : Bool) : BankReq := { master := m, core := 0, rmw := rmw }

/-- The flipped bits that engine work finds at hearth `g`. -/
def touchAt (t : Touch) (g : Nat) : List SpmErr :=
  (t.errs.filter (fun e => decide (e.hearth.val = g))).map (fun e => { granule := e.granule, unc := e.unc })

/-- What the accesses of master `m` found, wherever they read (R125, R126). -/
def touchErrs (m : Nat) (t : Touch) (s : State) : State :=
  forEach t.errs (fun e s => applyErr e.hearth m { granule := e.granule, unc := e.unc } s) s

/-- The contests that engine work met; an array's engines count their waits under bank-conflict (R134). -/
def touchMeet (t : Touch) (s : State) : State :=
  forEach t.contests (fun c s =>
    let (n, s) := arbitrate c.hearth c.bank (engineReq c.master false) c.rivals s
    if n ≠ 0 ∧ 2 ≤ c.master.val ∧ c.master.val ≤ 7 then stallArr c.hearth 8 (cdiv n 2) s else s) s

end Sys2Proof.Machine
end

