-- ==== Sys2Proof/Machine/OpsEmber.lean ====
section
/-! DEFINITION. Ember cores: registers, traps, the address map, posted stores, flue port slots, and the
ladle unit (R45–R51, R54–R58). -/

namespace Sys2Proof.Machine
open Sys2Proof

def xDflt : XReg := { v := 0, p := false }
def vDflt : VReg := { v := 0, p := false }

/-- x register r; x0 reads as zero (R45). -/
def Core.getX (k : Core) (r : Nat) : XReg := if r = 0 then xDflt else Table.get xDflt k.x r
def Core.getV (k : Core) (r : Nat) : VReg := Table.get vDflt k.v r
def Core.setX (r : Nat) (v : Word) (p : Bool) (k : Core) : Core :=
  if r = 0 then k else { k with x := Table.set xDflt k.x r { v := v, p := p } }
def Core.setV (r : Nat) (v : Granule) (p : Bool) (k : Core) : Core :=
  { k with v := Table.set vDflt k.v r { v := v, p := p } }
/-- Move past an instruction of `n` bytes. -/
def Core.step (n : Nat) (k : Core) : Core := { k with pc := k.pc + BitVec.ofNat 32 n }

def State.core (s : State) (h c : Nat) : Core := (s.hearth h).core c

/-- No job switch holds the cores of hearth `h` (R334 step 1). -/
def coresGo (s : State) (h : Nat) : Bool :=
  match jobOfHearth s h with
  | none => true
  | some p => decide (p.2.state = .running)

/-- Run `f` on a core that is running; a core in any other state, or in a job switch, executes nothing. -/
def withCore (h c : Nat) (f : Core → State → State) (s : State) : State :=
  if (s.core h c).run = .running ∧ coresGo s h = true then f (s.core h c) s else s

/-- Trap causes (Table 2.7, EMB_STATUS.TRAP). -/
def trapIllegal : Nat := 1
def trapMisaligned : Nat := 2
def trapAccess : Nat := 3
def trapPoison : Nat := 4
def trapEcall : Nat := 5
def trapEbreak : Nat := 6

/-- R51: the core stops at the trapping instruction, and the HCC, which receives the cause, faults the job. -/
def trap (h c cause : Nat) (tval : Word) (s : State) : State :=
  jobFaultTrap h cause
    (modCore h c (fun k => { k with run := .trapped, trap := cause, stopPc := k.pc, tval := tval, wait := none }) s)

/-- Where an ember core address leads (Table 2.5). -/
inductive Target where
  | own (addr : Nat)
  | remote (hearth addr : Nat)
  | outPort (port offset : Nat)
  | headReg (port : Nat)
  | none
  deriving DecidableEq, Repr

/-- R46: the address map, with the vat window's wrap of k. -/
def decodeAddr (s : State) (h a : Nat) : Target :=
  if a < 0x400000 then .own a
  else if 0x10000000 ≤ a ∧ a < 0x18000000 then
    .remote (localHearth s h ((a - 0x10000000) / 0x400000)) ((a - 0x10000000) % 0x400000)
  else if 0x20000000 ≤ a ∧ a < 0x20010000 then .outPort (a / 0x1000 % 16) (a % 64)
  else if 0x20010000 ≤ a ∧ a < 0x20020000 then .headReg (a / 0x1000 % 16)
  else .none

/-- The job for which hearth `h`'s cores read (R129). -/
def agentOf (s : State) (h : Nat) : Agent := .job ((jobOfHearth s h).map (·.1))

/-- Stall cycles of one core under a cause, which is then its delay until its next hand-over (R60). -/
def stallCore (h c cause n : Nat) (s : State) : State :=
  if n = 0 then s else modCore h c (fun k => { k with delay := worseTag k.delay cause }) (stallEmb h cause n s)

/-- R48: an access of core number `c` to hearth `g`, which is not ACTIVE, counts in `g`'s EMB_ block and, as an access
under R128, in its SPM_OFF_ACCESS. -/
def countRemoved (g c : Nat) (s : State) : State :=
  modCore g c (fun k => { k with removedAcc := satAdd k.removedAcc 1 }) s

/-- Read local address `a` of hearth `g` for a core of hearth `h`, as master `m`: control region or banks. -/
def coreRead (h g m a len : Nat) (errs : List SpmErr) (s : State) : List (Byte × Bool) × State :=
  localRead g m a len (agentOf s h) errs s

/-! ### Outbound flue slots (R54, R55, R57) -/

/-- A store or drain flit to a flue that is not OPEN is discarded, counted and recorded (R57). -/
def flueDiscard (h p : Nat) (s : State) : State :=
  let f := (s.hearth h).outPort p
  let arg := if f.valid then f.flue + p * 256 else p * 256 + 4096
  record 0x0304 8 h (BitVec.ofNat 64 arg)
    (modCounts h (fun c => { c with flueDiscard := satAdd c.flueDiscard 1 }) s)

/-- The slot holds a whole flit that waits for a credit. -/
def FluePort.full (f : FluePort) : Bool := decide (f.slotMask = BitVec.allOnes 64)

/-- Launch the filled slot as a flit when the sender holds a credit (R55). -/
def launchFlit (h p : Nat) (s : State) : State :=
  modOut h p (fun f =>
    if f.full = true ∧ 0 < f.credits then
      { f with credits := f.credits - 1, flight := f.flight ++ [(f.slot, f.slotPoison, f.slotTag)], slotMask := 0, slot := 0
               slotPoison := false, slotTag := 15 }
    else f) s

/-- Fill bytes of the outbound slot; a full slot is launched. Bytes fill by their offset mod 64, and a slot filled only in
part stays so until more stores fill it (assumption log 71). -/
def fillSlot (h p off : Nat) (data : List Byte) (poison : Bool) (tag : Nat) (s : State) : State :=
  let n := data.length
  launchFlit h p (modOut h p (fun f =>
    let m : BitVec 512 := BitVec.ofNat 512 ((2 ^ (8 * n) - 1) * 2 ^ (8 * off))
    { f with slotMask := f.slotMask ||| BitVec.ofNat 64 ((2 ^ n - 1) * 2 ^ off)
             slot := (f.slot &&& ~~~m) ||| BitVec.ofNat 512 (leNat data * 2 ^ (8 * off))
             slotPoison := f.slotPoison || poison, slotTag := worseTag f.slotTag tag }) s)

/-- Core `c` stalls on port `p`, with a store it could not make. -/
def waitPort (h c p : Nat) (store : Option (Nat × List Byte)) (s : State) : State :=
  modCore h c (fun k => { k with run := .stalled, wait := some (.flueFull p store) }) s

/-- Put a core's store into the slot; a core whose flit finds no credit stalls under flue-full (R55). -/
def portPut (h c p off : Nat) (data : List Byte) (tag : Nat) (s : State) : State :=
  let s := modCore h c (fun k => { k with delay := 15 }) (fillSlot h p off data false (worseTag (s.core h c).delay tag) s)
  if ((s.hearth h).outPort p).full then waitPort h c p none s else s

/-- A store to an outbound port by core `c`: discarded under R57, put into the slot, or held with its core while a flit
fills the slot and waits for a credit. -/
def portStore (h c p off : Nat) (data : List Byte) (tag : Nat) (s : State) : State :=
  if ((s.hearth h).outPort p).state ≠ .openF then flueDiscard h p s
  else if ((s.hearth h).outPort p).full then waitPort h c p (some (off, data)) s
  else portPut h c p off data tag s

/-- A core goes on. -/
def resumeCore (h c : Nat) (s : State) : State := modCore h c (fun k => { k with run := .running, wait := none }) s

/-- After the slot of port `p` has emptied: the core whose flit left goes on, and held stores enter the slot in core
order while it has room. -/
def servePort (h p : Nat) (s : State) : State :=
  if ((s.hearth h).outPort p).full then s else
  let s := forEach (upTo 64) (fun c s => if (s.core h c).wait = some (.flueFull p none) then resumeCore h c s else s) s
  forEach (upTo 64) (fun c s =>
    match (s.core h c).wait with
    | some (.flueFull q (some (off, data))) =>
      if q = p ∧ ((s.hearth h).outPort p).full = false then portPut h c p off data 15 (resumeCore h c s) else s
    | _ => s) s

/-! ### Posted stores (R44, R47, R138) -/

/-- A store lands at local address `a` of hearth `g`: control word or banks. -/
def landStore (h g a : Nat) (data : List Byte) (poison : Bool) (tag : Nat) (s : State) : State :=
  localWrite g a (agentOf s h) (some h) tag (data.map (fun b => (b, poison))) s

def FlightStore.hearth (f : FlightStore) (own : Nat) : Nat :=
  match f.dst with
  | .spm g _ => g
  | .port _ _ _ => own
  | .head _ _ => own

/-- Land one store of core `c` that has not landed yet, with the delay it met on its way; one that finds its hearth
removed is discarded and counted (R48). -/
def landFlight (h c : Nat) (f : FlightStore) (tag : Nat) (s : State) : State :=
  if f.landed then s else
  match f.dst with
  | .spm g a =>
    let s := if (s.hearth g).state ≠ .active then countRemoved g c s else s
    landStore h g a f.data f.poison (worseTag f.tag tag) s
  | .port _ _ _ => s
  | .head _ _ => s

/-- Land every store of the core to hearth `g`, before a later load or bump of its own there (R43, R47, R138). -/
def landEarlier (h c g : Nat) (s : State) : State :=
  let fs := (s.core h c).stores
  let s := forEach (fs.filter (fun f => decide (f.hearth h = g))) (fun f s => landFlight h c f 15 s) s
  modCore h c (fun k => { k with stores := k.stores.map (fun f => if f.hearth h = g then { f with landed := true } else f) }) s

/-- The tag of a hand-over that core `c` makes now: its delay since the last one, or what the store meets (R60). A data
store is no hand-over. -/
def handTag (s : State) (h c : Nat) (handover : Bool) (tag : Nat) : Nat :=
  if handover then worseTag (s.core h c).delay tag else 15

/-- The delay of a core ends with its hand-over. -/
def handed (h c : Nat) (handover : Bool) (s : State) : State :=
  if handover then modCore h c (fun k => { k with delay := 15 }) s else s

/-- Issue a store: own-hearth stores land at once, behind the core's earlier ones, remote ones when acknowledged; every one
stays in flight until its acknowledgement (R44, R47). A store at any offset of an inbound port's range advances its hoop's
head (assumption log 71). -/
def issueStore (h c : Nat) (t : Target) (data : List Byte) (tag : Nat) (s : State) : State :=
  let push := fun (f : FlightStore) (s : State) => modCore h c (fun k => { k with stores := k.stores ++ [f] }) s
  match t with
  | .own a =>
    let w := handTag s h c (isControl a) tag
    push { dst := .spm h a, data := data, poison := false, landed := true, tag := w }
      (landStore h h a data false w (landEarlier h c h (handed h c (isControl a) s)))
  | .remote g a =>
    if (s.hearth g).state ≠ .active then
      -- R48: discarded and counted
      countRemoved g c (modCounts g (fun k => { k with offAccess := satAdd k.offAccess 1 }) s)
    else push { dst := .spm g a, data := data, poison := false, landed := false, tag := handTag s h c (isControl a) tag }
      (handed h c (isControl a) s)
  | .outPort p o => push { dst := .port h p o, data := data, poison := false, landed := true, tag := 15 } (portStore h c p o data tag s)
  | .headReg p =>
    let w := handTag s h c true tag
    push { dst := .head h p, data := data, poison := false, landed := true, tag := w }
      (headAdvance h p (leNat data) (some h) w (landEarlier h c h (handed h c true s)))
  | .none => s

/-! ### Ladles (R58) -/

/-- STEAL_MAX: 0 means 256 (Table 2.16). -/
def Ladle.maxSteal (l : Ladle) : Nat := if l.stealMax = 0 then 256 else l.stealMax

/-- Hearths of the vat whose ladle of the same number belongs to the same job, nearest first (R58 rule 6). -/
def victimOrder (s : State) (h l : Nat) : List Nat :=
  let j := ((s.hearth h).ladle l).job
  match vatOf s h with
  | none => []
  | some v =>
    let c := (activeHearths s v).filter (fun g => decide (g ≠ h ∧ ((s.hearth g).ladle l).valid = true ∧ ((s.hearth g).ladle l).job = j))
    sortBy (fun g => hops h g * 32 + g) c

/-- Give a taker its answer: a core's register, EMPTY as all ones. -/
def answerTake (h : Nat) (t : Taker) (r : Option Nat) (s : State) : State :=
  match t with
  | .core c rd =>
    modCore h c (fun k => { (k.setX rd (match r with | some i => BitVec.ofNat 32 i | none => BitVec.allOnes 32) false) with run := .running, wait := none }) s
  | .array _ => s

/-- One take of the queue under rules 1–3: the index and the ladle after it; none when the queue is empty and
no range is pending. -/
def takeLocal (l : Ladle) : Option (Nat × Ladle) :=
  let l := if l.tail = l.head then
      match l.pending with
      | some (a, b) => { l with head := a, tail := b, pending := none }
      | none => l
    else l
  if l.tail - l.head ≥ 2 then some (l.head, { l with head := l.head + 1, held := l.held ++ [l.head] })
  else if l.tail - l.head = 1 then some (l.tail - 1, { l with tail := l.tail - 1, held := l.held ++ [l.tail - 1] })
  else none

/-- A take (rules 1–4). The second part is the answer; none when the taker waits on a steal. -/
def ladleTake (h l : Nat) (t : Taker) (s : State) : Option (Option Nat) × State :=
  let d := (s.hearth h).ladle l
  match d.steal with
  | some _ => (none, modLadle h l (fun d => { d with waiters := d.waiters ++ [t] }) s)
  | none =>
    match takeLocal d with
    | some (i, d') => (some (some i), modLadle h l (fun _ => d') s)
    | none =>
      let vs := victimOrder s h l
      if d.stealEn && d.valid && decide (vs ≠ []) then
        (none, modLadle h l (fun d => { d with steal := some { victims := vs, probed := none, reply := none }, waiters := d.waiters ++ [t] }) s)
      else (some none, s)

/-- The takers of a ladle have waited on a steal: `cycles` in all, under ladle-empty (R58 rule 4, R60). -/
def stallTakers (h l cycles : Nat) (s : State) : State :=
  let ws := ((s.hearth h).ladle l).waiters
  let cores := ws.filterMap (fun t => match t with
    | .core c _ => some c
    | .array _ => none)
  let s := if cycles = 0 ∨ cores = [] then s
    else forEach cores (fun c s => modCore h c (fun k => { k with delay := worseTag k.delay 7 }) s) (stallEmb h 7 cycles s)
  if cycles = 0 ∨ cores.length = ws.length then s else stallArr h 7 (cdiv cycles 2) s

/-- Let waiting takers take in order, until one starts a steal of its own. `empty` answers them EMPTY when the
queue has nothing, as when every victim has failed. -/
def serveWaiters (h l : Nat) (empty : Bool) : List Taker → State → List (Taker × Option Nat) × State
  | [], s => ([], s)
  | t :: ts, s =>
    let d := (s.hearth h).ladle l
    match takeLocal d with
    | some (i, d') =>
      let s := answerTake h t (some i) (modLadle h l (fun _ => d') s)
      let (as, s) := serveWaiters h l empty ts s
      ((t, some i) :: as, s)
    | none =>
      if empty then
        let (as, s) := serveWaiters h l empty ts (answerTake h t none s)
        ((t, none) :: as, s)
      else
        match ladleTake h l t s with
        | (some r, s) =>
          let (as, s) := serveWaiters h l empty ts (answerTake h t r s)
          ((t, r) :: as, s)
        | (none, s) => ([], modLadle h l (fun d => { d with waiters := d.waiters ++ ts }) s)

/-- End the steal and serve the waiters (rule 4). -/
def endSteal (h l : Nat) (empty : Bool) (s : State) : List (Taker × Option Nat) × State :=
  let ws := ((s.hearth h).ladle l).waiters
  serveWaiters h l empty ws (modLadle h l (fun d => { d with steal := none, waiters := [] }) s)

/-- Move to the next victim, or end the steal when none is left (rules 4 and 6). -/
def nextVictim (h l : Nat) (s : State) : List (Taker × Option Nat) × State :=
  match ((s.hearth h).ladle l).steal with
  | none => ([], s)
  | some st =>
    match st.victims.tail with
    | [] => endSteal h l true s
    | vs => ([], modLadle h l (fun d => { d with steal := some { victims := vs, probed := none, reply := none } }) s)

/-- Rule 7 at the reporting hearth: a ladle that is not VALID discards and counts, else the report leaves for
the home. -/
def sendDone (h l i : Nat) (s : State) : State :=
  let d := (s.hearth h).ladle l
  let s := modLadle h l (fun d => { d with held := d.held.erase i }) s
  if d.valid then { s with dones := s.dones ++ [{ src := h, ladle := l, home := d.home, index := i }] }
  else modCounts h (fun c => { c with badDone := satAdd c.badDone 1 }) s

end Sys2Proof.Machine
end

