-- ==== Sys2Proof/Machine/Ladle.lean ====
section
/-! DEFINITION. Ladles and work stealing: takes, completions, steals (R58, R183), and xe.trie (R49). -/

namespace Sys2Proof.Machine
open Sys2Proof

/-- XE_TAKE (R58 rules 1–4). -/
def execXeTake (h : Fin 32) (c : Fin 64) (rd : Fin 32) (ladle : Fin 16) (s : State) : Res :=
  rooted s (withCore h c (fun _ s =>
    let s := modCore h c (Core.step 4) s
    match ladleTake h ladle (.core c rd) s with
    | (some r, s) => answerTake h (.core c rd) r s
    | (none, s) => modCore h c (fun k => { k with run := .stalled, wait := some (.take ladle rd) }) s) s)

/-- XE_DONE (R58 rule 7). -/
def execXeDone (h : Fin 32) (c : Fin 64) (rs1 : Fin 32) (ladle : Fin 16) (s : State) : Res :=
  rooted s (withCore h c (fun k s =>
    let i := k.getX rs1
    if i.p then trap h c trapPoison 0 s
    else sendDone h ladle i.v.toNat (modCore h c (Core.step 4) s)) s)

/-- The victim being tried by the steal of a ladle. -/
def stealVictim (s : State) (h l : Nat) : Option Nat :=
  match ((s.hearth h).ladle l).steal with
  | none => none
  | some st => st.victims.head?

/-- STEAL_PROBE: reads the victim's HEAD and TAIL; an empty queue sends no swap and counts nothing (rule 5), and the
takers' wait counts when it was the last victim's (rule 4). -/
def execStealProbe (h : Fin 32) (ladle : StealTurn) (s : State) : Res :=
  rooted s (let l := ladle.ladle.val
    match ((s.hearth h).ladle l).steal, stealVictim s h l with
    | some st, some g =>
      if st.probed.isSome ∨ st.reply.isSome then s else
      let d := (s.hearth g).ladle l
      if d.tail - d.head = 0 then
        (nextVictim h l (if st.victims.tail = [] then stallTakers h l ladle.cycles s else s)).2
      else modLadle h l (fun x => { x with steal := some { st with probed := some (d.head, d.tail) } }) s
    | _, _ => s)

/-- Entries to steal from a queue probed as [head, tail) (rule 5). -/
def stealCount (max head tail : Nat) : Nat := if tail - head = 1 then 1 else min max ((tail - head) / 2)

/-- STEAL_SWAP: the compare-and-swap of TAIL executes at the victim (rule 5). -/
def execStealSwap (h : Fin 32) (ladle : Fin 16) (s : State) : Res :=
  rooted s (match ((s.hearth h).ladle ladle).steal, stealVictim s h ladle with
    | some st, some g =>
      match st.probed, st.reply with
      | some (hd, t), none =>
        let n := stealCount ((s.hearth h).ladle ladle).maxSteal hd t
        let d := (s.hearth g).ladle ladle
        if d.tail = t ∧ d.head ≤ t - n then
          modLadle h ladle (fun x => { x with steal := some { st with reply := some (some (t - n, t)) } })
            (modLadle g ladle (fun x => { x with tail := t - n }) s)
        else modLadle h ladle (fun x => { x with steal := some { st with reply := some none } }) s
      | _, _ => s
    | _, _ => s)

/-- STEAL_REPLY: a success loads the stealer's ladle and serves the takes that wait; a failure moves on to the
next victim (rules 4–6). The cycles waited count under ladle-empty (R60). -/
def execStealReply (h : Fin 32) (ladle : Fin 16) (cycles : Nat) (s : State) : Res :=
  rooted s (match ((s.hearth h).ladle ladle).steal with
    | none => s
    | some st =>
      match st.reply with
      | none => s
      | some (some (a, b)) =>
        let s := stallTakers h ladle cycles (modCounts h (fun c => { c with stealOk := satAdd c.stealOk 1 }) s)
        (endSteal h ladle false (modLadle h ladle (fun x => { x with head := a, tail := b }) s)).2
      | some none =>
        let s := stallTakers h ladle cycles (modCounts h (fun c => { c with stealFail := satAdd c.stealFail 1 }) s)
        (nextVictim h ladle s).2)

/-- Share [lo, hi) over `v` hearths: the range of hearth `k` (R182). -/
def shareRange (lo hi v k : Nat) : Nat × Nat := (lo + k * (hi - lo) / v, lo + (k + 1) * (hi - lo) / v)

/-- Indices in one round of a ladle group (R183). -/
def roundSize : Nat := 1048576

/-- Load ladle `l` of the hearths `hs` with the indices [lo, hi), the completion bitmap at the home first cleared (R58,
R183). The home's ladle names the group even where the home takes no part of it. -/
def loadLadles (hs : List Nat) (home l j : Nat) (seq : Word) (lo hi bitmap stealMax : Nat) (stealEn : Bool) (s : State) : State :=
  let s := spmWrite home bitmap (.job (some j)) (List.replicate (cdiv (hi - lo) 64 * 8) (0, false)) s
  let load := fun (g a b : Nat) (en : Bool) => modLadle g l (fun _ => { Ladle.dflt with
    head := a, tail := b, valid := true, stealEn := en, stealMax := stealMax % 256, home := home, job := BitVec.ofNat 16 j
    total := hi - lo, bitmap := bitmap, seq := seq, base := lo })
  let s := if home ∈ hs then s else load home hi hi false s
  forEach (upTo hs.length) (fun k s =>
    let (a, b) := shareRange lo hi hs.length k
    load (hs.getD k 0) a b stealEn s) s

/-- The command is a KERNEL: its parts are its hearths' cores, which end by ecall (R193). -/
def entKernel (c : Cmd) : Bool := decide (bits c.entry 7 0 = 0x30)

/-- DONE_COUNT has reached TOTAL: the next round is loaded (R183), or the owning command's tiles are done (R58). -/
def groupComplete (home l : Nat) (s : State) : State :=
  let d := (s.hearth home).ladle l
  match findCmd s d.job.toNat d.seq with
  | none => s
  | some c =>
    match c.plan with
    | some p =>
      if (p.round + 1) * roundSize < p.u then
        let r := p.round + 1
        let s := modCmd d.job.toNat d.seq (fun c => { c with plan := some { p with round := r } }) s
        loadLadles (c.hearths.filter (fun g => decide ((s.hearth g).state = .active))) home l d.job.toNat d.seq (r * roundSize) (min p.u ((r + 1) * roundSize)) d.bitmap d.stealMax d.stealEn s
      else modCmd d.job.toNat d.seq (fun c => if entKernel c then c else { c with partsLeft := [] }) s
    | none => s

/-- Bit `i` of the completion bitmap of a ladle at its home. -/
def bitmapBit (s : State) (home l i : Nat) : Bool :=
  let d := (s.hearth home).ladle l
  bit (Table.get 0 (s.hearth home).mem ((d.bitmap + i / 8) % spmBytes)) (i % 8)

/-- A completion of index `i` reaches the home (R58 rule 7). The ladle unit reads and writes the bitmap as master 10, for the
group's job. -/
def reportDone (home l i : Nat) (s : State) : State :=
  let d := (s.hearth home).ladle l
  let k := i - d.base
  let who : Agent := .job (some d.job.toNat)
  if i < d.base ∨ d.total ≤ k then modCounts home (fun c => { c with badDone := satAdd c.badDone 1 }) s
  else
    let a := (d.bitmap + k / 8) % spmBytes
    let (old, s) := spmRead home 10 a 1 who [] s
    let b := (old.headD (0, false)).1
    if bit b (k % 8) then modCounts home (fun c => { c with dupDone := satAdd c.dupDone 1 }) s
    else
      let s := spmWrite home a who [(b ||| BitVec.ofNat 8 (2 ^ (k % 8)), false)] s
      let s := modLadle home l (fun d => { d with done := d.done + 1 }) s
      if d.done + 1 = d.total then groupComplete home l s else s

/-- COMPLETION_REPORT (R58, R183). -/
def execCompletionReport (home : Fin 32) (s : State) : Res :=
  rooted s (match s.dones.find? (fun d => decide (d.home = home.val)) with
    | none => s
    | some d =>
      reportDone home d.ladle d.index
        { s with dones := s.dones.eraseIdx (s.dones.findIdx (fun d => decide (d.home = home.val))) })

/-- xe.trie: the child of a node for a byte, or 0 (R49). Children are sorted entries of byte value and
address ÷ 8. -/
def trieChild (count b : Nat) (table : Nat → List Byte) : Nat :=
  match (upTo count).find? (fun i => decide (fieldAt (table i) 3 1 = b)) with
  | none => 0
  | some i => fieldAt (table i) 0 3 * 8

/-- XE_TRIE. The node and its table lie in scratchpad; poison in what is read marks the result. A node address that is not
8-byte aligned traps as misaligned, and one on a flue port as an access fault (assumption log 71). The core's own
earlier stores there land first (R43, R47). -/
def execXeTrie (h : Fin 32) (c : Fin 64) (rd rs1 rs2 : Fin 32) (s : State) : Res :=
  rooted s (withCore h c (fun k s =>
    let a := k.getX rs1
    let b := k.getX rs2
    if a.p || b.p then trap h c trapPoison a.v s
    else if a.v.toNat % 8 ≠ 0 then trap h c trapMisaligned a.v s
    else
      let go := fun (g addr : Nat) =>
        let s := landEarlier h c g s
        let m := if g = h.val then 0 else 9
        let s := if (s.hearth g).state ≠ .active then countRemoved g c s else s
        let (nd, s) := coreRead h g m addr 8 [] s
        let raw := nd.map (·.1)
        let n := min (fieldAt raw 4 2) 256
        let tab := addr + fieldAt raw 6 2 * 8
        let (ts, s) := coreRead h g m tab (n * 4) [] s
        let child := trieChild n (b.v.toNat % 256) (fun i => ((ts.drop (4 * i)).take 4).map (·.1))
        modCore h c (fun k => (k.setX rd (BitVec.ofNat 32 child) (nd.any (·.2) || ts.any (·.2))).step 4) s
      match decodeAddr s h a.v.toNat with
      | .own x => go h x
      | .remote g x => go g x
      | _ => trap h c trapAccess a.v s) s)

end Sys2Proof.Machine
end

