-- ==== Sys2Proof/Machine/Float.lean ====
section
/-! DEFINITION. Binary floating point over exact numbers: a value is decoded exactly, computed exactly, and
rounded once to nearest even (R85, R49). Formats: FP32, BF16, FP16, FP8 E4M3 and E5M2 (chapter 4). -/

namespace Sys2Proof.Machine
open Sys2Proof

/-- A binary format: exponent and mantissa bits; E4M3 has no infinity. -/
structure Fmt where
  eb : Nat
  mb : Nat
  inf : Bool
  deriving DecidableEq, Repr

def fp32 : Fmt := ⟨8, 23, true⟩
def bf16 : Fmt := ⟨8, 7, true⟩
def fp16 : Fmt := ⟨5, 10, true⟩
def e5m2 : Fmt := ⟨5, 2, true⟩
def e4m3 : Fmt := ⟨4, 3, false⟩

def Fmt.bias (f : Fmt) : Nat := 2 ^ (f.eb - 1) - 1
/-- Exponent of the smallest step of the format. -/
def Fmt.qmin (f : Fmt) : Int := 1 - (f.bias : Int) - f.mb
/-- The code of infinity, without its sign; for E4M3 the code of its NaN. -/
def Fmt.infCode (f : Fmt) : Nat := if f.inf then (2 ^ f.eb - 1) * 2 ^ f.mb else 2 ^ (f.eb + f.mb) - 1
/-- The canonical quiet NaN code. -/
def Fmt.nanCode (f : Fmt) : Nat := if f.inf then (2 ^ f.eb - 1) * 2 ^ f.mb + 2 ^ (f.mb - 1) else 2 ^ (f.eb + f.mb) - 1
def Fmt.signBit (f : Fmt) : Nat := 2 ^ (f.eb + f.mb)

/-- An exact floating value: (−1)^s × m × 2^e when finite. -/
inductive FVal where
  | nan
  | inf (s : Bool)
  | fin (s : Bool) (m : Nat) (e : Int)
  deriving DecidableEq, Repr

/-- The exact value of a code. -/
def Fmt.decode (f : Fmt) (c : Nat) : FVal :=
  let s := c / f.signBit % 2 = 1
  let ex := c / 2 ^ f.mb % 2 ^ f.eb
  let m := c % 2 ^ f.mb
  if ex = 2 ^ f.eb - 1 ∧ f.inf then (if m = 0 then .inf s else .nan)
  else if f.inf = false ∧ c % f.signBit = f.infCode then .nan
  else if ex = 0 then .fin s m f.qmin
  else .fin s (m + 2 ^ f.mb) (f.qmin + ex - 1)

/-- m / 2^k to nearest, ties to even. -/
def rneShift (m k : Nat) : Nat :=
  let q := m / 2 ^ k
  let r := 2 * (m % 2 ^ k)
  if r > 2 ^ k then q + 1 else if r < 2 ^ k then q else if q % 2 = 1 then q + 1 else q

/-- num / den to nearest, ties to even. -/
def rneDiv (num den : Nat) : Nat :=
  let q := num / den
  let r := 2 * (num % den)
  if r > den then q + 1 else if r < den then q else if q % 2 = 1 then q + 1 else q

/-- num / den to nearest, ties to even, for a signed numerator. -/
def rneDivInt (num : Int) (den : Nat) : Int :=
  if num < 0 then -(rneDiv num.natAbs den : Int) else (rneDiv num.natAbs den : Int)

/-- Bits of m: the position of its highest one, plus one. -/
def bitLen (m : Nat) : Nat := if m = 0 then 0 else Nat.log2 m + 1

/-- The code of (−1)^s × m × 2^e rounded once to nearest even. Overflow gives infinity, or the largest
finite value where `sat` asks for saturation or the format has no infinity. -/
def Fmt.round (f : Fmt) (sat : Bool) (s : Bool) (m : Nat) (e : Int) : Nat :=
  let sg := if s then f.signBit else 0
  if m = 0 then sg else
  let top : Int := e + bitLen m - 1
  let q : Int := max (top - f.mb) f.qmin
  let m' : Nat := if q ≤ e then m * 2 ^ (e - q).toNat else rneShift m (q - e).toNat
  let code := (q - f.qmin).toNat * 2 ^ f.mb + m'
  if code < f.infCode then sg + code
  else if sat || !f.inf then sg + (f.infCode - 1) else sg + f.infCode

/-- The code of a value; with `sat` a finite value past the largest finite one gives that one, and an infinity
stays (R96). -/
def Fmt.encode (f : Fmt) (sat : Bool) : FVal → Nat
  | .nan => f.nanCode
  | .inf s => (if s then f.signBit else 0) + f.infCode
  | .fin s m e => f.round sat s m e

/-- (−1)^s × m. -/
def sInt (s : Bool) (m : Nat) : Int := if s then -(m : Int) else (m : Int)

/-- Exact sum. A zero sum of unlike signs is +0. -/
def FVal.add : FVal → FVal → FVal
  | .nan, _ => .nan
  | _, .nan => .nan
  | .inf a, .inf b => if a = b then .inf a else .nan
  | .inf a, .fin _ _ _ => .inf a
  | .fin _ _ _, .inf b => .inf b
  | .fin sa ma ea, .fin sb mb eb =>
    if ma = 0 ∧ mb = 0 then .fin (sa && sb) 0 0 else
    let e := min ea eb
    let v := sInt sa ma * (2 ^ (ea - e).toNat : Nat) + sInt sb mb * (2 ^ (eb - e).toNat : Nat)
    .fin (v < 0) v.natAbs e

def FVal.neg : FVal → FVal
  | .nan => .nan
  | .inf s => .inf (!s)
  | .fin s m e => .fin (!s) m e

/-- Exact product. -/
def FVal.mul : FVal → FVal → FVal
  | .nan, _ => .nan
  | _, .nan => .nan
  | .inf a, .inf b => .inf (a != b)
  | .inf a, .fin s m _ => if m = 0 then .nan else .inf (a != s)
  | .fin s m _, .inf b => if m = 0 then .nan else .inf (s != b)
  | .fin sa ma ea, .fin sb mb eb => .fin (sa != sb) (ma * mb) (ea + eb)

/-- Three-way order of finite and infinite values: none when a NaN takes part; zeros are equal. -/
def FVal.cmp : FVal → FVal → Option Ordering
  | .nan, _ => none
  | _, .nan => none
  | .inf a, .inf b => some (if a = b then .eq else if a then .lt else .gt)
  | .inf a, .fin _ _ _ => some (if a then .lt else .gt)
  | .fin _ _ _, .inf b => some (if b then .gt else .lt)
  | .fin sa ma ea, .fin sb mb eb =>
    let e := min ea eb
    let x := sInt sa ma * (2 ^ (ea - e).toNat : Nat)
    let y := sInt sb mb * (2 ^ (eb - e).toNat : Nat)
    some (if x < y then .lt else if x = y then .eq else .gt)

/-- The quotient with two sticky bits below format precision, to be rounded by `encode`. -/
def FVal.div : FVal → FVal → FVal
  | .nan, _ => .nan
  | _, .nan => .nan
  | .inf _, .inf _ => .nan
  | .inf a, .fin s _ _ => .inf (a != s)
  | .fin s _ _, .inf b => .fin (s != b) 0 0
  | .fin sa ma ea, .fin sb mb eb =>
    if mb = 0 then (if ma = 0 then .nan else .inf (sa != sb)) else
    let k := 64 + bitLen mb
    let q := ma * 2 ^ k / mb
    let st := if ma * 2 ^ k % mb = 0 then 0 else 1
    .fin (sa != sb) (2 * q + st) (ea - eb - k - 1)

/-- Integer square root by bisection from the top bit down. -/
def isqrt (n : Nat) : Nat :=
  (List.range (bitLen n / 2 + 1)).foldl
    (fun r i => let b := r + 2 ^ (bitLen n / 2 - i); if b * b ≤ n then b else r) 0

/-- The square root with sticky bits, to be rounded by `encode`. -/
def FVal.sqrt : FVal → FVal
  | .nan => .nan
  | .inf s => if s then .nan else .inf false
  | .fin s m e =>
    if m = 0 then .fin s 0 0
    else if s then .nan
    else
      let k : Nat := 64 + (if (e % 2 = 0) then 0 else 1)
      let n := m * 2 ^ k
      let r := isqrt n
      let st := if r * r = n then 0 else 1
      .fin false (2 * r + st) ((e - k) / 2 - 1)

/-- An integer as a value. -/
def FVal.ofInt (i : Int) : FVal := .fin (i < 0) i.natAbs 0

/-- The value rounded to an integer, ties to even; none for NaN, and infinities by sign through `lim`. -/
def FVal.toInt (lo hi : Int) : FVal → Int
  | .nan => 0
  | .inf s => if s then lo else hi
  | .fin s m e =>
    let a : Nat := if 0 ≤ e then m * 2 ^ e.toNat else rneShift m (-e).toNat
    let v := sInt s a
    if v < lo then lo else if hi < v then hi else v

/-- One FP32 operation on codes: each result rounded once to nearest even. -/
def f32add (a b : Word) : Word := BitVec.ofNat 32 (fp32.encode false ((fp32.decode a.toNat).add (fp32.decode b.toNat)))
def f32sub (a b : Word) : Word := BitVec.ofNat 32 (fp32.encode false ((fp32.decode a.toNat).add (fp32.decode b.toNat).neg))
def f32mul (a b : Word) : Word := BitVec.ofNat 32 (fp32.encode false ((fp32.decode a.toNat).mul (fp32.decode b.toNat)))
def f32div (a b : Word) : Word := BitVec.ofNat 32 (fp32.encode false ((fp32.decode a.toNat).div (fp32.decode b.toNat)))
def f32sqrt (a : Word) : Word := BitVec.ofNat 32 (fp32.encode false (fp32.decode a.toNat).sqrt)
/-- a × b + c with one rounding. -/
def f32fma (a b c : Word) : Word :=
  BitVec.ofNat 32 (fp32.encode false (((fp32.decode a.toNat).mul (fp32.decode b.toNat)).add (fp32.decode c.toNat)))
def f32ofInt (i : Int) : Word := BitVec.ofNat 32 (fp32.encode false (FVal.ofInt i))
def f32isNaN (a : Word) : Bool := decide (fp32.decode a.toNat = .nan)
/-- a < b, false when a NaN takes part. -/
def f32lt (a b : Word) : Bool := decide ((fp32.decode a.toNat).cmp (fp32.decode b.toNat) = some .lt)

/-- e^x for a rational x = n/2^k within ±2^7, as a fraction scaled by 2^96: 48 Taylor terms of x/256,
then eight squarings; the error is far below the half steps it is rounded to (xe.bdec, R49). -/
def expScaled (num : Int) (k : Nat) : Int :=
  let one : Int := 2 ^ 96
  let y : Int := num * 2 ^ 96 / 2 ^ (k + 8)
  let t := (List.range 32).foldl (fun (p : Int × Int) (i : Nat) =>
    let term := p.2 * y / (one * ((i : Int) + 1))
    (p.1 + term, term)) (one, one)
  (List.range 8).foldl (fun a _ => a * a / one) t.1

end Sys2Proof.Machine
end

