-- ==== Sys2Proof/Machine/OpsDram.lean ====
section
/-! DEFINITION. DRAM contents, address decode, and the channel controllers' rules of order (R216–R237). -/

namespace Sys2Proof.Machine
open Sys2Proof

def State.chan (s : State) (c : Nat) : Channel := Table.get Channel.dflt s.channels c
def modChan (c : Nat) (f : Channel → Channel) (s : State) : State :=
  { s with channels := Table.mod Channel.dflt s.channels c f }
def modDrams (f : DramShared → DramShared) (s : State) : State := { s with drams := f s.drams }

/-! ### Address decode (Table 8.1) -/

def dramBytes : Nat := 0x400000000
def chanOf (a : Nat) : Nat := (a / 256 % 32) ^^^ (a / 2 ^ 23 % 32)
def dbankOf (a : Nat) : Nat := (a / 2 ^ 18 % 32) ^^^ (a / 2 ^ 28 % 32)
def rowOf (a : Nat) : Nat := a / 2 ^ 23 % 2048
def colOf (a : Nat) : Nat := a / 2 ^ 13 % 32 * 2 + a / 128 % 2

/-- The address of line `n` of channel `c`, in address order (R234). -/
def chanLine (c n : Nat) : Nat :=
  let hi := n / 2
  hi * 2 ^ 13 + ((c ^^^ (hi / 2 ^ 10 % 32)) * 256) + n % 2 * 128

/-! ### Contents (R218, R233, R237) -/

def chanFailed (s : State) (a : Nat) : Bool := decide ((s.chan (chanOf a)).state = .failed)

/-- The bytes at device address `a` with their poison marks. -/
def dramRead (s : State) (a len : Nat) : List (Byte × Bool) :=
  (upTo len).map fun i =>
    let b := (a + i) % dramBytes
    if chanFailed s b then (Config.failedByte b, true)
    else (Table.get 0 s.dram b, Table.get false s.dramPoison (b / 32))

/-- The bytes alone. -/
def dramBytesAt (s : State) (a len : Nat) : List Byte := (dramRead s a len).map (·.1)
/-- Any byte of a range is poisoned. -/
def dramPoisoned (s : State) (a len : Nat) : Bool := (dramRead s a len).any (·.2)

/-- The poison mark of beat `g` after a store of `data` at `a`: a whole-beat write sets it from its data, a
partial one can only add to it (R233). -/
def beatPoison (old : Bool) (a g : Nat) (data : List (Byte × Bool)) : Bool :=
  let inG := (upTo 32).filterMap (fun i => if a ≤ g * 32 + i then data[g * 32 + i - a]? else none)
  if inG.length = 32 then inG.any (·.2) else old || inG.any (·.2)

/-- Lines that `len` bytes at `a` touch. -/
def linesOf (a len : Nat) : List Nat :=
  if len = 0 then [] else (upTo ((a % 128 + len + 127) / 128)).map (fun i => a / 128 + i)

/-- Write bytes with poison; a line of a FAILED channel is discarded and counted there (R237). -/
def dramWrite (a : Nat) (data : List (Byte × Bool)) (s : State) : State :=
  let s1 := forEach (linesOf a data.length) (fun l s =>
    if chanFailed s (l * 128 % dramBytes) then
      modChan (chanOf (l * 128 % dramBytes)) (fun c => { c with eccUncorr := satAdd c.eccUncorr 1 }) s else s) s
  let ok := fun b => !chanFailed s b
  let dram := (upTo data.length).foldl (fun t i =>
    let b := (a + i) % dramBytes
    if ok b then Table.set 0 t b ((data.getD i (0, false)).1) else t) s.dram
  let beats := if data.length = 0 then [] else (upTo ((a % 32 + data.length + 31) / 32)).map (fun i => a / 32 + i)
  let poison := beats.foldl (fun t g =>
    let k := g % (dramBytes / 32)
    if ok (k * 32) then Table.set false t k (beatPoison (Table.get false t k) a g data) else t) s.dramPoison
  { s1 with dram := dram, dramPoison := poison }

/-- Write clean bytes. -/
def dramPut (a : Nat) (data : List Byte) (s : State) : State := dramWrite a (data.map (fun b => (b, false))) s

/-! ### Targets, urgency, tags (R224, R225, R230) -/

/-- The latency target of a port in ns; none for internal requests (Table 8.4). -/
def portTarget (s : State) (p : Nat) : Option Nat :=
  if p < 8 then some (s.image.portTarget.getD p 0)
  else if p < 40 then some (((regionOf s.image (p - 8)).map (·.dramTarget)).getD 0)
  else none

def urgencyAt (t age : Nat) : Nat :=
  if age ≥ t then 3 else if age ≥ cdiv (3 * t) 4 then 2 else if age ≥ cdiv t 2 then 1 else 0

def urgency (s : State) (r : DReq) : Nat :=
  match portTarget s r.port with
  | none => 0
  | some t => urgencyAt t (s.now - r.at_)

/-- Count the age that a request has at cycle `cycle`, when it finishes, against its port (R225). -/
def countAge (r : DReq) (cycle : Nat) (s : State) : State :=
  match portTarget s r.port with
  | none => s
  | some t =>
    let age := cycle - r.at_
    modDrams (fun d => { d with
      overdue := if age ≥ t then Table.mod 0 d.overdue r.port (fun v => satAdd v 1) else d.overdue
      maxLat := Table.mod 0 d.maxLat r.port (fun v => satNat 32 (max v.toNat age)) }) s

/-! ### The command a request needs next and whether it is legal (R219, R221, R226) -/

inductive DCmd where
  | activate
  | precharge
  | readCol
  | writeCol
  deriving DecidableEq, Repr

def Channel.bank (c : Channel) (b : Nat) : DBank := Table.get DBank.dflt c.banks b
def modDBank (b : Nat) (f : DBank → DBank) (c : Channel) : Channel :=
  { c with banks := Table.mod DBank.dflt c.banks b f }

def nextCmd (c : Channel) (r : DReq) : DCmd :=
  match (c.bank (dbankOf r.addr)).row with
  | none => .activate
  | some w => if w ≠ rowOf r.addr then .precharge
      else if r.write ∧ (r.rmw = false ∨ r.readDone = true) then .writeCol else .readCol

/-- `n` cycles have passed since `t`. -/
def after (now : Nat) (t : Option Nat) (n : Nat) : Bool :=
  match t with
  | none => true
  | some t => decide (t + n ≤ now)

/-- `n` cycles or more are left before the next window. -/
def beforeWindow (s : State) (n : Nat) : Bool :=
  match s.drams.next with
  | none => true
  | some r => decide (s.now + n < r ∨ r ≤ s.now)

/-- The fence of Table 8.3 allows the command. -/
def fenceOk (s : State) : DCmd → Bool
  | .activate => beforeWindow s 33
  | .readCol => beforeWindow s 6
  | .writeCol => beforeWindow s 28
  | .precharge => true

/-- Table 8.2 allows the command. -/
def timingOk (s : State) (c : Channel) (r : DReq) (k : DCmd) : Bool :=
  let b := c.bank (dbankOf r.addr)
  let now := s.now
  let col := after now (Table.get none c.colGroup (dbankOf r.addr / 4)) 4 &&
    after now c.colAny 2 && after now b.act 14
  match k with
  | .activate => after now b.pre 14 && after now b.act 47 && after now c.acts.head? 2 && after now c.acts[3]? 16
  | .precharge => after now b.act 33 && after now b.read 6 && after now b.wrEnd 16
  | .readCol => col && after now c.lastWrEnd 8
  | .writeCol => col && after now c.lastRead 4

/-- The requests in a channel's queues, oldest first (R226). -/
def Channel.requests (c : Channel) : List DReq := sortBy (·.at_) (sortBy (·.id) (c.reads ++ c.writes))

/-- The request a bank must serve next under the hit cap: the oldest to another row (R226). -/
def capped (c : Channel) (b : Nat) : Option DReq :=
  let k := c.bank b
  if k.hits < 16 then none
  else ((c.requests.filter (fun r => decide (dbankOf r.addr = b ∧ some (rowOf r.addr) ≠ k.row)))).head?

/-- The bank's holder, else the hit cap, and same-line write order let the request go (R218, R226, R228). -/
def allowed (c : Channel) (r : DReq) : Bool :=
  let b := dbankOf r.addr
  (match (c.bank b).holder, capped c b with
    | some i, _ => decide (i = r.id)
    | none, some q => decide (q.id = r.id)
    | none, none => true) &&
  (!r.write || c.writes.all (fun w => decide (w.addr / 128 ≠ r.addr / 128 ∨ r.id ≤ w.id)))

/-- Rank of a request in the order of R226; smaller goes first. The precharge that the hit cap asks for goes before all. -/
def rank (s : State) (c : Channel) (r : DReq) : Nat :=
  if nextCmd c r = .precharge ∧ (capped c (dbankOf r.addr)).isSome = true then 0 else 1 +
  let u := urgency s r
  let cls := if c.drain then (if !r.write && decide (u ≥ 2) then 0 else if r.write then 1 else 2) else 0
  let hit := decide (nextCmd c r = .readCol ∨ nextCmd c r = .writeCol)
  (cls * 4 + (3 - u)) * 2 + (if hit then 0 else 1)

/-- The request whose command issues this cycle (R226). -/
def pick (s : State) (c : Channel) : Option DReq :=
  let legal := c.requests.filter (fun r => allowed c r && timingOk s c r (nextCmd c r) && fenceOk s (nextCmd c r))
  (sortBy (rank s c) legal).head?

/-! ### Queues (R226–R228) -/

/-- The page hint a requester sends (R229): the cave loader keeps rows open, fetch engines keep or close them, decode cores
use any, every other requester the default. Code 11 acts as 00. -/
def pageHint (port hint : Nat) : Nat :=
  if port = 7 then 1
  else if 8 ≤ port ∧ port < 40 then (if hint = 1 then 1 else 2)
  else if port = 0 ∧ hint ≠ 3 then hint else 0

/-- The controller's own request. -/
def DReq.internal (id a len now : Nat) : DReq :=
  { id := id, port := 40, addr := a, len := len, write := true, rmw := false, readDone := false, hint := 0, bulk := false
    came := now, at_ := now, data := [], beats := [], sawRetrain := false, sawRefresh := false, missed := false
    patrol := false, found := [] }

/-- The delay tag of a response (R230, Table 2.9): `corrected` says that a correction touched what it returns. -/
def DReq.delayTag (r : DReq) (corrected : Bool) : Nat :=
  if r.sawRetrain then 3 else if r.sawRefresh then 2 else if corrected then 1 else 15

/-- A response to a request. -/
def DReq.answer (r : DReq) (data : List (Byte × Bool)) (tag : Nat) : DResp :=
  { port := r.port, addr := r.addr, write := r.write, data := data, tag := tag, held := r.at_ - r.came }

/-- Request `r` leaves the router for its queue (R227, R228, R230). A write is acknowledged, and from now on its bytes are
what reads return. -/
def enterQueue (c : Nat) (r : DReq) (s : State) : State :=
  let k := s.chan c
  let q := { r with
    at_ := s.now, data := [], sawRefresh := s.drams.window
    sawRetrain := decide (k.state = .retraining ∨ k.state = .fullRetrain) }
  let s := modChan c (fun k => { k with
    router := k.router.filter (fun x => decide (x.id ≠ r.id))
    reads := if r.write then k.reads else k.reads ++ [q]
    writes := if r.write then k.writes ++ [q] else k.writes
    output := if r.write ∧ r.port < 40 then k.output ++ [q.answer [] (q.delayTag false)] else k.output }) s
  if r.write then dramWrite r.addr r.data s else s

/-- The high-water marks and the write drain follow the queues (R226, Table 8.11). -/
def Channel.settle (c : Channel) : Channel :=
  { c with
    rqHwm := max c.rqHwm c.reads.length, wqHwm := max c.wqHwm c.writes.length
    drain := if c.writes.length ≥ 24 then true else if c.writes.length ≤ 8 then false else c.drain }

/-- Requests enter from the router in order, each kind while its queue has room. `fuel` is their number. -/
def letInFuel : Nat → Nat → State → State
  | 0, _, s => s
  | fuel + 1, c, s =>
    match (s.chan c).router.find? (fun r => decide (if r.write then (s.chan c).writes.length < 32 else (s.chan c).reads.length < 64)) with
    | none => s
    | some r => letInFuel fuel c (enterQueue c r s)
def letIn (c : Nat) (s : State) : State := modChan c Channel.settle (letInFuel (s.chan c).router.length c s)

/-- Some byte of [a, a + len) lies in what a queued write covers. -/
def DReq.touches (w : DReq) (a len : Nat) : Bool :=
  if w.beats = [] then decide (w.addr < a + len ∧ a < w.addr + w.len)
  else w.beats.any (fun b => decide (w.addr / 128 * 128 + 32 * b < a + len ∧ a < w.addr / 128 * 128 + 32 * b + 32))

/-- A queued write covers some byte of a read. -/
def overlaps (c : Channel) (a len : Nat) : Bool := c.writes.any (fun w => w.touches a len)

/-- Beat `i` of the line at `a` lies whole in a queued write. -/
def beatQueued (c : Channel) (a i : Nat) : Bool :=
  let b := a / 128 * 128 + 32 * i
  c.writes.any (fun w => if w.beats = [] then decide (w.addr ≤ b ∧ b + 32 ≤ w.addr + w.len)
    else decide (w.addr / 128 = a / 128 ∧ i ∈ w.beats))

/-- Beats of the line at `a` that a waiting write-back serves: a read finds no error in them (R231). -/
def beatsServed (c : Channel) (a : Nat) : List Nat :=
  (upTo 4).filter (fun i => c.writes.any (fun w => decide (w.addr / 128 = a / 128 ∧ i ∈ w.beats)))

/-- Place an internal write-back of beats of a line if the write queue has room; answers whether it had (R231, R232). -/
def writeBack (c a : Nat) (beats : List Nat) (s : State) : Bool × State :=
  let k := s.chan c
  if beats = [] ∨ 32 ≤ k.writes.length then (false, s)
  else (true, modChan c (fun k => Channel.settle { k with
    nextId := k.nextId + 1
    writes := k.writes ++ [{ DReq.internal k.nextId (a / 128 * 128) 128 s.now with beats := beats }] }) s)

/-! ### Channel states (Table 8.5) -/

/-- What a read of a FAILED channel returns (R237). -/
def poisonedLine (a len : Nat) : List (Byte × Bool) := (upTo len).map (fun i => (Config.failedByte (a + i), true))

/-- A channel fails: the reads it holds complete poisoned; the writes still in the router are acknowledged, discarded and
counted (R237). -/
def chanFail (c attempts : Nat) (s : State) : State :=
  let s := modChan c (fun k => { k with
    state := .failed, attempt := 0, latched := false, reads := [], writes := [], router := [], flight := [], banks := []
    output := ((k.flight.map (·.req)).filter (fun r => !r.write && !r.patrol) ++ (k.reads ++ k.router).filter (fun r => !r.patrol)).map (fun r =>
      r.answer (if r.write then [] else poisonedLine r.addr r.len) (r.delayTag false))
    eccUncorr := satAdd k.eccUncorr (k.router.filter (·.write)).length }) s
  let s := modSoot (fun t => { t with channelFailed := t.channelFailed ||| BitVec.ofNat 32 (2 ^ c) }) s
  let s := record 0x0503 9 c (BitVec.ofNat 64 attempts) s
  postStatus { status := 0x0B03, kind := 9, id := c } s

/-- Enter FULL_RETRAIN for a cause: 1 margin, 2 corrected beats, 3 host. Rows close; a read-modify-write keeps its bank. -/
def fullRetrain (c cause : Nat) (s : State) : State :=
  let s := modChan c (fun k => { k with
    state := .fullRetrain, attempt := 1, since := s.now, winCorr := 0, due := false, armed := false
    banks := Table.remap DBank.dflt (fun _ b => { DBank.dflt with holder := b.holder }) k.banks
    reads := k.reads.map (fun r => { r with sawRetrain := true })
    writes := k.writes.map (fun r => { r with sawRetrain := true }) }) s
  record 0x0502 9 c (BitVec.ofNat 64 cause) s

/-- Enter ONLINE: the count window starts, the first ONLINE starts the refresh schedule, a latched request acts. -/
def chanOnline (c : Nat) (s : State) : State :=
  let s := modDrams (fun d => { d with next := (d.next.getD (s.now + 3900)) |> some }) s
  let l := (s.chan c).latched
  let s := modChan c (fun k => { k with state := .online, attempt := 0, winCorr := 0, latched := false }) s
  if l then fullRetrain c 3 s else s

/-! ### Errors found by a read (R231, R232, R475) -/

/-- An error of one beat of a line: beat, its first symbol, and whether two or more symbols are wrong; in beat order. -/
def beatErrors (errs : List (Fin 4 × Fin 36 × Bool)) : List (Nat × Nat × Bool) :=
  sortBy (·.1) (errs.map (fun e => (e.1.val, e.2.1.val, e.2.2)))

/-- Errors that a read meets: not in beats that a waiting write-back serves, nor in those that hold the stored-poison
pattern. -/
def DFlight.errors (f : DFlight) (errs : List (Nat × Nat × Bool)) : List (Nat × Nat × Bool) :=
  sortBy (·.1) ((errs ++ f.req.found).filter (fun e => decide (e.1 ∉ f.clean ∧ e.1 ∉ f.bad)))

/-- The read returns some byte of beat `i` of its line. -/
def DReq.returns (r : DReq) (i : Nat) : Bool :=
  decide (r.addr / 128 * 128 + 32 * i < r.addr + r.len ∧ r.addr < r.addr / 128 * 128 + 32 * i + 32)

/-- A correction shows in what the read returns (R230). -/
def DFlight.corrected (f : DFlight) (es : List (Nat × Nat × Bool)) : Bool := es.any (fun e => e.2.2 || f.req.returns e.1)

/-- A line with errors is counted, recorded and written back; a line that holds the stored-poison pattern records
nothing (R231, R232, R475). -/
def findErrors (c : Nat) (f : DFlight) (es : List (Nat × Nat × Bool)) (s : State) : State :=
  let k := s.chan c
  let r := f.req
  let line := r.addr / 128 * 128
  let loud := decide (f.bad = [])
  let (pp, s) := if r.patrol then draw 6 s else (BitVec.ofNat 6 r.port, s)
  let port := pp.toNat % 40
  match es, es.find? (·.2.2) with
  | [], _ => s
  | _, some e =>
    let info : Word := pack 32 [(31, 1), (30, 1), (22, e.1), (16, 0x3F), (6, b2n r.patrol), (0, port)]
    let (d, s) := draw 1024 s
    let s := modChan c (fun k => { k with
      eccUncorr := satAdd k.eccUncorr 1, lastAddr := if loud then BitVec.ofNat 64 line else k.lastAddr
      lastInfo := if loud then info else k.lastInfo }) s
    let (room, s) := writeBack c line (upTo 4) s
    let s := if room then dramWrite line ((toBytes d 128).map (fun b => (b, true))) s else s
    let s := modSoot (fun t => { t with dramUncorr := Table.mod 0 t.dramUncorr c (fun v => satAdd v 1) }) s
    let s := if loud then record 0x0501 9 c (BitVec.ofNat 64 (line + (if r.patrol then 2 ^ 63 else 0))) s else s
    if r.patrol then s else postStatus { status := 0x0B02, kind := 9, id := c } s
  | e :: _, none =>
    let n := es.length
    let info : Word := pack 32 [(31, 1), (22, e.1), (16, e.2.1), (6, b2n r.patrol), (0, port)]
    let s := modChan c (fun k => { k with
      eccCorr := satAdd k.eccCorr n, winCorr := k.winCorr + n, lastInfo := if loud then info else k.lastInfo }) s
    let s := (writeBack c line ((es.map (·.1)).filter (fun i => !beatQueued k line i)) s).2
    let s := modSoot (fun t => { t with dramCorr := Table.mod 0 t.dramCorr c (fun v => satAdd v n) }) s
    if k.state = .online ∧ k.winCorr + n > 64 then fullRetrain c 2 s else s

end Sys2Proof.Machine
end

