-- ==== Sys2Proof/Machine/OpsHearth.lean ====
section
/-! DEFINITION. What happens to a hearth as a whole: faults and removal (R61, R409), scrub and march (R130,
R131, R149–R152), draining and breaking flues (R56). -/

namespace Sys2Proof.Machine
open Sys2Proof

/-- Flue ports of a table with their numbers. -/
def boundPorts (t : Table FluePort) : List (Nat × FluePort) := t.filter (·.2.valid)

/-- Both ends of the flue at outbound port `p` of hearth `h`, changed by `f`. -/
def modFlue (h p : Nat) (f : FluePort → FluePort) (s : State) : State :=
  let o := (s.hearth h).outPort p
  modIn o.peer o.peerPort f (modOut h p f s)

/-- Cores of hearth `h` that wait on credits of port `p`. -/
def portWaiters (s : State) (h p : Nat) : Bool :=
  (s.hearth h).cores.any (fun k => match k.2.wait with
    | some (.flueFull q _) => decide (q = p)
    | _ => false)

/-- Cores or passes of hearth `h` that wait on the tail counter of the hoop of inbound port `p`. -/
def hoopWaiters (s : State) (h p : Nat) : Bool :=
  match ((s.hearth h).hoop p).tailCtr with
  | none => false
  | some n =>
    (s.hearth h).cores.any (fun k => match k.2.wait with
      | some (.counter c _ _) => decide (c = n)
      | _ => false) ||
    (s.hearth h).arrs.any (fun a => match a.2.queue.head? with
      | some q => decide ((q.wait.map (·.1)) = some n)
      | none => false)

/-- A live flue becomes BROKEN; any other keeps its state (Table 2.8). -/
def breakFlue (f : FluePort) : FluePort :=
  if f.state = .openF ∨ f.state = .draining then { f with state := .broken } else f

/-- Every OPEN or DRAINING flue with an end in `h` becomes BROKEN, and a waiter at the live end is released into a job
fault (Table 2.8). -/
def breakFlues (h : Nat) (s : State) : State :=
  let s := forEach (boundPorts (s.hearth h).outPorts) (fun p s =>
    let waits := hoopWaiters s p.2.peer p.2.peerPort
    let s := modFlue h p.1 breakFlue s
    if waits then jobFaultTrap p.2.peer 0 s else s) s
  forEach (boundPorts (s.hearth h).inPorts) (fun p s =>
    let waits := portWaiters s p.2.peer p.2.peerPort
    let s := modOut p.2.peer p.2.peerPort breakFlue (modIn h p.1 breakFlue s)
    if waits then jobFaultTrap p.2.peer 0 s else s) s

/-- R142: counters of the vat that hearth `h` has bumped become BROKEN. -/
def breakCounters (h : Nat) (s : State) : State :=
  match vatOf s h with
  | none => s
  | some v => forEach (vatHearths s v) (fun g s => modHearth g (fun x => { x with
      ctrs := Table.remap Ctr.dflt (fun _ k => if bit k.sources h then { k with broken := true } else k) x.ctrs }) s) s

/-- Jobs that a fault of hearth `h` tears down: a job of its vat that is switching or suspended (R408), one
that holds a ladle group at `h` as its home (R59), one with a command for `h` alone (R405). -/
def jobsLost (s : State) (h : Nat) : List Nat :=
  match vatOf s h with
  | none => []
  | some v =>
    ((liveJobs s).filter (fun p => decide (p.2.vat = v) &&
      (decide (p.2.state = .switchingOut ∨ p.2.state = .switchingIn ∨ p.2.state = .suspended) ||
       (s.hearth h).ladles.any (fun l => l.2.valid && decide (l.2.home = h ∧ l.2.job.toNat = p.1)) ||
       (jobCmds s p.1).any (fun c => decide (c.hearths = [h]))))).map (·.1)

/-- Containment of a hearth fault begins (R409). -/
def containHearth (h cause : Nat) (s : State) : State :=
  let s := modSoot (fun t => { t with hearthFaults := Table.mod 0 t.hearthFaults h (fun n => satAdd n 1) }) s
  let lost := jobsLost s h
  let s := modHearth h (fun x => { x with state := .removing, faultCause := cause }) s
  let s := stopCores h s
  let s := breakCounters h (breakFlues h s)
  let s := forEach lost (fun j s => jobFault j 0x0102 0 false s) s
  postStatus { status := 0x0B01, kind := 8, id := h } s

/-- R409: a hearth fault is declared. While Banked it is only recorded, and contained on exit (R408). -/
def hearthFault (h cause : Nat) (s : State) : State :=
  if (s.hearth h).state ≠ .active then s else
  let s := record 0x0301 8 h (BitVec.ofNat 64 cause) s
  if s.power.state = .banked then
    { s with power := { s.power with deferredFaults := s.power.deferredFaults ++ [(h, cause)] } }
  else containHearth h cause s

/-! ### Scrub (R131, R132) -/

/-- The banks that a trigger names and that can be scrubbed: READY ones of the class. -/
def readyBanks (x : Hearth) (p : Bank → Bool) : List Nat :=
  (upTo 32).filter (fun b => decide ((x.bank b).state = .ready) && p (x.bank b))

/-- Start scrubbing `bs` of hearth `h`: behind the bank under way, all the banks left are taken in increasing number. -/
def scrubBanks (h : Nat) (bs : List Nat) (s : State) : State :=
  modHearth h (fun x => { x with
    banks := Table.modAll Bank.dflt x.banks bs (fun _ b => { b with state := .scrubbing })
    scrubLeft := x.scrubLeft.take 1 ++ sortBy id (dedup (x.scrubLeft.drop 1 ++ bs.filter (fun b => decide (b ∉ x.scrubLeft)))) }) s

/-- R132: a kill or teardown that finds a scrub running adds no banks to it. -/
def scrubWorking (h : Nat) (s : State) : State :=
  let x := s.hearth h
  if x.scrubLeft ≠ [] then s else scrubBanks h (readyBanks x (fun b => decide (b.cls = .working))) s

/-- Zero data and clear poison in one bank; rotators let go of its words. -/
def clearBank (b : Nat) (x : Hearth) : Hearth :=
  { x with
    rotator := Table.drop (fun m => decide (bankOf ((Table.get 0 x.rotator m - 1) * 128) = b)) x.rotator
    mem := Table.drop (fun a => decide (bankOf a = b)) x.mem
    poison := Table.drop (fun g => decide (g / 8192 = b)) x.poison
    eccPending := x.eccPending.filter (fun g => decide (g / 8192 ≠ b)) }

/-- Every granule of a bank poisoned, its tag cleared: a FAILED bank (Table 5.3). -/
def failBank (b : Nat) (x : Hearth) : Hearth :=
  let p := Table.drop (fun g => decide (g / 8192 = b)) x.poison
  { x with
    poison := (upTo 8192).foldr (fun i p => Table.set false p (b * 8192 + i) true) p
    banks := Table.mod Bank.dflt x.banks b (fun k => { k with state := .failed, tag := none }) }

/-! ### TESTING (R61, R470) -/

/-- The tiling firmware that the mantel loads into an HCC's private memory: the part of the running slot's package that holds
it, which the manual does not place (assumption log 73). -/
def hccFirmware (s : State) : List Byte :=
  Config.hccSection (if s.boot.active = 0 then s.boot.slotA else s.boot.slotB).data

/-- Entry to TESTING: the hearth's engines are reset and the destructive march starts on every bank. -/
def enterTesting (h : Nat) (s : State) : State :=
  modHearth h (fun x => { x with
    state := .testing, heartbeat := 0, cores := [], arrs := [], ladles := [], ctrs := [], scrubLeft := [], rotator := []
    hccMem := hccFirmware s
    banks := Table.modAll Bank.dflt x.banks (upTo 32) (fun _ b => { b with state := .testing })
    march := { March.dflt with running := true } }) s

/-! ### Flue drains (R56) -/

/-- Every OPEN flue of the vat starts draining. -/
def drainFlues (v : Nat) (s : State) : State :=
  forEach (vatHearths s v) (fun h s =>
    forEach (boundPorts (s.hearth h).outPorts) (fun p s =>
      if p.2.state = .openF then modFlue h p.1 (fun f => { f with state := .draining }) s else s) s) s

/-- The oldest flit lands whole in the receive hoop and TAIL advances by one, with the flit's delay tag or what it met on
its way (R54, R60, R147); one whose flue is BROKEN is discarded with the hearth it came from. -/
def landFlit (h port tag : Nat) (s : State) : State :=
  let o := (s.hearth h).outPort port
  match o.flight with
  | [] => s
  | (flit, poison, own) :: rest =>
    let s := modOut h port (fun f => { f with flight := rest }) s
    if o.state = .broken ∨ o.state = .closed then s else
    let k := (s.hearth o.peer).hoop o.peerPort
    let a := k.base + k.tail.toNat % max k.size 1 * 64
    let s := spmWrite o.peer a (agentOf s o.peer) ((toBytes flit 64).map (fun b => (b, poison))) s
    let s := modHoop o.peer o.peerPort (fun k => { k with tail := k.tail + 1 }) s
    servePort h port (launchFlit h port (bumpOpt o.peer k.tailCtr 1 (some h) (worseTag own tag) s))

/-- A drained flue opens again: its hoop is emptied, its credits are the depth (R56, R147), and a flit that waited for a
credit leaves; a slot not yet launched is kept (assumption log 71). -/
def flueDrained (h port : Nat) (s : State) : State :=
  let o := (s.hearth h).outPort port
  let s := modHoop o.peer o.peerPort (fun k => { k with head := k.tail }) s
  let s := modIn o.peer o.peerPort (fun f => { f with state := .openF, credits := 0, creditTags := [] }) s
  servePort h port (launchFlit h port (modOut h port (fun f => { f with state := .openF, credits := f.depth }) s))

/-- Land a number of flits of one port. -/
def landFlits : Nat → Nat → Nat → State → State
  | 0, _, _, s => s
  | n + 1, h, port, s => landFlits n h port (landFlit h port 15 s)

/-- Every flue of the vat drains: its launched flits land, then it opens again (R56). -/
def flushFlues (v : Nat) (s : State) : State :=
  forEach (vatHearths s v) (fun h s =>
    forEach (boundPorts (s.hearth h).outPorts) (fun p s =>
      if p.2.state = .openF ∨ p.2.state = .draining then
        flueDrained h p.1 (landFlits ((s.hearth h).outPort p.1).flight.length h p.1 s)
      else s) s) s

/-- BROKEN flues are CLOSED by a vat reset (Table 2.8). -/
def closeBroken (v : Nat) (s : State) : State :=
  let f := fun (p : FluePort) => if p.state = .broken then { p with state := .closed, flight := [] } else p
  forEach (vatHearths s v) (fun h s => modHearth h (fun x => { x with
    outPorts := Table.remap FluePort.dflt (fun _ p => f p) x.outPorts, inPorts := Table.remap FluePort.dflt (fun _ p => f p) x.inPorts }) s) s

/-- Every store in flight of the vat's cores lands (R334 step 2, R338 step 3). -/
def landStores (v : Nat) (s : State) : State :=
  forEach (vatHearths s v) (fun h s =>
    forEach (s.hearth h).cores (fun k s =>
      let s := forEach k.2.stores (fun f s => landFlight h k.1 f 15 s) s
      modCore h k.1 (fun c => { c with stores := [] }) s) s) s

/-! ### Re-issue (R59, R409) -/

/-- Cut a sorted list into `k` shares of consecutive members, larger ones first. -/
def shares (k : Nat) (l : List Nat) : List (List Nat) :=
  let q := l.length / max k 1
  let r := l.length % max k 1
  (upTo k).map (fun i =>
    let start := i * q + min i r
    (l.drop start).take (q + (if i < r then 1 else 0)))

/-- Indices of ladle group `l` to run again: bit 0, in no surviving queue, held by no survivor (R59). -/
def lostIndices (s : State) (home l : Nat) (survivors : List Nat) : List Nat :=
  let d := (s.hearth home).ladle l
  (upTo d.total).filterMap (fun k =>
    let i := d.base + k
    let byte := Table.get 0 (s.hearth home).mem ((d.bitmap + k / 8) % spmBytes)
    if bit byte (k % 8) then none
    else if survivors.any (fun g =>
        let e := (s.hearth g).ladle l
        decide (e.head ≤ i ∧ i < e.tail) || decide (i ∈ e.held)) then none
    else some i)

/-- Survivors that hold a ladle of the group: receivers of the owning command (R59). -/
def groupSurvivors (s : State) (v l : Nat) : List Nat :=
  let d := (s.hearth (homeHearth s v)).ladle l
  let rs := ((findCmd s d.job.toNat d.seq).map (·.hearths)).getD []
  (activeHearths s v).filter (fun g => decide (g ∈ rs) && ((s.hearth g).ladle l).valid)

/-- The surviving HCCs place the collected indices as pending ranges, in vat-local order (R409). -/
def reissueGroup (v l : Nat) (s : State) : State :=
  let home := homeHearth s v
  let sv := groupSurvivors s v l
  if !((s.hearth home).ladle l).valid || decide ((s.hearth home).state ≠ .active) then s else
  let sh := shares sv.length (lostIndices s home l sv)
  forEach (upTo sv.length) (fun k s =>
    let g := sv.getD k 0
    match sh.getD k [] with
    | [] => modLadle g l (fun d => { d with pending := none }) s
    | i :: is => modLadle g l (fun d => { d with pending := some (i, (i :: is).getLastD i + 1) }) s) s

/-- Commands no longer wait for hearth `h`, which has gone. -/
def dropHearthParts (h : Nat) (s : State) : State :=
  { s with cmds := s.cmds.map (fun c => { c with
      hearths := c.hearths.filter (· ≠ h), partsLeft := c.partsLeft.filter (· ≠ h), cores := c.cores.filter (fun p => decide (p.1 ≠ h)) }) }

end Sys2Proof.Machine
end

