-- ==== Sys2Proof/Machine/OpsArray.lean ====
section
/-! DEFINITION. The arithmetic of the matrix arrays and of the drain (R66, R76–R88, R93–R103). -/

namespace Sys2Proof.Machine
open Sys2Proof

/-- Bytes with their poison marks. -/
abbrev Marked := List (Byte × Bool)

def Hearth.arr (x : Hearth) (a : Nat) : Arr := Table.get Arr.dflt x.arrs a
def modArr (h a : Nat) (f : Arr → Arr) (s : State) : State :=
  modHearth h (fun x => { x with arrs := Table.mod Arr.dflt x.arrs a f }) s

/-- R471: every entry of the hearth's accumulator memories reads +0.0, clean. -/
def clearAcc (h : Nat) (s : State) : State :=
  modHearth h (fun x => { x with arrs := Table.remap Arr.dflt (fun _ a => { a with acc := [] }) x.arrs }) s

/-! ### Operand modes (Tables 3.1 and 3.2) -/

/-- MODE: 0 INT8, 1 BELL, 2 BF16, 3 FP8 E4M3, 4 FP8 E5M2. -/
def intMode (m : Nat) : Bool := decide (m < 2)
/-- G of the GROUP field; 128 in BF16 and FP8. -/
def groupRows (m g : Nat) : Nat := if intMode m then 32 * 2 ^ g else 128
/-- P, the rescale points of a column. -/
def groupCount (m g : Nat) : Nat := 128 / groupRows m g
def weightRowBytes (m : Nat) : Nat := match m with
  | 1 => 64
  | 2 => 256
  | _ => 128
def scaleBytes (m g : Nat) : Nat := if intMode m then groupCount m g * 256 else 0
def setBytes (m g : Nat) : Nat := 128 * weightRowBytes m + scaleBytes m g
/-- Bytes of an activation element. -/
def actBytes (m : Nat) : Nat := if m = 2 then 2 else 1

/-! ### Feeders (R94, R95, R97) -/

/-- Default bell grid (Table 4.2). -/
def bellDefault : List Int := [-127, -90, -69, -53, -39, -27, -16, -5, 5, 16, 27, 39, 53, 69, 90, 127]

def halfOfInt (i : Int) : Half := BitVec.ofInt 16 i

/-- R95: a BF16 subnormal becomes a zero of its sign. -/
def flushBf16 (c : Nat) : Nat := if c / 128 % 256 = 0 then c / 32768 * 32768 else c

/-- R94: FP8 widened to BF16. -/
def widenFp8 (m c : Nat) : Nat := bf16.encode false ((if m = 3 then e4m3 else e5m2).decode c)

/-- An operand code as the cells take it: an INT8 value, or a BF16 code. -/
def feedCode (m c : Nat) : Half :=
  if intMode m then halfOfInt (BitVec.ofNat 8 c).toInt
  else BitVec.ofNat 16 (flushBf16 (if m = 2 then c else widenFp8 m c))

/-- The bytes of `d` at [i, i+n) as a number, and whether any is poisoned. -/
def markedNat (d : Marked) (i n : Nat) : Nat × Bool :=
  let x := (d.drop i).take n
  (leNat (x.map (·.1)), x.any (·.2))

/-- One shadow row: the codes of 128 columns, masked ones zero, and its poison (R66, R77, R81). -/
def weightRow (m nValid : Nat) (level : Nat → Half) (d : Marked) : List Half × Bool :=
  let one := fun n =>
    if n ≥ nValid then ((0 : Half), false)
    else if m = 1 then
      let (b, p) := markedNat d (n / 2) 1
      (level (if n % 2 = 0 then b % 16 else b / 16), p)
    else
      let (c, p) := markedNat d (n * actBytes m) (actBytes m)
      (feedCode m c, p)
  ((upTo 128).map (fun n => (one n).1), (upTo 128).any (fun n => (one n).2))

/-- A group's scales in FP32; a NaN or infinite one is poison (R100). Masked columns take zero (R77). -/
def scaleRow (nValid : Nat) (d : Marked) : List Word × Bool :=
  let one := fun n =>
    if n ≥ nValid then ((0 : Word), false)
    else
      let (c, p) := markedNat d (2 * n) 2
      (BitVec.ofNat 32 (fp32.encode false (fp16.decode c)), p || decide (c / 1024 % 32 = 31))
  ((upTo 128).map (fun n => (one n).1), (upTo 128).any (fun n => (one n).2))

/-- What the weight feeder writes next: a row, or the scales of the group it has just finished (R69). -/
def WSet.nextIsScale (w : WSet) : Bool :=
  intMode w.mode && decide (w.scales.length < w.rows.length / groupRows w.mode w.group)
def WSet.complete (w : WSet) : Bool :=
  decide (w.rows.length = 128) && (!intMode w.mode || decide (w.scales.length = groupCount w.mode w.group))
/-- Offset and bytes in the set of what is written next. -/
def WSet.nextSpan (w : WSet) : Nat × Nat :=
  if w.nextIsScale then (128 * weightRowBytes w.mode + 256 * w.scales.length, 256)
  else (w.rows.length * weightRowBytes w.mode, weightRowBytes w.mode)
/-- The next write reads memory: rows from K′ on and scales of groups without a valid row do not (R76). -/
def WSet.nextReads (w : WSet) : Bool :=
  if w.nextIsScale then decide (w.scales.length * groupRows w.mode w.group < w.kValid)
  else decide (w.rows.length < w.kValid)
/-- Write the next row or scales from data just read. -/
def WSet.put (level : Nat → Half) (d : Marked) (w : WSet) : WSet :=
  if w.nextIsScale then
    if w.nextReads then
      let (x, p) := scaleRow w.nValid d
      { w with scales := w.scales ++ [x], poison := w.poison || p }
    else { w with scales := w.scales ++ [List.replicate 128 0] }
  else if w.nextReads then
    let (x, p) := weightRow w.mode w.nValid level d
    { w with rows := w.rows ++ [x], poison := w.poison || p }
  else { w with rows := w.rows ++ [List.replicate 128 0] }

/-- A whole set, fed row by row; `rd` reads its bytes at an offset (R69, R76). -/
def feedSet (m g kValid nValid : Nat) (level : Nat → Half) (rd : Nat → Nat → State → Marked × State) (s : State) : WSet × State :=
  (upTo (128 + (if intMode m then groupCount m g else 0))).foldl
    (fun p _ =>
      let (o, n) := p.1.nextSpan
      let (d, s) := if p.1.nextReads then rd o n p.2 else ([], p.2)
      (p.1.put level d, s))
    ({ WSet.empty with mode := m, group := g, kValid := kValid, nValid := nValid }, s)

/-- The elements of one vector: K′ read from bytes, the rest zero (R76), and its poison. -/
def vectorOf (m kValid : Nat) (d : Marked) : List Half × Bool :=
  let one := fun k => markedNat d (k * actBytes m) (actBytes m)
  ((upTo 128).map (fun k => if k < kValid then feedCode m (one k).1 else 0),
   (upTo kValid).any (fun k => (one k).2))

/-! ### Columns (R63, R102, R103) -/

/-- BF16 code as FP32. -/
def bf32 (c : Half) : Word := c.setWidth 32 <<< 16

/-- The column sum of a vector in column `n`: in integer modes group by group, those without a valid row passed over; in
BF16 and FP8 the one group in full, zero rows too (R76, R103). -/
def colSum (w : WSet) (x : List Half) (n : Nat) : Word :=
  let g := groupRows w.mode w.group
  let cell := fun k => (w.rows.getD k []).getD n 0
  if intMode w.mode then
    (upTo (groupCount w.mode w.group)).foldl (fun acc i =>
      if i * g < w.kValid then
        let sum := (upTo g).foldl (fun (t : Int) k => t + (x.getD (i * g + k) 0).toInt * (cell (i * g + k)).toInt) 0
        f32fma (f32ofInt sum) ((w.scales.getD i []).getD n 0) acc
      else acc) 0
  else (upTo 128).foldl (fun acc k => f32fma (bf32 (x.getD k 0)) (bf32 (cell k)) acc) 0

/-- The sums of one vector; masked columns give +0.0 (R77). -/
def passRow (w : WSet) (x : List Half) (poison : Bool) : AccRow :=
  { v := (upTo 128).map (fun n => if n < w.nValid then colSum w x n else 0), p := poison || w.poison }

/-- R78: a row written over or added to an entry. -/
def writeEntry (acc : Bool) (old new : AccRow) : AccRow :=
  if acc then { v := (upTo 128).map (fun n => f32add (old.v.getD n 0) (new.v.getD n 0)), p := old.p || new.p } else new

/-- The entries that a pass of set `w` writes from `base`, of vectors as (tile row, codes, poison) (R78). -/
def writeSums (w : WSet) (acc : Bool) (base : Nat) (fed : List (Nat × List Half × Bool)) (t : Table AccRow) : Table AccRow :=
  fed.foldl (fun t f =>
    let k := (base + f.1) % 1024
    Table.set AccRow.dflt t k (writeEntry acc (Table.get AccRow.dflt t k) (passRow w f.2.1 f.2.2))) t

/-! ### The drain descriptor (Tables 3.6 and 3.7) -/

def opWord (d : List Byte) (i : Nat) : Nat := fieldAt d (2 * i) 2
/-- OP and IMM fields of the ops before END, with their SLOT. -/
def chainOps (d : List Byte) : List (Nat × Nat × Nat) :=
  (((upTo 8).map (fun i => let w := opWord d i; (w / 4096, w / 512 % 8, w % 256)))).takeWhile (fun o => decide (o.1 ≠ 0))
def outType (d : List Byte) : Nat := fieldAt d 24 1 / 8 % 8
def outTarget (d : List Byte) : Nat := fieldAt d 24 1 / 2 % 4
/-- Bytes of an output element. -/
def outSize (t : Nat) : Nat := match t with
  | 0 => 1
  | 1 => 1
  | 2 => 2
  | 3 => 2
  | _ => 4
def descColumns (d : List Byte) : Nat := if fieldAt d 25 1 = 0 then 128 else fieldAt d 25 1
def slotFmt (d : List Byte) (k : Nat) : Nat := fieldAt d 30 2 / 4 ^ k % 4
def slotAddr32 (d : List Byte) (k : Nat) : Nat := fieldAt d (44 + 4 * k) 4
def resStride (d : List Byte) : Nat := fieldAt d 22 2
def bumpEvery (d : List Byte) : Nat := if fieldAt d 28 2 % 2048 = 0 then 1024 else fieldAt d 28 2 % 2048
def bumpEn (d : List Byte) : Bool := decide (fieldAt d 26 1 / 128 = 1)
def rowBase (d : List Byte) : Nat := fieldAt d 32 4
def colBase (d : List Byte) : Nat := fieldAt d 36 2

def vectorOp (op : Nat) : Bool := decide (op ∈ [1, 2, 3, 6])
def residualOp (op : Nat) : Bool := decide (op ∈ [11, 12])

/-- R88: the descriptor makes its command malformed. Of a template, the fields the firmware fills in are not
checked, and TARGET must select scratchpad (R178). -/
def descBad (template : Bool) (d : List Byte) : Bool :=
  let ops := chainOps d
  ops.any (fun o => decide (13 ≤ o.1) || ((vectorOp o.1 || residualOp o.1) && decide (4 < o.2.1)) ||
    (vectorOp o.1 && decide (o.2.1 ≤ 4 ∧ slotFmt d o.2.1 = 3))) ||
  decide (4 < outType d) || decide (1 < outTarget d) || (template && decide (outTarget d = 1)) ||
  (ops.any (fun o => residualOp o.1) && decide (resStride d % 16 ≠ 0)) ||
  (!template && (
    (decide (outTarget d = 0) && decide (fieldAt d 16 4 % 16 ≠ 0 ∨ fieldAt d 20 2 % 16 ≠ 0)) ||
    decide (128 < fieldAt d 25 1) || (bumpEn d && decide (1024 < fieldAt d 28 2 % 2048))))

/-! ### Drain operations (R83–R85) -/

/-- A vector or tensor element in FP32. -/
def slotElem (fmt c : Nat) : Word :=
  match fmt with
  | 0 => BitVec.ofNat 32 (fp32.encode false (fp32.decode c))
  | 1 => BitVec.ofNat 32 (fp32.encode false (bf16.decode c))
  | 2 => BitVec.ofNat 32 (fp32.encode false (fp16.decode c))
  | _ => f32ofInt (BitVec.ofNat 8 c).toInt
def slotElemBytes (fmt : Nat) : Nat := match fmt with
  | 0 => 4
  | 1 => 2
  | 2 => 2
  | _ => 1

def f32nan : Word := 0x7FC00000

/-- max and min of R84: a NaN gives the canonical NaN, and −0.0 is below +0.0. -/
def f32max (a b : Word) : Word :=
  if f32isNaN a || f32isNaN b then f32nan
  else if f32lt a b then b else if f32lt b a then a else if a.msb then b else a
def f32min (a b : Word) : Word :=
  if f32isNaN a || f32isNaN b then f32nan
  else if f32lt a b then a else if f32lt b a then b else if a.msb then a else b

def reluLane (x : Word) : Word := if f32isNaN x then f32nan else if x.msb then 0 else x
/-- x if x ≥ 0, else x × IMM / 256. -/
def leakyLane (imm : Nat) (x : Word) : Word :=
  if f32isNaN x then f32nan
  else if f32lt x 0 then f32mul x (BitVec.ofNat 32 (fp32.encode false (.fin false imm (-8)))) else x
def clampLane (lo hi x : Word) : Word := f32min (f32max x lo) hi

/-- One, in 96-bit fixed point. -/
def fxOne : Int := 2 ^ 96
/-- A finite FP32 value in 96-bit fixed point. -/
def fxOf (c : Word) : Int :=
  match fp32.decode c.toNat with
  | .fin s m e => sInt s (if 0 ≤ e + 96 then m * 2 ^ (e + 96).toNat else m / 2 ^ (-(e + 96)).toNat)
  | _ => 0
def fxRound (v : Int) : Word := BitVec.ofNat 32 (fp32.encode false (.fin (v < 0) v.natAbs (-96)))
/-- The logistic function in fixed point. -/
def fxSigmoid (y : Int) : Int :=
  if 64 * fxOne < y then fxOne else if y < -64 * fxOne then 0
  else fxOne * fxOne / (fxOne + expScaled (-y) 96)
/-- The exact function of Table 3.7 in fixed point: 7 SIGMOID, 8 TANH, 9 SILU, 10 GELU. -/
def fxSpecial (op : Nat) (x : Int) : Int :=
  match op with
  | 7 => fxSigmoid x
  | 8 => 2 * fxSigmoid (2 * x) - fxOne
  | 9 => x * fxSigmoid x / fxOne
  | _ =>
    let t := 79788456 * (x + 44715 * x * x * x / (1000000 * fxOne * fxOne)) / 100000000
    x * fxSigmoid (2 * t) / fxOne
/-- R84: the error allowed for a finite input. -/
def fxBound (op : Nat) (x : Int) : Int :=
  if op ≤ 8 then fxOne / 2 ^ 14 else (fxOne + (x.natAbs : Int)) / 2 ^ 13

/-- SIGMOID, TANH, SILU, GELU: exact at infinities and NaN; for a finite input a free value within the bound of
R84 (assumption log 21). -/
def specialLane (op : Nat) (x : Word) : Word :=
  match fp32.decode x.toNat with
  | .nan => f32nan
  | .inf neg =>
    if op = 7 then (if neg then 0 else 0x3F800000)
    else if op = 8 then (if neg then 0xBF800000 else 0x3F800000)
    else (if neg then 0x80000000 else 0x7F800000)
  | .fin _ _ _ =>
    let r := Config.drainTable op x
    let e := fxSpecial op (fxOf x)
    if (fp32.decode r.toNat != .nan) && decide (r.toNat % 2 ^ 31 < 0x7F800000) && decide ((fxOf r - e).natAbs ≤ fxBound op (fxOf x))
    then r else fxRound e

/-- Conversion to OUT_TYPE (R85, R96), as the bits of the type. -/
def drainConvert (t : Nat) (x : Word) : Nat :=
  let v := fp32.decode x.toNat
  match t with
  | 0 => (BitVec.ofInt 8 (v.toInt (-128) 127)).toNat
  | 1 => (v.toInt 0 255).toNat
  | 2 => bf16.encode true v
  | 3 => fp16.encode true v
  | _ => fp32.encode false v

/-- An operand element: its value and poison. `rd` reads ember-form addresses. -/
def readElem (rd : Nat → Nat → Marked) (fmt base idx : Nat) : Word × Bool :=
  let n := slotElemBytes fmt
  let (c, p) := markedNat (rd (base + idx * n) n) 0 n
  (slotElem fmt c, p)

/-- Apply one op of the chain to the lanes of a row: `row` indexes per-row vectors, `col` is lane 0's index in
per-column ones, `r` the entry's row within the drain. -/
def drainOp (rd : Nat → Nat → Marked) (d : List Byte) (row col r : Nat) (o : Nat × Nat × Nat) (x : List Word × Bool) :
    List Word × Bool :=
  let a := slotAddr32 d o.2.1
  let f := slotFmt d o.2.1
  let byCol := fun (g : Word → Word → Word) (base i0 : Nat) =>
    let es := (upTo x.1.length).map (fun n => readElem rd f base (i0 + n))
    (x.1.zipWith (fun v e => g v e.1) es, x.2 || es.any (·.2))
  match o.1 with
  | 1 =>
    let (v, p) := readElem rd f a row
    (x.1.map (fun y => f32mul y v), x.2 || p)
  | 2 => byCol f32mul a col
  | 3 => byCol f32add a col
  | 4 => (x.1.map reluLane, x.2)
  | 5 => (x.1.map (leakyLane o.2.2), x.2)
  | 6 =>
    let (lo, p) := readElem rd f a 0
    let (hi, q) := readElem rd f a 1
    (x.1.map (clampLane lo hi), x.2 || p || q)
  | 11 => byCol f32add (a + r * resStride d) 0
  | 12 => byCol f32mul (a + r * resStride d) 0
  | op => (x.1.map (specialLane op), x.2)

/-- The operand reads of a row, as (address, bytes), in chain order. -/
def drainReads (d : List Byte) (columns row col r : Nat) : List (Nat × Nat) :=
  (chainOps d).filterMap (fun o =>
    let a := slotAddr32 d o.2.1
    let n := slotElemBytes (slotFmt d o.2.1)
    match o.1 with
    | 1 => some (a + row * n, n)
    | 2 => some (a + col * n, columns * n)
    | 3 => some (a + col * n, columns * n)
    | 6 => some (a, 2 * n)
    | 11 => some (a + r * resStride d, columns * n)
    | 12 => some (a + r * resStride d, columns * n)
    | _ => none)

/-- A finished row: its bytes in OUT_TYPE, and whether it takes poison marks (R81, R82). -/
def drainRow (rd : Nat → Nat → Marked) (d : List Byte) (columns row col r : Nat) (e : AccRow) : List Byte × Bool :=
  let (v, p) := (chainOps d).foldl (fun x o => drainOp rd d row col r o x) (e.v.take columns, e.p)
  let sc : Word := BitVec.ofNat 32 (fieldAt d 40 4)
  let t := outType d
  (v.flatMap (fun x => toBytes (BitVec.ofNat 32 (drainConvert t (f32mul x sc))) (outSize t)), p)

end Sys2Proof.Machine
end

