-- ==== Sys2Proof/Machine/OpsPool.lean ====
section
/-! DEFINITION. The streams' blocks, their groups, and the buffer pools of chapter 13 (R344–R349). -/

namespace Sys2Proof.Machine
open Sys2Proof

/-! ### Access to the streams' side of the state -/

def modMedia (f : Media → Media) (s : State) : State := { s with media := f s.media }
def State.ses (s : State) (i : Nat) : Session := Table.get Session.dflt s.media.sessions i
def modSes (i : Nat) (f : Session → Session) (s : State) : State :=
  modMedia (fun m => { m with sessions := Table.mod Session.dflt m.sessions i f }) s
def State.dec (s : State) (i : Nat) : Decoder := Table.get Decoder.dflt s.media.decoders i
def modDec (i : Nat) (f : Decoder → Decoder) (s : State) : State :=
  modMedia (fun m => { m with decoders := Table.mod Decoder.dflt m.decoders i f }) s
def State.enc (s : State) (i : Nat) : Encoder := Table.get Encoder.dflt s.media.encoders i
def modEnc (i : Nat) (f : Encoder → Encoder) (s : State) : State :=
  modMedia (fun m => { m with encoders := Table.mod Encoder.dflt m.encoders i f }) s
def State.scl (s : State) (i : Nat) : Scaler := Table.get Scaler.dflt s.media.scalers i
def modScl (i : Nat) (f : Scaler → Scaler) (s : State) : State :=
  modMedia (fun m => { m with scalers := Table.mod Scaler.dflt m.scalers i f }) s
def State.grp (s : State) (i : Nat) : GroupIn := Table.get GroupIn.dflt s.media.groups i
def modGrp (i : Nat) (f : GroupIn → GroupIn) (s : State) : State :=
  modMedia (fun m => { m with groups := Table.mod GroupIn.dflt m.groups i f }) s
def State.sns (s : State) (i : Nat) : Sensor := Table.get Sensor.dflt s.media.sensors i
def modSns (i : Nat) (f : Sensor → Sensor) (s : State) : State :=
  modMedia (fun m => { m with sensors := Table.mod Sensor.dflt m.sensors i f }) s
def State.rcv (s : State) (i : Nat) : Receiver := Table.get Receiver.dflt s.media.receivers i
def modRcv (i : Nat) (f : Receiver → Receiver) (s : State) : State :=
  modMedia (fun m => { m with receivers := Table.mod Receiver.dflt m.receivers i f }) s
def State.alignSet (s : State) (i : Nat) : AlignSet := Table.get AlignSet.dflt s.media.sets i
def modSet (i : Nat) (f : AlignSet → AlignSet) (s : State) : State :=
  modMedia (fun m => { m with sets := Table.mod AlignSet.dflt m.sets i f }) s
def State.bkt (s : State) (i : Nat) : Bucket := Table.get Bucket.dflt s.media.buckets i
def modBkt (i : Nat) (f : Bucket → Bucket) (s : State) : State :=
  modMedia (fun m => { m with buckets := Table.mod Bucket.dflt m.buckets i f }) s
def State.asm (s : State) (i : Nat) : AsmSource := Table.get AsmSource.dflt s.media.asm i
def modAsm (i : Nat) (f : AsmSource → AsmSource) (s : State) : State :=
  modMedia (fun m => { m with asm := Table.mod AsmSource.dflt m.asm i f }) s
def State.pool (s : State) (g : Nat) : Pool := Table.get Pool.dflt s.media.pools g
def modPool (g : Nat) (f : Pool → Pool) (s : State) : State :=
  modMedia (fun m => { m with pools := Table.mod Pool.dflt m.pools g f }) s

/-! ### Groups, classes, partitions (R198, R202) -/

/-- Bytes of one DRAM unit. -/
def unitBytes : Nat := 0x1000000

/-- The GROUPS record of a group of the applied image. -/
def groupOf (s : State) (g : Nat) : Option GroupRec :=
  firstSome (fun r => ((s.image.regions.getD r ⟨0, 0, 0, 0, 0, [], [], [], []⟩).groups.find? (fun x => x.group = g)))
    (upTo s.image.regions.length)
/-- The group that the applied image gives decode core `d`, and scaler `k`. -/
def groupOfDecoder (s : State) (d : Nat) : Option Nat :=
  ((s.image.regions.flatMap (·.groups)).find? (fun g => g.decoders / 2 ^ d % 2 = 1)).map (·.group)
def groupOfScaler (s : State) (k : Nat) : Option Nat :=
  ((s.image.regions.flatMap (·.groups)).find? (fun g => g.scalers / 2 ^ k % 2 = 1)).map (·.group)
/-- The group's region is being reloaded: its decode cores have paused (R211). -/
def groupPaused (s : State) (g : Nat) : Bool :=
  decide (s.reload.state = .quiescing ∨ s.reload.state = .applying) && decide ((groupOf s g).map (·.vat) = some s.reload.region)
/-- The stream-class record of class `c`. -/
def classOf (s : State) (c : Nat) : Option ClassRec := s.image.classes.find? (fun x => x.cls = c)
/-- Device address of a group's partition, and its bytes. -/
def groupBase (s : State) (g : Nat) : Nat := ((groupOf s g).map (fun r => r.dramBase * unitBytes)).getD 0
def groupBytes (s : State) (g : Nat) : Nat := ((groupOf s g).map (fun r => r.dramUnits * unitBytes)).getD 0

/-- Source-independent fields of a session's configuration (Table 9.12). -/
def Session.group (x : Session) : Nat := bits x.cfg 20 16
def Session.cls (x : Session) : Nat := bits x.cfg 11 8
def Session.h265 (x : Session) : Bool := bit x.cfg 0

/-- F(c) of R244. -/
def frameBytes (r : ClassRec) : Nat :=
  cdiv (3 * (r.maxLuma * (if r.bitDepth = 8 then 1 else 2) + 255 * r.maxHeight)) 8192 * 4096

/-! ### Size classes and use (R344, R346) -/

def bpmOff (g : Nat) : Nat := bpmBase + g * 0x40
def classCount (s : State) (g k : Nat) : Nat := bits (cfgGet s (bpmOff g + 8 + 4 * k)) 31 20
def classSize (s : State) (g k : Nat) : Nat := bits (cfgGet s (bpmOff g + 8 + 4 * k)) 15 0 * 4096
/-- POOL_BASE: bits [39:12] of the register. -/
def poolBase (s : State) (g : Nat) : Nat := (cfgGet64 s (bpmOff g)).toNat % 2 ^ 40 / 4096 * 4096
/-- Offset of the first buffer of class `k` from POOL_BASE. -/
def classOffset (s : State) (g k : Nat) : Nat := ((upTo k).map (fun j => classCount s g j * classSize s g j)).foldl (· + ·) 0
/-- Device address of a buffer. -/
def bufferAddr (s : State) (g k i : Nat) : Nat :=
  (groupBase s g + poolBase s g + classOffset s g k + i * classSize s g k) % dramBytes

/-- The size class a session takes its buffers from (R344); a class of COUNT 0 is none. -/
def sizeClass (s : State) (ses : Nat) : Option Nat :=
  match classOf s (s.ses ses).cls with
  | none => none
  | some r => (upTo 4).find? (fun k =>
      decide (classCount s (s.ses ses).group k > 0 ∧ frameBytes r ≤ classSize s (s.ses ses).group k))

/-- Handle fields (R345). -/
def handleOf (g k i gen : Nat) : Word := pack 32 [(27, g), (25, k), (12, i), (0, gen % 4096)]
def handleGroup (h : Word) : Nat := bits h 31 27
def handleClass (h : Word) : Nat := bits h 26 25
def handleIndex (h : Word) : Nat := bits h 23 12
def handleGen (h : Word) : Nat := bits h 11 0
def handleKey (h : Word) : Nat := handleClass h * 4096 + handleIndex h
def State.buffer (s : State) (h : Word) : Buffer := Table.get Buffer.dflt (s.pool (handleGroup h)).buffers (handleKey h)
def modBuffer (h : Word) (f : Buffer → Buffer) (s : State) : State :=
  modPool (handleGroup h) (fun p => { p with buffers := Table.mod Buffer.dflt p.buffers (handleKey h) f }) s
def handleAddr (s : State) (h : Word) : Nat := bufferAddr s (handleGroup h) (handleClass h) (handleIndex h)

/-- Buffers of group `g` that are not FREE and hold pictures of session `ses` (R346). -/
def sesUse (s : State) (ses : Nat) : Nat :=
  ((s.pool (s.ses ses).group).buffers.filter (fun p => decide (p.2.state ≠ .free ∧ p.2.ses = ses))).length

/-- BPM_SES_QUOTA; 0xFFFF is no quota. -/
def sesQuota (s : State) (ses : Nat) : Option Nat :=
  let q := bits (cfgGet s (bpmBase + 0x1000 + 8 * ses)) 15 0
  if q = 0xFFFF then none else some q
def underQuota (s : State) (ses n : Nat) : Bool :=
  match sesQuota s ses with
  | none => true
  | some q => decide (n < q)
/-- min(FLOOR, quota). -/
def sesFloor (s : State) (ses : Nat) : Nat :=
  let f := ((groupOf s (s.ses ses).group).map (·.floor)).getD 0
  match sesQuota s ses with
  | none => f
  | some q => min f q

/-- Sessions of a group that are not CLOSED and take buffers from class `k`. -/
def classSessions (s : State) (g k : Nat) : List Nat :=
  (upTo 256).filter (fun i => decide ((s.ses i).state ≠ .closed ∧ (s.ses i).group = g ∧ sizeClass s i = some k))

/-- OWED and FREE of a class (R346). -/
def classOwed (s : State) (g k : Nat) : Nat :=
  ((classSessions s g k).map (fun i => sesFloor s i - sesUse s i)).foldl (· + ·) 0
def classFree (s : State) (g k : Nat) : Nat :=
  classCount s g k -
    ((s.pool g).buffers.filter (fun p => decide (p.1 / 4096 = k ∧ p.2.state ≠ .free))).length

/-- A request of the session can be granted now (R346). -/
def grantable (s : State) (ses : Nat) : Bool :=
  let g := (s.ses ses).group
  match sizeClass s ses with
  | none => false
  | some k =>
    let use := sesUse s ses
    let fl := sesFloor s ses
    decide (classFree s g k ≥ 1) && underQuota s ses use &&
      (decide (use < fl) || decide (classFree s g k ≥ 1 + (classOwed s g k - (fl - use))))

/-- Take a FREE buffer of the session's class, the lowest index: FREE to DECODING with GEN advanced. -/
def allocate (ses : Nat) (s : State) : Option (Word × State) :=
  let g := (s.ses ses).group
  (sizeClass s ses).bind fun k =>
    ((upTo (classCount s g k)).find? (fun i =>
      decide ((Table.get Buffer.dflt (s.pool g).buffers (k * 4096 + i)).state = .free))).map fun i =>
      let gen := ((Table.get Buffer.dflt (s.pool g).buffers (k * 4096 + i)).gen + 1) % 4096
      (handleOf g k i gen, modPool g (fun p => { p with
        buffers := Table.set Buffer.dflt p.buffers (k * 4096 + i) { Buffer.dflt with gen := gen, state := .decoding, ses := ses } }) s)

/-- The session's waiting request is granted: its picture may be decoded (R252). -/
def grantWait (ses since : Nat) (s : State) : State :=
  match allocate ses s with
  | none => s
  | some (h, s) =>
    let us := (s.now - since) / 1000
    let s := modPool (s.ses ses).group (fun p => { p with
      waits := p.waits.filter (fun w => w.ses ≠ ses), streak := Table.set 0 p.streak ses 0
      waitMax := if us > p.waitMax.toNat then satNat 32 us else p.waitMax }) s
    modSes ses (fun x => { x with pic := x.pic.map (fun p => { p with stage := .granted, handle := some h }) }) s

/-- Grant the oldest waiting requests that are grantable (R346). -/
def poolGrantFuel : Nat → Nat → State → State
  | 0, _, s => s
  | fuel + 1, g, s =>
    match (s.pool g).waits.find? (fun w => grantable s w.ses) with
    | none => s
    | some w => poolGrantFuel fuel g (grantWait w.ses w.since s)
def poolGrant (g : Nat) (s : State) : State := poolGrantFuel (s.pool g).waits.length g s

/-! ### Pool states (Table 13.4) -/

/-- The first failed check of Table 13.3; 0 when all pass. -/
def poolCheck (s : State) (g : Nat) : Nat :=
  if (groupOf s g).isNone then 1
  else
    let used := (upTo 4).filter (fun k => decide (classCount s g k > 0))
    if used = [] ∨ used.any (fun k => decide (classSize s g k = 0)) then 2
    else if (used.zip (used.drop 1)).any (fun p => decide (classSize s g p.2 ≤ classSize s g p.1)) then 3
    else if poolBase s g + classOffset s g 4 > groupBytes s g then 4 else 0

/-- ENABLE in DISABLED: every buffer FREE with GEN kept, or the status of the failed check. -/
def poolOpen (g : Nat) (s : State) : State :=
  match poolCheck s g with
  | 0 => modPool g (fun p => { p with
      state := .running, detail := 0
      buffers := Table.remap Buffer.dflt (fun _ b => { Buffer.dflt with gen := b.gen }) p.buffers }) s
  | d => postStatus { status := 0x0503, detail := d, kind := 3, id := g }
      (modPool g (fun p => { p with state := .disabled, detail := d }) s)

def poolEmpty (p : Pool) : Bool := p.buffers.all (fun b => decide (b.2.state = .free))

/-- The stop of a pool completes when its last buffer is FREE. -/
def poolSettle (g : Nat) (s : State) : State :=
  if poolEmpty (s.pool g) then
    match (s.pool g).state with
    | .stopping => modPool g (fun p => { p with state := .disabled }) s
    | .stoppingPendingEnable => poolOpen g s
    | _ => s
  else s

/-! ### Marks (Table 9.5) -/

/-- A HELD buffer with no mark left becomes FREE, and the pool serves its waiters (R254, R346). -/
def freeIfClear (h : Word) (s : State) : State :=
  let b := s.buffer h
  if b.state = .held ∧ b.ref = 0 ∧ b.out = false ∧ b.use = 0 then
    let g := handleGroup h
    poolSettle g (poolGrant g (modBuffer h (fun b => { Buffer.dflt with gen := b.gen }) s))
  else s

/-- The buffer of a DECODING picture that is dropped. -/
def dropBuffer (h : Word) (s : State) : State :=
  let g := handleGroup h
  poolSettle g (poolGrant g (modBuffer h (fun b => { Buffer.dflt with gen := b.gen }) s))

def Buffer.change (c : MarkChange) (b : Buffer) : Buffer :=
  match c with
  | .refUp => { b with ref := b.ref + 1 }
  | .refDown => { b with ref := b.ref - 1 }
  | .outClear => { b with out := false }
  | .useUp => { b with use := b.use + 1 }
  | .useDown => { b with use := b.use - 1 }

/-- The handle names a buffer that the change may act on (R345). -/
def handleOk (s : State) (engineGroup : Nat) (h : Word) : Bool :=
  decide (handleGroup h = engineGroup) && decide (handleIndex h < classCount s (handleGroup h) (handleClass h)) &&
    decide ((s.buffer h).gen = handleGen h) && decide ((s.buffer h).state ≠ .free)

/-- An event the manual says is recorded, for which Table 16.5 has no code of its own (assumption log 15). -/
def recordOther (kind id : Nat) (arg : DWord) (s : State) : State := record 0x0102 kind id arg s

/-- A mark change under its handle; a stale one is discarded and counted (R345). -/
def markChange (engineGroup : Nat) (h : Word) (c : MarkChange) (s : State) : State :=
  if handleOk s engineGroup h then freeIfClear h (modBuffer h (Buffer.change c) s)
  else recordOther 3 engineGroup (BitVec.setWidth 64 h)
    (modPool engineGroup (fun p => { p with badHandle := satAdd p.badHandle 1 }) s)

/-- A change by an engine of the handle's own group. -/
def mark (h : Word) (c : MarkChange) (s : State) : State := markChange (handleGroup h) h c s

end Sys2Proof.Machine
end

