-- ==== Sys2Proof/Machine/OpsCmd.lean ====
section
/-! DEFINITION. Commands' memory: the spaces of Table 6.4, a job's partition and models, and the parts of a
command that hearths finish. -/

namespace Sys2Proof.Machine
open Sys2Proof

/-! ### Fields of an entry (Table 6.2) -/

/-- Byte `i` … `i+n−1` of a 64-byte entry as a number. -/
def entField (e : Entry64) (i n : Nat) : Nat := bits e (8 * (i + n) - 1) (8 * i)
def Cmd.field (c : Cmd) (i n : Nat) : Nat := entField c.entry i n
def Cmd.op (c : Cmd) : Nat := c.field 0 1
def Cmd.model (c : Cmd) : Half := BitVec.ofNat 16 (c.field 6 2)
def Cmd.opf (c : Cmd) : Nat := c.field 2 1
def Cmd.notify (c : Cmd) : Bool := bit c.entry 31
def Cmd.prefetchOk (c : Cmd) : Bool := bit c.entry 30

/-- Opcodes by name (Table 6.3). -/
def opNop : Nat := 0x00
def opJobBegin : Nat := 0x01
def opJobEnd : Nat := 0x02
def opBindHoop : Nat := 0x03
def opSetCounter : Nat := 0x04
def opSemAcquire : Nat := 0x05
def opSemRelease : Nat := 0x06
def opLoad : Nat := 0x10
def opStore : Nat := 0x11
def opFill : Nat := 0x12
def opGemm : Nat := 0x20
def opConv : Nat := 0x21
def opPool : Nat := 0x22
def opFused : Nat := 0x23
def opArrayPass : Nat := 0x28
def opDrain : Nat := 0x29
def opKernel : Nat := 0x30
def opCurdTake : Nat := 0x38
def opEmit : Nat := 0x3C

/-! ### The job's partition and models -/

/-- R333: units of the save area; 0 where the partition does not exceed them. -/
def saveUnits (r : Region) : Nat :=
  let u := cdiv (2 * r.size * 5373952) unitBytes
  if r.dramUnits ≤ u then 0 else u
def vatDramBase (s : State) (v : Nat) : Nat := ((regionOf s.image v).map (fun r => r.dramBase * unitBytes)).getD 0
/-- Bytes of a job's partition, the save area left out (R333). -/
def vatDramBytes (s : State) (v : Nat) : Nat :=
  ((regionOf s.image v).map (fun r => (r.dramUnits - saveUnits r) * unitBytes)).getD 0
def jobVat (s : State) (j : Nat) : Nat := ((s.job j).map (·.vat)).getD 0
/-- The job executes: its vat runs it. -/
def jobRuns (s : State) (j : Nat) : Bool := ((s.job j).map (fun b => decide (b.state = .running))).getD false

def findVersion (s : State) (m : Half) (v : Word) : Option Version :=
  s.versions.find? (fun x => decide (x.model = m ∧ x.version = v))
/-- The CURRENT version of a model (R118). -/
def currentVersion (s : State) (m : Half) : Option Version :=
  s.versions.find? (fun x => decide (x.model = m ∧ x.state = .current))
/-- The version of model `m` that job `j` bound. -/
def boundVersion (s : State) (j : Nat) (m : Half) : Option Version :=
  match s.job j with
  | none => none
  | some b => match b.bound.find? (fun p => p.1 = m) with
    | none => none
    | some p => findVersion s m p.2

/-- Device address of byte `off` of a version's tensor area. -/
def Version.addr (v : Version) (off : Nat) : Nat :=
  match v.tensors.find? (fun t => decide (t.offset ≤ off ∧ off < t.offset + t.len)) with
  | some t => t.store + (off - t.offset)
  | none => v.base + off

/-- Tensors of a version whose every placed bank has landed in the vat, by residency order (R341). -/
def residentTensors (s : State) (vat : Nat) (v : Version) : List Nat :=
  match (s.vat vat).cave.find? (fun e => decide (e.model = v.model ∧ e.version = v.version)) with
  | none => []
  | some e => dedup ((e.pieces.filter (fun p => e.pieces.all (fun q => decide (q.tensor ≠ p.tensor) || q.landed))).map (·.tensor))

/-- The cave pieces of tensors `ts` of a version, in order of their place in the tensor area. -/
def cavePieces (s : State) (vat : Nat) (v : Version) (ts : List Nat) : List CavePiece :=
  match (s.vat vat).cave.find? (fun e => decide (e.model = v.model ∧ e.version = v.version)) with
  | none => []
  | some e => sortBy (·.offset) (e.pieces.filter (fun p => decide (p.tensor ∈ ts)))

/-- The landed piece that holds the byte at `off`. -/
def pieceAt (ps : List CavePiece) (off : Nat) : Option CavePiece :=
  ps.find? (fun p => decide (p.offset ≤ off ∧ off < p.offset + p.len))

/-- Cut a range of the tensor area at the ends of the pieces, as (offset, bytes, piece or none for the store). `fuel` is the
number of cuts. -/
def pieceRuns : Nat → List CavePiece → Nat → Nat → List (Nat × Nat × Option CavePiece)
  | 0, _, off, len => if len = 0 then [] else [(off, len, none)]
  | fuel + 1, ps, off, len =>
    if len = 0 then [] else
    match pieceAt ps off with
    | some p =>
      let n := min len (p.offset + p.len - off)
      (off, n, some p) :: pieceRuns fuel ps (off + n) (len - n)
    | none =>
      let n := match ps.find? (fun p => decide (off < p.offset)) with
        | some p => min len (p.offset - off)
        | none => len
      (off, n, none) :: pieceRuns fuel ps (off + n) (len - n)

/-! ### Reads and writes in the spaces of Tables 2.5 and 6.4 -/

/-- The address `off` bytes past `a` inside the window of Table 2.5 that `a` lies in: a vat's addresses wrap inside its
window (R26, R194). -/
def windowAddr (a off : Nat) : Nat :=
  if a < spmBytes then (a + off) % spmBytes
  else if 0x10000000 ≤ a ∧ a < 0x18000000 then 0x10000000 + (a - 0x10000000 + off) % 0x8000000
  else a + off

/-- The parts of a range that lie in one hearth's scratchpad each, as (offset in the range, bytes). -/
def windowParts (a len : Nat) : List (Nat × Nat) :=
  if len = 0 then [] else
  (upTo ((a % spmBytes + len + spmBytes - 1) / spmBytes)).map (fun i =>
    let lo := max a ((a / spmBytes + i) * spmBytes)
    let hi := min (a + len) ((a / spmBytes + i + 1) * spmBytes)
    (lo - a, hi - lo))

/-- Read an ember-form address for job `j` on hearth `h` as master `m`, in another hearth as the mesh's master. Outside the
scratchpads it reads as poisoned zeros. -/
def spRead (h m j a len : Nat) (t : Touch) (s : State) : Marked × State :=
  (windowParts a len).foldl (fun p q =>
    let none := (p.1 ++ List.replicate q.2 (0, true), p.2)
    let rd := fun (g b : Nat) =>
      let (d, s) := localRead g (if g = h then m else 9) b q.2 (.job (some j)) (touchAt t g) p.2
      (p.1 ++ d, s)
    match decodeAddr p.2 h (windowAddr a q.1) with
    | .own b => rd h b
    | .remote g b => rd g b
    | .outPort _ _ => none
    | .headReg _ => none
    | .none => none) ([], s)

/-- Bytes for an outbound flue port, as whole flits: padded with zeros to 64 bytes each (R54, R57, R87). -/
def rowFlits (bs : List Byte) : List (List Byte) :=
  (upTo (cdiv bs.length 64)).map (fun i => fitBytes 64 ((bs.drop (64 * i)).take 64))

/-- One flit of an engine enters an outbound port and, when a credit is there, is launched (R54, R57). -/
def engineFlit (h port : Nat) (poison : Bool) (tag : Nat) (data : List Byte) (s : State) : State :=
  if ((s.hearth h).outPort port).state ≠ .openF then flueDiscard h port s else fillSlot h port 0 data poison tag s

/-- Room in a flue for `n` flits of an engine: credits, and no flit that waits for one; a flue that is not OPEN discards
them at once. -/
def flueRoom (s : State) (h port n : Nat) : Bool :=
  let f := (s.hearth h).outPort port
  decide (f.state ≠ .openF) || (decide (n ≤ f.credits) && !f.full)

/-- Store at an ember-form address for job `j` on hearth `h`: scratchpads and control words, an outbound flue port as whole
flits, or an inbound port's head advance register. -/
def spWrite (h j a : Nat) (d : Marked) (s : State) : State :=
  forEach (windowParts a d.length) (fun q s =>
    let part := (d.drop q.1).take q.2
    match decodeAddr s h (windowAddr a q.1) with
    | .own b => localWrite h b (.job (some j)) (some h) 15 part s
    | .remote g b => localWrite g b (.job (some j)) (some h) 15 part s
    | .outPort p _ => forEach (rowFlits (part.map (·.1))) (engineFlit h p (part.any (·.2)) 15) s
    | .headReg p => if part.length = 4 then headAdvance h p (leNat (part.map (·.1))) (some h) 15 s else s
    | .none => s) s

/-- Space and offset of a 64-bit address (Table 6.4). -/
def farSpace (a : Nat) : Nat := a / 2 ^ 62 % 4
def farOffset (a : Nat) : Nat := if farSpace a = 1 then a % 2 ^ 32 else a % 2 ^ 40

/-- Read a range of the tensor area of the command's model: the parts whose tensors were resident at its start from the
cave banks, the rest from the model store (R175, R341). -/
def modelRead (h m : Nat) (c : Cmd) (off len : Nat) (t : Touch) (s : State) : Marked × State :=
  match boundVersion s c.job.toNat c.model with
  | none => (List.replicate len (0, true), s)
  | some v =>
    let ps := cavePieces s (jobVat s c.job.toNat) v c.resident
    (pieceRuns (2 * ps.length + 1) ps off len).foldl (fun x r =>
      match r.2.2 with
      | some p =>
        let (d, s) := spmRead p.hearth (if p.hearth = h then m else 9) (p.addr + (r.1 - p.offset)) r.2.1 (.job (some c.job.toNat))
          (touchAt t p.hearth) x.2
        (x.1 ++ d, s)
      | none => (x.1 ++ dramRead x.2 (v.addr r.1) r.2.1, x.2)) ([], s)

/-- Read a 64-bit address form for command `c` on hearth `h` as master `m` (Table 6.4). -/
def farRead (h m : Nat) (c : Cmd) (a len : Nat) (t : Touch) (s : State) : Marked × State :=
  match farSpace a with
  | 0 => (dramRead s (vatDramBase s (jobVat s c.job.toNat) + farOffset a) len, s)
  | 1 => spRead h m c.job.toNat (farOffset a) len t s
  | 2 => modelRead h m c (farOffset a) len t s
  | _ => (List.replicate len (0, true), s)

/-- Write a 64-bit address form: DRAM or vat scratchpad. -/
def farWrite (h j a : Nat) (d : Marked) (s : State) : State :=
  match farSpace a with
  | 0 => dramWrite (vatDramBase s (jobVat s j) + farOffset a) d s
  | 1 => spWrite h j (farOffset a) d s
  | _ => s

/-! ### Finished rows (R81–R87) -/

/-- Read the operands of a row of column sums `e` as master `m` of hearth `h`, and finish it: its bytes with their poison
marks, and whether the row is poisoned (R81, R82). -/
def finishRow (h m j : Nat) (d : List Byte) (columns row col r : Nat) (e : AccRow) (t : Touch) (s : State) : Marked × Bool × State :=
  let s := forEach (drainReads d columns row col r) (fun q s => (spRead h m j q.1 q.2 t s).2) s
  let (bs, p) := drainRow (fun a n => (spRead h m j a n Touch.none s).1) d columns row col r e
  (bs.map (fun b => (b, p)), p, s)

/-- Count a row that an array's drain has written (Table 3.9). -/
def countRow (h a : Nat) (poisoned : Bool) (s : State) : State :=
  modArr h a (fun y => { y with
    drainRows := satAdd y.drainRows 1, poisonRows := if poisoned then satAdd y.poisonRows 1 else y.poisonRows }) s

/-- The tag of a hand-over by an engine that stood still under the causes of `stalls` (R60). -/
def stallTag (stalls : List (Fin 11 × Nat)) : Nat :=
  stalls.foldl (fun t c => if c.2 = 0 then t else worseTag t c.1) 15

/-- Stalls of a hearth's arrays, each cycle under its one cause (R60, R74). -/
def stallArrs (h : Nat) (stalls : List (Fin 11 × Nat)) (s : State) : State := forEach stalls (fun c s => stallArr h c.1 c.2 s) s

/-- Beats that a duty cap withheld from array `a` (R91). -/
def withhold (h a n : Nat) (s : State) : State := modArr h a (fun x => { x with throttle := satAdd x.throttle n }) s

/-! ### Parts of a command -/

/-- Hearth `h` has finished its part of a command (R160). -/
def finishPart (j : Nat) (seq : Word) (h : Nat) (s : State) : State :=
  modCmd j seq (fun c => { c with partsLeft := c.partsLeft.filter (· ≠ h) }) s

/-- The EXECUTING command of a running job, if it has opcode `op`. -/
def executing (s : State) (j : Nat) (seq : Word) (op : Nat) : Option Cmd :=
  match findCmd s j seq with
  | none => none
  | some c => if c.state = .executing ∧ c.op = op ∧ jobRuns s j = true then some c else none

/-- The level of a bell code: the default grid in slot 0, else the slot of the command's model, or of the first bound
model that loads it (R97, R98). -/
def bellLevel (s : State) (j : Nat) (model : Half) (slot code : Nat) : Half :=
  if slot = 0 then halfOfInt (bellDefault.getD code 0)
  else
    let has : Half → Option (List Half) := fun m => match boundVersion s j m with
      | none => none
      | some v => (v.grids.find? (fun (g : Nat × List Half) => g.1 = slot)).map (·.2)
    let binds : List Half := match s.job j with
      | none => []
      | some b => b.bind
    let g : Option (List Half) := match has model with
      | some g => some g
      | none => firstSome (fun k => has (binds.getD k 0xFFFF)) (upTo 8)
    match g with
    | some g => g.getD code 0
    | none => Config.unsetGrid slot code

end Sys2Proof.Machine
end

