-- ==== Sys2Proof/Machine/Arrays.lean ====
section
/-! DEFINITION. The arrays' own events: weight rows, passes, drains, and their counters (R67–R74, R82–R92). -/

namespace Sys2Proof.Machine
open Sys2Proof

/-- The pass whose set the weight feeder writes: the newest started new-set pass while its set is not whole, else the
first queued new-set pass (R69). The second part says that it has started. -/
def feedTarget (x : Arr) : Option (Pass × Bool) :=
  let started := (x.flight.filter (fun p => !p.reuse)).getLast?
  match started with
  | some p => if x.active.complete then (x.queue.find? (fun q => !q.reuse)).map (fun q => (q, false)) else some (p, true)
  | none => (x.queue.find? (fun q => !q.reuse)).map (fun q => (q, false))

/-- A set about to be written for a pass. -/
def setFor (p : Pass) : WSet :=
  { WSet.empty with mode := p.mode, group := p.group, kValid := p.kValid, nValid := p.nValid }

/-- WEIGHT_ROW_WRITE: one row, or the scales of one group, is read and lands in the shadow, or behind a wave already
running; the third set waits (R69, R72). -/
def execWeightRowWrite (h : Fin 32) (a : Fin 2) (errs : Touch) (s : State) : Res :=
  rooted s (let x := (s.hearth h).arr a
    match feedTarget x with
    | none => s
    | some (p, started) =>
      let w := if started then x.active else if x.shadow.rows = [] then setFor p else x.shadow
      if w.complete || !(started || jobRuns s p.job.toNat) then s else
      let (o, n) := w.nextSpan
      let s := touchMeet errs s
      let (d, s) := if w.nextReads then localRead h (2 + a) (p.wbase + o) n (.job (some p.job.toNat)) (touchAt errs h) s else ([], s)
      let w := w.put (bellLevel s p.job.toNat p.model p.grid) d
      modArr h a (fun x => if started then { x with active := w } else { x with shadow := w }) s)

/-- The tile rows that a pass feeds (Table 6.15, R75), by the mask's bits; poison marks on the mask are not looked at
(assumption log 66). -/
def fedRows (p : Pass) (mask : Marked) : List Nat :=
  if p.mask.isNone then upTo p.rows
  else (upTo p.rows).filter (fun r => bit (byteAt (mask.map (·.1)) (r / 8)) (r % 8))

/-- Mode and G of the pass before (R70): the newest in flight. -/
def sameArith (x : Arr) (p : Pass) : Bool :=
  match x.flight.getLast? with
  | none => true
  | some q => decide (q.mode = p.mode ∧ groupRows q.mode q.group = groupRows p.mode p.group)

/-- The start conditions of R70 for the pass at the head of the queue; condition 1 holds because a start feeds every
vector of its pass. -/
def passReady (s : State) (h : Nat) (x : Arr) (p : Pass) : Bool :=
  jobRuns s p.job.toNat && decide ((s.hearth h).state = .active) &&
  (p.reuse || decide (x.shadow.rows ≠ [])) && sameArith x p &&
  (match p.wait with
    | none => true
    | some (c, t) => ctrMet ((s.hearth h).ctr c) t)

/-- A pass starts: its set is taken by the wave, which flips the tag (R68), or kept by a reuse pass (R73), and its
vectors are fed. A reuse pass computes with the mode, K and N of the set in the cells and is fed by its own K_VALID; a new
set is taken even by a pass whose mask feeds no row (assumption log 66). -/
def startPass (h a : Nat) (errs : Touch) (p : Pass) (s : State) : State :=
  let x := (s.hearth h).arr a
  let mode := if p.reuse then x.active.mode else p.mode
  let who : Agent := .job (some p.job.toNat)
  let (mask, s) := match p.mask with
    | none => ([], s)
    | some m => localRead h (4 + a) m 128 who (touchAt errs h) s
  let (fed, s) := (fedRows p mask).foldl (fun (q : List (Nat × List Half × Bool) × State) r =>
    let (d, s) := localRead h (4 + a) (p.xbase + r * p.xStride) (p.kValid * actBytes mode) who (touchAt errs h) q.2
    let (v, poison) := vectorOf mode p.kValid d
    (q.1 ++ [(r, v, poison)], s)) ([], s)
  modArr h a (fun x =>
    let keep := fun (q : Pass) => if p.reuse ∨ q.own ≠ none then q else { q with own := some x.active }
    { x with
      queue := x.queue.drop 1
      flight := x.flight.map keep ++ [{ p with fed := fed }]
      active := if p.reuse then x.active else x.shadow
      shadow := if p.reuse then x.shadow else WSet.empty
      tag := if p.reuse then x.tag else !x.tag
      lastSet := if p.reuse then x.lastSet else none
      fed := satAdd x.fed fed.length }) s

/-- Cause of a wait of pass `p`: cycles on its counter fall under the TAG the counter's hand-over left, or under
counter-wait (R74, R141). -/
def passCause (s : State) (h : Nat) (p : Pass) (cause : Nat) : Nat :=
  match p.wait with
  | none => cause
  | some (c, _) => if cause = 6 ∧ ((s.hearth h).ctr c).tag < 11 then ((s.hearth h).ctr c).tag else cause

/-- PASS_START, with the cycles it was held by each wait (R74; counter-wait stands for its counter) and those withheld by a
duty cap (R91). A wait on a BROKEN counter faults the job (R142). -/
def execPassStart (h : Fin 32) (a : Fin 2) (errs : Touch) (stalls : List (Fin 11 × Nat)) (withheld : Nat) (s : State) : Res :=
  rooted s (let x := (s.hearth h).arr a
    match x.queue with
    | [] => s
    | p :: _ =>
      let broken := match p.wait with
        | none => false
        | some (c, _) => ((s.hearth h).ctr c).broken
      if broken && jobRuns s p.job.toNat then jobFaultTrap h 0 s
      else if passReady s h x p then
        let s := forEach stalls (fun c s => stallArr h (passCause s h p c.1) c.2 s) (touchMeet errs s)
        withhold h a withheld (startPass h a errs p s)
      else s)

/-- PASS_COMPLETE: the oldest pass writes its last entry, once its whole set has reached the cells. Frozen cycles, and a
switch's wait for it, count under their causes (R74, R89). -/
def execPassComplete (h : Fin 32) (a : ArrTurn) (s : State) : Res :=
  rooted s (let x := (s.hearth h).arr a.a
    match x.flight with
    | [] => s
    | p :: rest =>
      let w := p.own.getD x.active
      if !w.complete then s else
      let s := withhold h a.a a.withheld (stallArrs h a.stalls (touchMeet a.touch s))
      finishPart p.job.toNat p.seq h (modArr h a.a (fun x => { x with
        flight := rest, acc := writeSums w p.acc p.accBase p.fed x.acc, passes := satAdd x.passes 1 }) s))

/-- DRAIN_START: the drain takes the oldest waiting run. -/
def execDrainStart (h : Fin 32) (a : Fin 2) (s : State) : Res :=
  rooted s (let x := (s.hearth h).arr a
    match x.drain, x.drains with
    | none, d :: ds =>
      if jobRuns s d.job.toNat && decide ((s.hearth h).state = .active) then
        modArr h a (fun x => { x with drain := some d, drains := ds }) s
      else s
    | _, _ => s)

/-- The hearth where a drain's row data lands (R87): that of its scratchpad target, or the receiver of its flue; none for a
port that no flue is bound to. -/
def drainHearth (s : State) (h : Nat) (d : List Byte) : Option Nat :=
  let o := (s.hearth h).outPort (fieldAt d 16 4 % 16)
  if outTarget d = 1 then (if o.valid then some o.peer else none)
  else match decodeAddr s h (fieldAt d 16 4) with
  | .remote g _ => some g
  | _ => some h

/-- One row is read from its entry, finished and written. -/
def landRow (h a : Nat) (x : DrainRun) (t : Touch) (tag : Nat) (s : State) : State :=
  let d := x.desc
  let e := Table.get AccRow.dflt ((s.hearth h).arr a).acc ((x.entryBase + x.done) % 1024)
  let (row, p, s) := finishRow h (6 + a) x.job.toNat d (descColumns d) (rowBase d + x.done) (colBase d) x.done e t s
  let s := countRow h a p s
  if outTarget d = 1 then forEach (rowFlits (row.map (·.1))) (engineFlit h (fieldAt d 16 4 % 16) p tag) s
  else spWrite h x.job.toNat (fieldAt d 16 4 + x.done * fieldAt d 20 2) row s

/-- A drain's bump of `n` rows at the hearth where they have landed; flits on their way there land first (R87, R139). -/
def drainBump (h n tag : Nat) (d : List Byte) (s : State) : State :=
  let port := fieldAt d 16 4 % 16
  let s := if outTarget d = 1 then landFlits ((s.hearth h).outPort port).flight.length h port s else s
  match drainHearth s h d with
  | none => s
  | some g => ctrAdd g (fieldAt d 26 1 % 64) (BitVec.ofNat 32 n) (some h) tag s

/-- Rows to bump for once row number `k` of `n` has landed, with a bump every `every` rows; 0 for none due (R87, R139). -/
def rowsDue (every k n : Nat) : Nat := if k % every = 0 then every else if k = n then k % every else 0

/-- Land up to `n` rows of the running drain; a flue without credit for a row holds it (R86). -/
def landRows : Nat → Nat → Nat → Nat → Touch → State → State
  | 0, _, _, _, _, s => s
  | n + 1, h, a, tag, t, s =>
    match ((s.hearth h).arr a).drain with
    | none => s
    | some x =>
      let d := x.desc
      let flits := cdiv (descColumns d * outSize (outType d)) 64
      if x.count ≤ x.done then s
      else if outTarget d = 1 ∧ flueRoom s h (fieldAt d 16 4 % 16) flits = false then s
      else
        let s := landRow h a x t tag s
        let s := modArr h a (fun y => { y with drain := some { x with done := x.done + 1 } }) s
        let due := rowsDue (bumpEvery d) (x.done + 1) x.count
        let s := if bumpEn d = true ∧ due ≠ 0 then drainBump h due tag d s else s
        let s := if x.done + 1 = x.count then
            finishPart x.job.toNat x.seq h (modArr h a (fun y => { y with drain := none }) s) else s
        landRows n h a tag t s

/-- DRAIN_ROWS_LANDED: `n` rows land and the counter is bumped after every BUMP_EVERY rows and the last; stall
cycles count under R60. -/
def execDrainRowsLanded (h : Fin 32) (a : Fin 2) (n : Fin 1025) (tag : Fin 16) (stalls : DrainTurn) (s : State) : Res :=
  rooted s (match ((s.hearth h).arr a).drain with
    | none => s
    | some x =>
      if jobRuns s x.job.toNat then
        landRows n h a (worseTag tag (stallTag stalls.stalls)) stalls.touch (stallArrs h stalls.stalls (touchMeet stalls.touch s))
      else s)

/-- Clear the five counters of an array (R92). -/
def clearArr (h a : Nat) (s : State) : State :=
  modArr h a (fun x => { x with passes := 0, fed := 0, drainRows := 0, throttle := 0, poisonRows := 0 }) s

/-- ARR_COUNT_CLEAR -/
def execArrCountClear (h : Fin 32) (a : Fin 2) (s : State) : Res :=
  .next (guard (hearthBase h + 0x10200) (clearArr h a) s)

end Sys2Proof.Machine
end

