-- ==== Sys2Proof/Machine/Hash.lean ====
section
/-! DEFINITION. SHA-256 and the check of an RSASSA-PSS signature (R196, R214, R428). The manual names the two and their
parameters; the algorithms are the published standards' (assumption log 76). -/

namespace Sys2Proof.Machine
open Sys2Proof

/-! ### SHA-256 -/

/-- Round constants: the first 32 bits of the fractions of the cube roots of the first 64 primes. -/
def shaK : List Word :=
  [0x428A2F98, 0x71374491, 0xB5C0FBCF, 0xE9B5DBA5, 0x3956C25B, 0x59F111F1, 0x923F82A4, 0xAB1C5ED5] ++
  [0xD807AA98, 0x12835B01, 0x243185BE, 0x550C7DC3, 0x72BE5D74, 0x80DEB1FE, 0x9BDC06A7, 0xC19BF174] ++
  [0xE49B69C1, 0xEFBE4786, 0x0FC19DC6, 0x240CA1CC, 0x2DE92C6F, 0x4A7484AA, 0x5CB0A9DC, 0x76F988DA] ++
  [0x983E5152, 0xA831C66D, 0xB00327C8, 0xBF597FC7, 0xC6E00BF3, 0xD5A79147, 0x06CA6351, 0x14292967] ++
  [0x27B70A85, 0x2E1B2138, 0x4D2C6DFC, 0x53380D13, 0x650A7354, 0x766A0ABB, 0x81C2C92E, 0x92722C85] ++
  [0xA2BFE8A1, 0xA81A664B, 0xC24B8B70, 0xC76C51A3, 0xD192E819, 0xD6990624, 0xF40E3585, 0x106AA070] ++
  [0x19A4C116, 0x1E376C08, 0x2748774C, 0x34B0BCB5, 0x391C0CB3, 0x4ED8AA4A, 0x5B9CCA4F, 0x682E6FF3] ++
  [0x748F82EE, 0x78A5636F, 0x84C87814, 0x8CC70208, 0x90BEFFFA, 0xA4506CEB, 0xBEF9A3F7, 0xC67178F2]

/-- Initial hash: the same of the square roots of the first eight primes. -/
def shaInit : List Word := [0x6A09E667, 0xBB67AE85, 0x3C6EF372, 0xA54FF53A,
  0x510E527F, 0x9B05688C, 0x1F83D9AB, 0x5BE0CD19]

def rotr (x : Word) (n : Nat) : Word := x.rotateRight n

/-- A message of `8 n` bits padded to whole 64-byte blocks: 0x80, zeros, and its length in bits, big-endian. -/
def shaPad (m : List Byte) : List Byte :=
  m ++ [0x80] ++ List.replicate ((119 - m.length % 64) % 64) 0 ++ (toBytes (BitVec.ofNat 64 (8 * m.length)) 8).reverse

/-- The big-endian word at byte `i`. -/
def beWord (bs : List Byte) (i : Nat) : Word := BitVec.ofNat 32 (leNat ((bs.drop i).take 4).reverse)

/-- The message schedule, newest word first. -/
def shaExpand : Nat → List Word → List Word
  | 0, w => w
  | n + 1, w =>
    let at_ := fun i => w.getD i 0
    let s0 := rotr (at_ 14) 7 ^^^ rotr (at_ 14) 18 ^^^ (at_ 14 >>> 3)
    let s1 := rotr (at_ 1) 17 ^^^ rotr (at_ 1) 19 ^^^ (at_ 1 >>> 10)
    shaExpand n ((at_ 15 + s0 + at_ 6 + s1) :: w)

/-- One round on the eight working variables. -/
def shaRound (v : List Word) (kw : Word × Word) : List Word :=
  match v with
  | [a, b, c, d, e, f, g, h] =>
    let t1 := h + (rotr e 6 ^^^ rotr e 11 ^^^ rotr e 25) + ((e &&& f) ^^^ (~~~e &&& g)) + kw.1 + kw.2
    let t2 := (rotr a 2 ^^^ rotr a 13 ^^^ rotr a 22) + ((a &&& b) ^^^ (a &&& c) ^^^ (b &&& c))
    [t1 + t2, a, b, c, d + t1, e, f, g]
  | _ => v

/-- One 64-byte block. -/
def shaBlock (h : List Word) (block : List Byte) : List Word :=
  let w := (shaExpand 48 ((upTo 16).map (fun i => beWord block (4 * i))).reverse).reverse
  List.zipWith (· + ·) h ((shaK.zip w).foldl shaRound h)

/-- The 32-byte digest of a byte string. -/
def sha256Bytes (m : List Byte) : List Byte :=
  let p := shaPad m
  ((upTo (p.length / 64)).foldl (fun h i => shaBlock h ((p.drop (64 * i)).take 64)) shaInit).flatMap (fun x => (toBytes x 4).reverse)

/-- The digest with its first byte in bits 7:0 (R4). -/
def sha256 (m : List Byte) : BitVec 256 := ofBytes 256 (sha256Bytes m)

/-! ### RSASSA-PSS under RSA-3072 -/

/-- An octet string as a number, first byte highest, and the reverse for 384 bytes. -/
def os2ip (bs : List Byte) : Nat := leNat bs.reverse
def i2osp384 (x : Nat) : List Byte := (toBytes (BitVec.ofNat 3072 x) 384).reverse

/-- x^65,537 modulo n: sixteen squarings and one product. -/
def rsaPublic (n x : Nat) : Nat := (upTo 16).foldl (fun y _ => y * y % n) (x % n) * x % n

/-- MGF1 with SHA-256: the first `len` bytes. -/
def mgf1 (seed : List Byte) (len : Nat) : List Byte :=
  ((upTo (cdiv len 32)).flatMap (fun i => sha256Bytes (seed ++ (toBytes (BitVec.ofNat 32 i) 4).reverse))).take len

/-- EMSA-PSS verification of a 384-byte encoded message with a 32-byte salt, the top bit of the message unused. -/
def pssOk (msg em : List Byte) : Bool :=
  let masked := em.take 351
  let h := (em.drop 351).take 32
  let db := (List.zipWith (· ^^^ ·) masked (mgf1 h 351)).zipIdx.map (fun p => if p.2 = 0 then p.1 &&& 0x7F else p.1)
  decide (em.getLastD 0 = 0xBC) && !(em.headD 0).msb && (db.take 318).all (· = 0) && decide (byteAt db 318 = 1) &&
    decide (sha256Bytes (List.replicate 8 0 ++ sha256Bytes msg ++ db.drop 319) = h)

/-- The signature of `msg` is valid under a 384-byte modulus with exponent 65,537. -/
def rsaPssVerify (modulus msg sig : List Byte) : Bool :=
  let n := os2ip modulus
  decide (modulus.length = 384 ∧ sig.length = 384 ∧ os2ip sig < n) && pssOk msg (i2osp384 (rsaPublic n (os2ip sig)))

end Sys2Proof.Machine
end

