-- ==== Sys2Proof/Machine/OpsImage.lean ====
section
/-! DEFINITION. The structure image: its layout, its signature and its checks (R195–R203, R214, R428). -/

namespace Sys2Proof.Machine
open Sys2Proof

/-! ### Signatures (R196, R428) -/

/-- A Table 7.4 signature block holds for `msg`: its slot is neither empty nor revoked, the slot's modulus has the fused
hash, and the signature is valid under it. -/
def sigValid (b : Boot) (msg block : List Byte) : Bool :=
  let k := fieldAt block 0 1
  let key := Table.get [] b.identity.moduli k
  decide (k < 4 ∧ fieldAt block 2 2 = 32 ∧ Table.get none b.fuses.keyHash k = some (sha256 key)) &&
    !bit b.fuses.revoked k && rsaPssVerify key msg ((block.drop 4).take 384)

/-! ### Layout (Tables 7.1–7.3) -/

/-- A directory entry (Table 7.2). -/
structure DirEnt where
  typ : Nat
  region : Nat
  count : Nat
  offset : Nat
  len : Nat
  deriving DecidableEq, Repr

def imgBytes (bs : List Byte) : Nat := fieldAt bs 8 4
def imgSigOffset (bs : List Byte) : Nat := fieldAt bs 20 4
def imgRollback (bs : List Byte) : Nat := fieldAt bs 16 4

/-- The directory. -/
def dirEnts (bs : List Byte) : List DirEnt :=
  (upTo (fieldAt bs 6 2)).map (fun i =>
    let e := 64 + 16 * i
    { typ := fieldAt bs e 1, region := fieldAt bs (e + 1) 1, count := fieldAt bs (e + 2) 2
      offset := fieldAt bs (e + 4) 4, len := fieldAt bs (e + 8) 4 })

/-- Record bytes of a section type, none for an unknown TYPE (Table 7.3). -/
def recordBytes : Nat → Option Nat
  | 0x01 => some 64
  | 0x02 => some 32
  | 0x10 => some 64
  | 0x11 => some 16
  | 0x12 => some 32
  | 0x13 => some 32
  | _ => none

/-- COUNT is within Table 7.3; a BANKS section's vat size is compared apart. -/
def countOk (t n : Nat) : Bool := match t with
  | 0x01 => decide (n = 1)
  | 0x02 => decide (1 ≤ n ∧ n ≤ 16)
  | 0x10 => decide (n = 1)
  | 0x12 => decide (n ≤ 256)
  | 0x13 => decide (n ≤ 32)
  | _ => true

/-- The bytes of section `t` of a region (0xFF: the global part); none when it is absent. -/
def findSection (bs : List Byte) (t region : Nat) : Option (List Byte) :=
  ((dirEnts bs).find? (fun e => decide (e.typ = t ∧ e.region = region))).map (fun e => (bs.drop e.offset).take e.len)
def sectionOf (bs : List Byte) (t region : Nat) : List Byte := (findSection bs t region).getD []

/-- The records of a section. -/
def recordsOf (bs : List Byte) (t region : Nat) : List (List Byte) :=
  let d := sectionOf bs t region
  let n := (recordBytes t).getD 1
  (upTo (d.length / n)).map (fun i => (d.drop (n * i)).take n)

/-- A region's sections in increasing TYPE order, concatenated: what its digest covers (R214). -/
def regionBytes (bs : List Byte) (r : Nat) : List Byte :=
  sectionOf bs 0x10 r ++ sectionOf bs 0x11 r ++ sectionOf bs 0x12 r ++ sectionOf bs 0x13 r
def regionDigest (bs : List Byte) (r : Nat) : BitVec 256 := sha256 (regionBytes bs r)

/-! ### Records (Tables 7.5–7.9) -/

/-- A stream-class record. -/
def parseClass (d : List Byte) : ClassRec :=
  { cls := fieldAt d 0 1, codecs := fieldAt d 1 1, bitDepth := fieldAt d 2 1, maxRefs := fieldAt d 3 1, maxWidth := fieldAt d 4 2
    maxHeight := fieldAt d 6 2, maxLuma := fieldAt d 8 4, maxKbps := fieldAt d 12 4, maxFps := fieldAt d 16 1, consumers := fieldAt d 17 1 }

/-- A FLUES record. -/
def parseFlue (d : List Byte) : FlueRec :=
  { flue := fieldAt d 0 1, width := fieldAt d 1 1, depth := fieldAt d 2 2, src := fieldAt d 4 1, srcPort := fieldAt d 5 1
    dst := fieldAt d 6 1, dstPort := fieldAt d 7 1, rxBase := fieldAt d 8 4, route := fieldAt d 12 1, hops := fieldAt d 13 1, path := fieldAt d 16 6 }

/-- A GROUPS record. -/
def parseGroup (d : List Byte) : GroupRec :=
  { group := fieldAt d 0 1, vat := fieldAt d 1 1, decoders := fieldAt d 2 2, scalers := fieldAt d 4 1, classes := fieldAt d 6 2
    maxSessions := fieldAt d 8 2, floor := fieldAt d 10 2, dramBase := fieldAt d 12 2, dramUnits := fieldAt d 14 2 }

/-- A region; one without a VAT section has SIZE 0. -/
def parseRegion (bs : List Byte) (r : Nat) : Region :=
  let d := sectionOf bs 0x10 r
  { region := r, size := fieldAt d 1 1, dramTarget := fieldAt d 2 2, dramBase := fieldAt d 4 2, dramUnits := fieldAt d 6 2
    hearths := (upTo (fieldAt d 1 1)).map (fun k => fieldAt d (8 + k) 1)
    banks := (recordsOf bs 0x11 r).map (fun b => (fieldAt b 0 1, fieldAt b 8 8))
    flues := (recordsOf bs 0x12 r).map parseFlue
    groups := (recordsOf bs 0x13 r).map parseGroup }

/-- The whole image. -/
def parseImage (bs : List Byte) : Image :=
  let g := sectionOf bs 0x01 0xFF
  { version := BitVec.ofNat 32 (fieldAt bs 12 4), imageBytes := imgBytes bs, rollback := imgRollback bs
    modelBase := fieldAt g 0 2, modelUnits := fieldAt g 2 2, portTarget := (upTo 8).map (fun p => fieldAt g (4 + 2 * p) 2)
    classes := (recordsOf bs 0x02 0xFF).map parseClass
    regions := ((upTo 32).filter (fun r => (findSection bs 0x10 r).isSome)).map (parseRegion bs)
    raw := bs.take (imgBytes bs) }

/-! ### Routes over the mesh (R200, R201) -/

/-- The next hearth in a direction: 0 +x, 1 −x, 2 +y, 3 −y; none off the mesh. -/
def meshStep (h dir : Nat) : Option Nat := match dir with
  | 0 => if h % 8 = 7 then none else some (h + 1)
  | 1 => if h % 8 = 0 then none else some (h - 1)
  | 2 => if h / 8 = 3 then none else some (h + 8)
  | _ => if h / 8 = 0 then none else some (h - 8)

/-- The links that a walk uses, as (hearth, direction), and where it ends. -/
def meshWalk : List Nat → Nat → Option (List (Nat × Nat) × Nat)
  | [], h => some ([], h)
  | d :: ds, h => match meshStep h d with
    | none => none
    | some g => (meshWalk ds g).map (fun p => ((h, d) :: p.1, p.2))

/-- The hops of a flue (ROUTE). -/
def flueHops (f : FlueRec) : List Nat :=
  let xs := List.replicate (f.dst % 8 - f.src % 8) 0 ++ List.replicate (f.src % 8 - f.dst % 8) 1
  let ys := List.replicate (f.dst / 8 - f.src / 8) 2 ++ List.replicate (f.src / 8 - f.dst / 8) 3
  if f.route = 0 then xs ++ ys else if f.route = 1 then ys ++ xs else (upTo f.hops).map (fun i => f.path / 4 ^ i % 4)

def flueLinks (f : FlueRec) : List (Nat × Nat) := ((meshWalk (flueHops f) f.src).map (·.1)).getD []

/-! ### The checks of Table 7.10 -/

def noRepeat (l : List Nat) : Bool := decide ((dedup l).length = l.length)
def within (v lo hi : Nat) : Bool := decide (lo ≤ v ∧ v ≤ hi)

/-- Check 0x02 passes. -/
def imgHeaderOk (bs : List Byte) : Bool :=
  decide (bs.take 4 = [0x49, 0x47, 0x54, 0x41] ∧ fieldAt bs 4 2 = 1 ∧ 576 ≤ imgBytes bs ∧ imgBytes bs ≤ 16777216 ∧ imgBytes bs ≤ bs.length ∧
    imgSigOffset bs = imgBytes bs - 512 ∧ imgRollback bs ≤ 96)

/-- Check 0x03 passes: directory and sections obey R195 and Table 7.3. -/
def sectionsOk (bs : List Byte) : Bool :=
  let es := dirEnts bs
  let dirEnd := 64 + 16 * es.length
  let count := fun (t r : Nat) => (es.filter (fun e => decide (e.typ = t ∧ e.region = r))).length
  within (fieldAt bs 6 2) 2 130 && decide (dirEnd ≤ imgSigOffset bs) &&
  es.all (fun e =>
    match recordBytes e.typ with
    | none => false
    | some n => decide (e.len = e.count * n) && countOk e.typ e.count && decide (e.offset % 16 = 0) && decide (dirEnd ≤ e.offset) &&
        decide (e.offset + e.len ≤ imgSigOffset bs) && (if e.typ < 0x10 then decide (e.region = 0xFF) else decide (e.region < 32))) &&
  (upTo es.length).all (fun i => (upTo i).all (fun j =>
    match es[i]?, es[j]? with
    | some a, some b => decide (a.offset + a.len ≤ b.offset ∨ b.offset + b.len ≤ a.offset ∨ a.len = 0 ∨ b.len = 0)
    | _, _ => true)) &&
  decide (count 0x01 0xFF = 1 ∧ count 0x02 0xFF = 1) &&
  (upTo 32).all (fun r =>
    decide (count 0x10 r = 0 ∧ count 0x11 r = 0 ∧ count 0x12 r = 0 ∧ count 0x13 r = 0) ||
    (decide (count 0x10 r = 1 ∧ count 0x11 r = 1 ∧ count 0x12 r ≤ 1 ∧ count 0x13 r ≤ 1) &&
      decide ((recordsOf bs 0x11 r).length = (parseRegion bs r).size)))

/-- A class record's fields are in range (Table 7.6). -/
def classOk (c : ClassRec) : Bool :=
  within c.cls 0 15 && decide (c.codecs % 8 ≠ 0) && decide (c.bitDepth = 8 ∨ c.bitDepth = 10) && within c.maxRefs 1 16 && within c.maxWidth 16 8192 &&
  within c.maxHeight 16 8192 && within c.maxLuma 256 8912896 && within c.maxKbps 1 300000 && within c.maxFps 1 240 && within c.consumers 0 1

/-- A flue's fields are in range (Table 7.8). -/
def flueRangeOk (f : FlueRec) : Bool :=
  within f.width 1 8 && within f.depth 16 1024 && within f.src 0 31 && within f.dst 0 31 && within f.srcPort 0 15 && within f.dstPort 0 15 &&
  decide (f.rxBase % 64 = 0) && within f.route 0 2 && (decide (f.route ≠ 2) || within f.hops 1 24)

/-- A group's fields are in range (Table 7.9); DECODERS may be empty only where every class named is CSI-2 raw. -/
def groupRangeOk (i : Image) (r : Nat) (g : GroupRec) : Bool :=
  within g.group 0 31 && decide (g.vat = r) && decide (g.scalers ≠ 0) && within g.maxSessions 1 256 && within g.floor 0 16 && within g.dramUnits 1 1008 &&
  (decide (g.decoders ≠ 0) || i.classes.all (fun c => decide (g.classes / 2 ^ c.cls % 2 = 0 ∨ c.codecs % 4 = 0)))

/-- Check 0x04 passes. -/
def fieldsOk (bs : List Byte) (i : Image) : Bool :=
  within i.modelBase 16 1023 && within i.modelUnits 1 1008 && i.portTarget.all (fun t => within t 50 65535) &&
  i.classes.all classOk && noRepeat (i.classes.map (·.cls)) &&
  i.regions.all (fun r =>
    let d := sectionOf bs 0x10 r.region
    decide (fieldAt d 0 1 = r.region) && decide (r.size ∈ [1, 2, 4, 8, 16, 32]) && within r.dramTarget 50 65535 && within r.dramBase 16 1023 &&
    within r.dramUnits 1 1008 && (upTo 32).all (fun k => decide (fieldAt d (8 + k) 1 < 32 ∨ fieldAt d (8 + k) 1 = 0xFF)) &&
    r.flues.all flueRangeOk && r.groups.all (groupRangeOk i r.region))

/-- Check 0x05 passes. -/
def hearthsOk (bs : List Byte) (i : Image) : Bool :=
  i.regions.all (fun r =>
    let d := sectionOf bs 0x10 r.region
    decide (((upTo 32).filter (fun k => fieldAt d (8 + k) 1 ≠ 0xFF)).length = r.size) &&
    r.hearths.all (· < 32) && (upTo (r.size - 1)).all (fun k => decide (r.hearths.getD k 0 < r.hearths.getD (k + 1) 0))) &&
  noRepeat (i.regions.flatMap (·.hearths))

/-- CLASS of bank `b` in a class map. -/
def mapClass (m b : Nat) : Nat := m / 4 ^ b % 4

/-- Check 0x06 passes (R199). -/
def banksOk (i : Image) : Bool :=
  i.regions.all (fun r =>
    r.banks.all (fun b => decide (b.1 ∈ r.hearths)) && noRepeat (r.banks.map (·.1)) &&
    r.banks.all (fun b => (upTo 32).all (fun k => decide (mapClass b.2 k ≠ 3) && (decide (mapClass b.2 k ≠ 2) || decide (8 ≤ k))) &&
      decide (4 ≤ ((upTo 32).filter (fun k => mapClass b.2 k = 1)).length)))

/-- The receive hoop lies in working banks among banks 0–6 of its hearth. -/
def rxOk (r : Region) (f : FlueRec) : Bool :=
  let m := ((r.banks.find? (fun b => b.1 = f.dst)).map (·.2)).getD 0
  let last := (f.rxBase + 64 * f.depth - 1) / 0x20000
  decide (last ≤ 6) && (upTo 7).all (fun b => decide (b < f.rxBase / 0x20000 ∨ last < b) || decide (mapClass m b = 1))

/-- Check 0x07 passes (R200). -/
def fluesOk (i : Image) : Bool :=
  let all := i.regions.flatMap (·.flues)
  noRepeat (all.map (·.flue)) && noRepeat (all.map (fun f => f.src * 16 + f.srcPort)) && noRepeat (all.map (fun f => f.dst * 16 + f.dstPort)) &&
  i.regions.all (fun r => r.flues.all (fun f =>
    decide (f.src ∈ r.hearths ∧ f.dst ∈ r.hearths ∧ f.src ≠ f.dst) && rxOk r f &&
    (match meshWalk (flueHops f) f.src with
      | none => false
      | some (links, e) => decide (e = f.dst) && noRepeat (links.map (fun l => l.1 * 4 + l.2))))) &&
  (upTo all.length).all (fun a => (upTo a).all (fun b =>
    match all[a]?, all[b]? with
    | some f, some g => decide (f.dst ≠ g.dst ∨ f.rxBase + 64 * f.depth ≤ g.rxBase ∨ g.rxBase + 64 * g.depth ≤ f.rxBase)
    | _, _ => true))

/-- Widths of the flues that `p` accepts. -/
def laneSum (fs : List FlueRec) (p : FlueRec → Bool) : Nat := ((fs.filter p).map (·.width)).foldl (· + ·) 0

/-- Check 0x08 passes (R201). -/
def lanesOk (i : Image) : Bool :=
  let all := i.regions.flatMap (·.flues)
  (upTo 32).all (fun h => decide (laneSum all (fun f => f.src = h) ≤ 8 ∧ laneSum all (fun f => f.dst = h) ≤ 8) &&
    (upTo 4).all (fun d => decide (laneSum all (fun f => decide ((h, d) ∈ flueLinks f)) ≤ 8)))

/-- Check 0x09 passes (R202). -/
def groupsOk (i : Image) : Bool :=
  let all := i.regions.flatMap (·.groups)
  noRepeat (all.map (·.group)) &&
  (upTo 16).all (fun d => decide ((all.filter (fun g => g.decoders / 2 ^ d % 2 = 1)).length ≤ 1)) &&
  (upTo 8).all (fun k => decide ((all.filter (fun g => g.scalers / 2 ^ k % 2 = 1)).length ≤ 1)) &&
  all.all (fun g => (upTo 16).all (fun c => decide (g.classes / 2 ^ c % 2 = 0) || i.classes.any (fun x => decide (x.cls = c)))) &&
  decide ((all.map (·.maxSessions)).foldl (· + ·) 0 ≤ 256)

/-- Partitions as (first unit, units): model store, vats, groups. -/
def partitions (i : Image) : List (Nat × Nat) :=
  (i.modelBase, i.modelUnits) :: i.regions.flatMap (fun r => (r.dramBase, r.dramUnits) :: r.groups.map (fun g => (g.dramBase, g.dramUnits)))

/-- Check 0x0A passes. -/
def partitionsOk (i : Image) : Bool :=
  let ps := partitions i
  ps.all (fun p => decide (16 ≤ p.1 ∧ p.1 + p.2 ≤ 1024)) &&
  (upTo ps.length).all (fun a => (upTo a).all (fun b =>
    match ps[a]?, ps[b]? with
    | some x, some y => decide (x.1 + x.2 ≤ y.1 ∨ y.1 + y.2 ≤ x.1)
    | _, _ => true))

/-- Check 0x0B passes: everything but region `r` equals the applied image; there is nothing to compare before an image has
been applied (Table 17.3). -/
def sameElsewhere (applied bs : List Byte) (r : Nat) : Bool :=
  decide (applied = []) ||
  (decide (sectionOf applied 0x01 0xFF = sectionOf bs 0x01 0xFF ∧ sectionOf applied 0x02 0xFF = sectionOf bs 0x02 0xFF) &&
    (upTo 32).all (fun k => decide (k = r) || [0x10, 0x11, 0x12, 0x13].all (fun t => decide (findSection applied t k = findSection bs t k))))

/-- Check 0x0C passes: every locked region has its locked digest (R214). -/
def locksOk (f : Fuses) (bs : List Byte) : Bool :=
  (upTo 32).all (fun r => !bit f.locked r || decide (regionDigest bs r = Table.get 0 f.digests r))

/-- DETAIL of the first check that fails in the order of R203; 0 when all pass. `named` is the region of a reload, none at
a start. -/
def imageCheck (b : Boot) (applied bs : List Byte) (named : Option Nat) : Nat :=
  let i := parseImage bs
  if !imgHeaderOk bs then 0x02
  else if !sigValid b (bs.take (imgSigOffset bs)) ((bs.drop (imgSigOffset bs)).take 512) then 0x01
  else if imgRollback bs < b.fuses.rollback then 0x0D
  else if !sectionsOk bs then 0x03
  else if !fieldsOk bs i then 0x04
  else if !hearthsOk bs i then 0x05
  else if !banksOk i then 0x06
  else if !fluesOk i then 0x07
  else if !lanesOk i then 0x08
  else if !groupsOk i then 0x09
  else if !partitionsOk i then 0x0A
  else if (named.map (fun r => !sameElsewhere applied bs r)).getD false then 0x0B
  else if !locksOk b.fuses bs then 0x0C
  else 0

/-- The status of a failed check (Table 7.10). -/
def imageStatus (detail : Nat) : Nat := if detail = 0x0B then 0x0302 else if detail = 0x0C then 0x0303 else 0x0301

end Sys2Proof.Machine
end

