-- ==== Sys2Proof/Machine/OpsCurd.lean ====
section
/-! DEFINITION. The assembler's waiting records (R321–R325) and the buckets' curds and alignment sets
(R301–R308). -/

namespace Sys2Proof.Machine
open Sys2Proof

/-! ### Waiting records -/

/-- The DEVICE-made frame record of a picture (Table 12.3, R324); FRAME, LATENCY and the picture's own flags are
put in when it is posted. -/
def deviceRecord (src : Nat) (ts : DWord) (status : Nat) : List Entry32 :=
  [entry32 [(0, 0x0010), (4, src), (7, 0x10), (8, ts.toNat), (16, status), (18, 0xFFFF)]]

/-- A waiting record opens as a placeholder (R323). -/
def openRec (src : Nat) (ts : DWord) (at_ : Nat) (estimated : Bool) (s : State) : State :=
  modAsm src (fun a => { a with
    claims := a.claims + 1
    waiting := a.waiting ++ [{ ts := ts, at_ := at_, claim := a.claims + 1, concealed := false, poisoned := false, estimated := estimated, filled := none, route := none }] }) s

/-- Change the first waiting record of `ts` that `p` accepts. -/
def modFirst (p : WaitRec → Bool) (f : WaitRec → WaitRec) : List WaitRec → List WaitRec
  | [] => []
  | w :: ws => if p w then f w :: ws else w :: modFirst p f ws

def modRec1 (src : Nat) (ts : DWord) (f : WaitRec → WaitRec) (s : State) : State :=
  modAsm src (fun a => { a with waiting := modFirst (fun w => decide (w.ts = ts)) f a.waiting }) s

/-- Fill the placeholder of a picture with a run of entries; without one nothing happens. -/
def fillRec (src : Nat) (ts : DWord) (run : List Entry32) (s : State) : State :=
  modAsm src (fun a => { a with
    waiting := modFirst (fun w => decide (w.ts = ts) && w.filled.isNone) (fun w => { w with filled := some run }) a.waiting }) s

/-- The assembler fills a placeholder itself (R324). -/
def fillDevice (src : Nat) (ts : DWord) (status : Nat) (s : State) : State := fillRec src ts (deviceRecord src ts status) s

/-- A record for an access unit that is never claimed. -/
def lostRec (src : Nat) (ts : DWord) (at_ status : Nat) (s : State) : State :=
  fillDevice src ts status (openRec src ts at_ false s)

/-- The placeholder of a picture waits unfilled. -/
def recOpen (s : State) (src : Nat) (ts : DWord) : Bool :=
  (s.asm src).waiting.any (fun w => decide (w.ts = ts) && w.filled.isNone)

/-! ### DRAM zero fill -/

/-- Zeros over a range of whole beats; lines of a FAILED channel are discarded and counted (R233, R237). -/
def dramZero (a len : Nat) (s : State) : State :=
  let failed := (upTo 32).any (fun c => decide ((s.chan c).state = .failed))
  let s := if failed then forEach (linesOf a len) (fun l s =>
      if chanFailed s (l * 128 % dramBytes) then
        modChan (chanOf (l * 128 % dramBytes)) (fun c => { c with eccUncorr := satAdd c.eccUncorr 1 }) s else s) s
    else s
  { s with dram := Table.drop (fun k => decide (a ≤ k ∧ k < a + len) && !chanFailed s k) s.dram
           dramPoison := Table.drop (fun k => decide (a ≤ 32 * k ∧ 32 * k < a + len) && !chanFailed s (32 * k)) s.dramPoison }

/-! ### Curds (R302, R304) -/

/-- Device address of a curd and of one of its slots. -/
def curdAddr (s : State) (b : Nat) (seq : Word) : Nat :=
  let k := s.bkt b
  groupBase s k.group + k.ringBase.toNat % 2 ^ 40 / 4096 * 4096 + seq.toNat % max k.curdCount 1 * k.curdBytes
def slotAddr (s : State) (b : Nat) (seq : Word) (i : Nat) : Nat :=
  curdAddr s b seq + (s.bkt b).hdrBytes + i * (s.bkt b).slotBytes

def modCurd (b : Nat) (seq : Word) (f : Curd → Curd) (s : State) : State :=
  modBkt b (fun k => { k with curds := k.curds.map (fun c => if c.seq = seq then f c else c) }) s
def modSlot (b : Nat) (seq : Word) (i : Nat) (f : CurdSlot → CurdSlot) (s : State) : State :=
  modCurd b seq (fun c => { c with slots := c.slots.zipIdx.map (fun p => if p.2 = i then f p.1 else p.1) }) s
def curdOf (s : State) (b : Nat) (seq : Word) : Option Curd := (s.bkt b).curds.find? (fun c => c.seq = seq)

/-- The bytes of a slot header (Table 11.3). -/
def CurdSlot.bytes (x : CurdSlot) : List Byte :=
  toBytes (pack 512 [(0, x.source), (16, x.kind), (24, x.output), (32, x.tag.toNat), (64, x.ts.toNat), (128, x.status),
    (144, x.flags), (160, x.h), (176, x.w), (192, x.c), (208, x.cx), (224, x.cy), (240, x.cw), (256, x.ch),
    (272, x.x0), (288, x.y0), (304, x.x1), (320, x.y1)] : BitVec 512) 64

/-- FILLED, VALID and the header block of a curd (Table 11.2). -/
def Curd.validMask (c : Curd) : Nat := (c.slots.zipIdx.map (fun p => if p.1.valid then 2 ^ p.2 else 0)).foldl (· + ·) 0
def curdHeader (b : Nat) (k : Bucket) (c : Curd) : List Byte :=
  toBytes (pack 512 [(0, c.seq.toNat), (32, b), (40, k.slots), (48, c.slots.length), (56, b2n c.short), (64, c.validMask),
    (128, k.slotBytes), (160, k.curdBytes), (192, (c.slots.headD CurdSlot.blank).ts.toNat)] : BitVec 512) 64
  ++ (upTo k.slots).flatMap (fun i => (c.slots.getD i CurdSlot.blank).bytes)

/-- The FILLING curd closes (Table 11.4). -/
def closeFilling (b : Nat) (s : State) : State :=
  match (s.bkt b).curds.find? (fun c => decide (c.state = .filling)) with
  | none => s
  | some c =>
    let short := decide (c.slots.length < (s.bkt b).slots)
    modBkt b (fun k => { k with
      short := if short then satAdd k.short 1 else k.short
      curds := k.curds.map (fun d => if d.seq = c.seq then { d with state := .closing, short := short } else d) }) s

/-- The frame record of the slot is the picture's own: output 0 of a picture, or an alignment member. -/
def CurdSlot.hasRecord (x : CurdSlot) : Bool :=
  decide (x.source ≠ 0xFFFF) && (decide (x.kind = 0 ∧ x.output = 0) || decide (x.kind = 2))

/-- Fill the open records of a curd's pictures with a status. -/
def fillCurd (c : Curd) (status : Nat) (s : State) : State :=
  forEach c.slots (fun x s => if x.hasRecord then fillDevice x.source x.ts status s else s) s

def removeCurd (b : Nat) (seq : Word) (s : State) : State :=
  modBkt b (fun k => { k with curds := k.curds.filter (fun c => c.seq ≠ seq) }) s

/-- A READY curd is freed untaken (Table 11.4). -/
def dropCurd (b : Nat) (c : Curd) (s : State) : State :=
  removeCurd b c.seq (fillCurd c 0x0606 (modBkt b (fun k => { k with dropped := satAdd k.dropped 1 }) s))

/-- A taken curd is released: pictures without a received record have no result (R307, R324). -/
def releaseCurd (b : Nat) (c : Curd) (s : State) : State := removeCurd b c.seq (fillCurd c 0x0703 s)

/-- Release every curd that a job holds (R307). -/
def releaseJobCurds (j : Nat) (s : State) : State :=
  forEach (upTo 16) (fun b s =>
    forEach (s.bkt b).curds (fun c s => if c.holder = some (BitVec.ofNat 16 j) then releaseCurd b c s else s) s) s

/-- The next curd's place in the ring is FREE. -/
def placeFree (k : Bucket) : Bool :=
  let n := max k.curdCount 1
  !k.curds.any (fun c => decide (c.seq.toNat % n = k.seqNext.toNat % n))

/-- Give the bucket a FILLING curd with `need` unassigned slots, or none where it must wait (R304–R306). `fuel`
bounds the curds that DROP frees. -/
def ensureRoomFuel : Nat → Nat → Nat → State → Option State
  | 0, _, _, _ => none
  | fuel + 1, b, need, s =>
    let k := s.bkt b
    match k.curds.find? (fun c => decide (c.state = .filling)) with
    | some c =>
      if c.slots.length + need ≤ k.slots then some s else ensureRoomFuel fuel b need (closeFilling b s)
    | none =>
      if need > k.slots then none
      else if placeFree k then
        some (modBkt b (fun k => { k with
          curds := k.curds ++ [{ seq := k.seqNext, state := .filling, slots := [], short := false, holder := none, takenBy := 0 }]
          seqNext := k.seqNext + 1 }) s)
      else if bit k.cfg 0 then
        match k.curds.find? (fun c => decide (c.state = .ready)) with
        | some c => ensureRoomFuel fuel b need (dropCurd b c s)
        | none => none
      else none
def ensureRoom (b need : Nat) (s : State) : Option State := ensureRoomFuel ((s.bkt b).curds.length + 2) b need s

/-- Append slots to the FILLING curd, closing it when the last is assigned. The first slot's index comes back. -/
def appendSlots (b : Nat) (xs : List CurdSlot) (s : State) : Word × Nat × State :=
  match (s.bkt b).curds.find? (fun c => decide (c.state = .filling)) with
  | none => (0, 0, s)
  | some c =>
    let s1 := modCurd b c.seq (fun d => { d with slots := d.slots ++ xs }) s
    let s2 := if c.slots.length + xs.length ≥ (s.bkt b).slots then closeFilling b s1 else s1
    (c.seq, c.slots.length, s2)

/-! ### Slot assignment (R301, R306) -/

/-- What a job's output gets. -/
inductive SlotAnswer where
  | closed
  | wait
  | slot (seq : Word) (i : Nat) (s : State)

/-- The alignment set in force on a bucket. -/
def setOf (s : State) (b : Nat) : Option Nat := (upTo 8).find? (fun a => (s.alignSet a).on && decide ((s.alignSet a).bucket = b))

def absDist (a b : DWord) : Nat := if a.toNat ≤ b.toNat then b.toNat - a.toNat else a.toNat - b.toNat

/-- The open block that a member picture fills: within TOL, its own slot empty, the nearest, the earlier on a tie. -/
def matchBlock (s : State) (a b m : Nat) (ts : DWord) : Option AlignBlock :=
  let x := s.alignSet a
  let ok := x.open_.filter (fun k => decide (absDist k.ts ts ≤ x.tol) &&
    (((curdOf s b k.seq).map (fun c => (c.slots.getD (k.first + m) CurdSlot.blank).reserved)).getD false))
  ok.foldl (fun best k => match best with
    | none => some k
    | some y => if absDist k.ts ts < absDist y.ts ts then some k else some y) none

/-- A block whose member slots are all assigned is closed. -/
def closeFull (a b : Nat) (s : State) : State :=
  modSet a (fun x =>
    let full := fun (k : AlignBlock) => ((curdOf s b k.seq).map (fun c =>
      (upTo x.count).all (fun m => !(c.slots.getD (k.first + m) CurdSlot.blank).reserved))).getD true
    { x with open_ := x.open_.filter (fun k => !full k),
             blocks := satAdd x.blocks (x.open_.filter full).length }) s

/-- Assign the next slot of bucket `b` to an output of a picture of `src` in group `g`. -/
def assignSlot (b g src output : Nat) (ts : DWord) (x : CurdSlot) (s : State) : SlotAnswer :=
  let k := s.bkt b
  if k.state ≠ .running ∨ k.group ≠ g then .closed else
  match setOf s b with
  | none =>
    match ensureRoom b 1 s with
    | none => .wait
    | some s =>
      let (seq, i, s) := appendSlots b [{ x with source := src, output := output, ts := ts }] s
      .slot seq i s
  | some a =>
    let y := s.alignSet a
    let m := y.members.findIdx (fun v => v = src)
    if m ≥ y.count then .closed else
    let x := { x with source := src, output := output, ts := ts, kind := 2 }
    match matchBlock s a b m ts with
    | some k => .slot k.seq (k.first + m) (closeFull a b (modSlot b k.seq (k.first + m) (fun _ => x) s))
    | none =>
      match ensureRoom b y.count s with
      | none => .wait
      | some s =>
        let blanks := (upTo y.count).map (fun i =>
          if i = m then x else { CurdSlot.blank with source := y.members.getD i 0, kind := 2, ts := ts, reserved := true })
        let (seq, i, s) := appendSlots b blanks s
        .slot seq (i + m) (closeFull a b (modSet a (fun y => { y with open_ := y.open_ ++ [{ seq := seq, first := i, ts := ts }] }) s))

end Sys2Proof.Machine
end

