-- ==== Sys2Proof/Machine/OpsMedia.lean ====
section
/-! DEFINITION. Snapshots, clips and encode jobs: checks, candidates, taking and finishing (R263–R267,
R327–R331). -/

namespace Sys2Proof.Machine
open Sys2Proof

/-- The queue pair of a request's route: NET names a control destination, whose queue pair it is (R394). -/
def routeQp (s : State) (route : Half) : Nat :=
  if bit route 15 then bits (cfgGet s (ethBase + 0x3100 + 0x20 * (route.toNat % 16))) 21 16 else bits route 5 0

def modReq (route : Half) (id : Word) (f : MediaReq → MediaReq) (s : State) : State :=
  modMedia (fun m => { m with requests := m.requests.map (fun r => if r.route = route ∧ r.reqId = id then f r else r) }) s
def findReq (s : State) (route : Half) (id : Word) : Option MediaReq :=
  s.media.requests.find? (fun r => decide (r.route = route ∧ r.reqId = id))
def dropReq (route : Half) (id : Word) (s : State) : State :=
  modMedia (fun m => { m with requests := m.requests.filter (fun r => ¬(r.route = route ∧ r.reqId = id)) }) s

/-- Open encode jobs (R263, Table 12.7). -/
def encJobs (s : State) : Nat := (s.media.requests.filter (fun r => decide (r.state ≠ .pending))).length

/-- A media-done entry (Table 12.8). -/
def doneEntry (reqId : Word) (status pictures bytes first last : Nat) : Entry32 :=
  entry32 [(0, 0x0006), (4, reqId.toNat), (8, status), (10, min pictures 65535), (12, bytes), (16, first), (24, last)]
def postDone (r : MediaReq) (s : State) : State :=
  postMsg (routeQp s r.route) .kept (doneEntry r.reqId r.status r.pictures r.bytes r.firstTs.toNat r.lastTs.toNat) s
/-- A refused request's media-done entry (R327). -/
def refuseReq (route : Half) (reqId : Word) (status : Nat) (s : State) : State :=
  postMsg (routeQp s route) .kept (doneEntry reqId status 0 0 0 0) s

/-! ### The encode parameter block (Table 9.7, R264) -/

def encCodec (p : List Byte) : Nat := fieldAt p 0 1
def encMode (p : List Byte) : Nat := fieldAt p 1 1
def encWidth (p : List Byte) : Nat := fieldAt p 2 2
def encHeight (p : List Byte) : Nat := fieldAt p 4 2
def encTicks (p : List Byte) : Nat := fieldAt p 6 4
def encRate (p : List Byte) : Nat := fieldAt p 10 4
def encCpb (p : List Byte) : Nat := fieldAt p 14 4
def encDelay (p : List Byte) : Nat := fieldAt p 18 4
def encQpMin (p : List Byte) : Nat := fieldAt p 22 1
def encQpMax (p : List Byte) : Nat := fieldAt p 23 1
def encIdrPeriod (p : List Byte) : Nat := fieldAt p 26 2
def encQuality (p : List Byte) : Nat := fieldAt p 28 1
def encMaxBytes (p : List Byte) : Nat := fieldAt p 30 4

/-- CTUs or macroblocks U of a picture (R264). -/
def encUnits (p : List Byte) : Nat :=
  if encCodec p = 1 then cdiv (encWidth p) 64 * cdiv (encHeight p) 64 else cdiv (encWidth p) 16 * cdiv (encHeight p) 16

/-- The block keeps to Table 9.7 and R264, and has the display size rounded up to even (R327). -/
def encParamOk (p : List Byte) (dispW dispH : Nat) : Bool :=
  let codec := encCodec p
  let size := decide (codec ≤ 2 ∧ encWidth p % 2 = 0 ∧ 64 ≤ encWidth p ∧ encWidth p ≤ 8192 ∧ encHeight p % 2 = 0 ∧
    64 ≤ encHeight p ∧ encHeight p ≤ 8192 ∧ encWidth p = (dispW + 1) / 2 * 2 ∧ encHeight p = (dispH + 1) / 2 * 2)
  let ticks := decide (1 ≤ encTicks p ∧ encTicks p ≤ 90000)
  if codec = 2 then size && ticks && decide (1 ≤ encQuality p ∧ encQuality p ≤ 100 ∧ 1024 ≤ encMaxBytes p)
  else
    let common := ticks && decide (encMode p ≤ 2 ∧ encQpMin p ≤ encQpMax p ∧ encQpMax p ≤ 51 ∧ 1 ≤ encIdrPeriod p)
    let rate :=
      if encMode p = 0 then decide (fieldAt p 24 1 ≤ 51 ∧ fieldAt p 25 1 ≤ 51)
      else
        -- b_pic in 1/90 bit is BITRATE × FRAME_TICKS
        let b90 := encRate p * encTicks p
        decide (100 ≤ encRate p ∧ encRate p ≤ 100000 ∧ b90 ≥ 90 * (4 * encUnits p + 2048) ∧
          90 * encCpb p ≥ 2 * b90 ∧ encDelay p ≥ encTicks p ∧ encDelay p * encRate p ≤ encCpb p * 90)
    size && common && rate

/-! ### Encode cores (R263, R267) -/

/-- Give waiting pictures to free cores, requests first come, first served. -/
def assignEnc (s : State) : State :=
  forEach (s.media.requests.map (fun r => (r.route, r.reqId))) (fun k s =>
    match findReq s k.1 k.2 with
    | none => s
    | some r =>
      if r.core.isSome || r.queue.isEmpty then s else
      match (upTo 4).find? (fun e => decide ((s.enc e).state = .idle)) with
      | none => s
      | some e => modEnc e (fun x => { x with state := .busy }) (modReq k.1 k.2 (fun r => { r with core := some e }) s)) s

/-- A core's picture is done: BUSY to IDLE, or the latched disable (Table 9.6). -/
def encFree (e : Nat) (s : State) : State :=
  modEnc e (fun x => { x with state := match x.state with
    | .busy => .idle
    | .stopping => .disabled
    | .stoppingPendingEnable => .idle
    | y => y }) s

/-- FINISHING ends once no picture is in encode: the media-done entry is posted, the mark and the encode job are
released (Table 12.7). -/
def reqSettle (route : Half) (id : Word) (s : State) : State :=
  match findReq s route id with
  | none => s
  | some r =>
    if r.state = .finishing ∧ r.queue = [] then
      let s := match r.cand with
        | some h => mark h .useDown s
        | none => s
      postDone r (dropReq route id s)
    else s

/-- CLIP_STOP, a session leaving RUNNING: no further clip time is taken. Pictures not yet on a core are given back.
A clip stopped in PENDING by its session ends with ST_STREAM_CLOSED (R331). -/
def reqStop (r : MediaReq) (closed : Bool) (s : State) : State :=
  let keep := r.queue.take (b2n r.core.isSome)
  let s := forEach (r.queue.drop keep.length) (fun p s => mark p.handle .useDown s) s
  let status := if r.state = .pending ∧ closed then 0x0404 else r.status
  reqSettle r.route r.reqId (modReq r.route r.reqId (fun x => { x with
    state := .finishing, queue := keep, status := status }) s)

def stopSessionReqs (ses : Nat) (s : State) : State :=
  forEach (s.media.requests.filter (fun r => decide (r.ses = ses ∧ r.state ≠ .finishing))) (fun r s => reqStop r true s) s

/-- Queue a picture for encoding, with its own USE mark. -/
def takePicture (route : Half) (id : Word) (h : Word) (idr : Bool) (s : State) : State :=
  let p : EncPic := { handle := h, ts := (s.buffer h).ts, idr := idr, tries := 0, qp := 0, fallback := false }
  assignEnc (modReq route id (fun r => { r with queue := r.queue ++ [p] }) (mark h .useUp s))

/-- A snapshot takes its picture (R328): RECORDING, or refused where 16 encode jobs are open or the picture is
poisoned (Table 16.2). -/
def snapTake (r : MediaReq) (h : Word) (s : State) : State :=
  if encJobs s ≥ 16 then reqSettle r.route r.reqId (modReq r.route r.reqId (fun x => { x with state := .finishing, status := 0x0804 }) s)
  else
    let s := modReq r.route r.reqId (fun x => { x with
      state := .recording, status := if (s.buffer h).poisoned then 0x0B02 else 0, t0 := (s.buffer h).ts }) s
    takePicture r.route r.reqId h true s

/-- Timestamp of clip time n (R329). -/
def clipTime (r : MediaReq) (n : Nat) : Nat := r.t0.toNat + n * encTicks r.params

/-- Move the clip's USE mark to a new candidate. -/
def setCand (r : MediaReq) (h : Word) (s : State) : State :=
  if r.cand = some h then s else
  let s := mark h .useUp s
  let s := match r.cand with
    | some o => mark o .useDown s
    | none => s
  modReq r.route r.reqId (fun x => { x with cand := some h }) s

/-- A picture written to DRAM completes: the requests on its session look at it (R328, R329). -/
def offerPicture (ses : Nat) (h : Word) (s : State) : State :=
  forEach (s.media.requests.filter (fun r => decide (r.ses = ses))) (fun r s =>
    let b := s.buffer h
    match r.state with
    | .finishing => s
    | .pending =>
      if !r.clip then snapTake r h s
      else if b.poisoned ∨ b.ts.toNat < r.time.toNat then s
      else if encJobs s ≥ 16 then
        reqSettle r.route r.reqId (modReq r.route r.reqId (fun x => { x with state := .finishing, status := 0x0804 }) s)
      else if b.ts.toNat ≥ r.endTs.toNat then
        reqSettle r.route r.reqId (modReq r.route r.reqId (fun x => { x with state := .finishing }) s)
      else setCand r h (modReq r.route r.reqId (fun x => { x with state := .recording, t0 := b.ts, n := 0 }) s)
    | .recording =>
      if !r.clip || b.poisoned then s
      else
        let old := ((r.cand.map (fun c => (s.buffer c).ts.toNat))).getD 0
        if b.ts.toNat ≤ clipTime r r.n ∧ old < b.ts.toNat then setCand r h s else s) s

end Sys2Proof.Machine
end

