-- ==== Sys2Proof/Machine/OpsVideo.lean ====
section
/-! DEFINITION. Sessions, pictures and decode cores: opening and stopping, access units arriving, claiming,
completing, concealing (R240–R262), and the RTSP side of opening a session (R390). -/

namespace Sys2Proof.Machine
open Sys2Proof

def modEther (f : Ether → Ether) (s : State) : State := { s with ether := f s.ether }
def State.rtp (s : State) (i : Nat) : Rtp := Table.get Rtp.dflt s.ether.rtps i
def modRtp (i : Nat) (f : Rtp → Rtp) (s : State) : State :=
  modEther (fun e => { e with rtps := Table.mod Rtp.dflt e.rtps i f }) s

/-! ### RTSP with a session (R390) -/

/-- Send an RTSP request with the session's descriptor, read from its group's partition. -/
def rtspSend (ses : Nat) (req : RtspReq) (s : State) : State :=
  let r := s.rtp ses
  let d := dramBytesAt s (groupBase s (s.ses ses).group + r.rtspAddr.toNat % 2 ^ 40 / 256 * 256) 256
  emit (.rtsp (bits r.cfg 29 27) ses req d) s

/-- A session enters RUNNING: its ETH_RTP_ registers are sampled, and the client starts. Counters are kept. -/
def rtpOpen (ses : Nat) (s : State) : State :=
  let off := ethBase + 0x1000 + 0x20 * ses
  let cfg := cfgGet s off
  let eth := decide (bits (s.ses ses).cfg 25 24 = 0)
  let s := modRtp ses (fun r => { Rtp.dflt with
    cfg := cfg, ssrcReq := cfgGet s (off + 4), rtspAddr := cfgGet64 s (off + 8), lost := r.lost, late := r.late, overflow := r.overflow
    rtsp := if eth && bit cfg 31 then 1 else 0 }) s
  if eth && bit cfg 31 then rtspSend ses .describe s else s

/-- The session enters STOPPING: TEARDOWN is sent; a partial access unit is lost with the reception. -/
def rtpStop (ses : Nat) (s : State) : State :=
  let s := if (s.rtp ses).rtsp = 3 ∨ (s.rtp ses).rtsp = 2 then rtspSend ses .teardown s else s
  modRtp ses (fun r => { Rtp.dflt with cfg := r.cfg, lost := r.lost, late := r.late, overflow := r.overflow }) s

/-! ### Session states (Table 9.4) -/

def vcdSes (i : Nat) : Nat := vcdBase + 0x10000 + 0x40 * i

/-- Count a stream fault of the session's class in soot (Table 16.6). -/
def streamFault (ses k : Nat) (s : State) : State :=
  let i := (s.ses ses).cls * 4 + k
  modSoot (fun t => { t with streamFaults := Table.mod 0 t.streamFaults i (fun x => satAdd x 1) }) s

/-- The first failed open check of Table 9.3, on the registers as they stand; 0 when all pass. -/
def openCheck (s : State) (i : Nat) : Nat :=
  let cfg := cfgGet s (vcdSes i)
  let g := bits cfg 20 16
  let base := (cfgGet64 s (vcdSes i + 0x10)).toNat % 2 ^ 40 / 4096 * 4096
  let size := (cfgGet s (vcdSes i + 0x18)).toNat
  match groupOf s g with
  | none => 1
  | some r =>
    let c := bits cfg 11 8
    let codecs : Nat := ((classOf s c).map (·.codecs)).getD 0
    if ¬ r.classes.testBit c ∨ ¬ codecs.testBit (bits cfg 0 0) then 2
    else if ((upTo 256).filter (fun j => decide (j ≠ i ∧ (s.ses j).state ≠ .closed ∧ (s.ses j).group = g))).length ≥ r.maxSessions then 3
    else if ((upTo 256).filter (fun j => decide (j ≠ i ∧ (s.ses j).state ≠ .closed))).length ≥ 256 then 4
    else if bits cfg 25 24 > 1 ∨ size % 4096 ≠ 0 ∨ size < 0x10000 ∨ 0x4000000 < size ∨ base + size > r.dramUnits * unitBytes then 5
    else 0

/-- ENABLE in CLOSED (R247): RUNNING with its registers sampled, or refused with the reason. -/
def sesOpen (i : Nat) (s : State) : State :=
  match openCheck s i with
  | 0 =>
    let cfg := cfgGet s (vcdSes i)
    let base := cfgGet64 s (vcdSes i + 0x10)
    let size := (cfgGet s (vcdSes i + 0x18)).toNat
    let s := modSes i (fun x => { Session.dflt with
      state := .running, cfg := cfg, hoopBase := base, hoopSize := size
      concealedCount := x.concealedCount, pictures := x.pictures, dropped := x.dropped }) s
    rtpOpen i (modAsm i (fun a => { a with frame := 0, lastTs := none, posted := [] }) s)
  | d =>
    postStatus { status := 0x0401, detail := d, kind := 1, id := i }
      (modSes i (fun x => { x with state := .closed, reason := BitVec.ofNat 8 d }) s)

/-- RUNNING to STOPPING: unclaimed access units are discarded with their records, and the session's requests stop. -/
def sesStop (i : Nat) (s : State) : State :=
  let x := s.ses i
  let s := modSes i (fun x => { x with state := .stopping, aus := [] }) s
  let s := forEach x.aus (fun a s => if x.quiet then s else lostRec i a.ts a.at_ 0x0404 s) s
  rtpStop i (stopSessionReqs i s)

/-- A check of R247 or R248 fails after opening: FAULTED, no later records. -/
def sesFault (i reason : Nat) (s : State) : State :=
  let s := streamFault i (if reason ∈ [0x0B, 0x0C] then 1 else 0) s
  stopSessionReqs i (modSes i (fun x => { x with
    state := if x.state = .running then .faulted else x.state, reason := BitVec.ofNat 8 reason, quiet := true }) s)

/-- A stopping session ends once its picture is done: its reference and output marks are cleared. -/
def sesClear (i : Nat) (s : State) : State :=
  let x := s.ses i
  let s := forEach x.dpb (fun d s => match d.buf with
    | some h => if handleOk s x.group h then mark h .refDown s else s
    | none => s) s
  let s := modSes i (fun x => { x with dpb := [] }) s
  let outs := (s.pool x.group).buffers.filter (fun p => decide (p.2.state = .held ∧ p.2.ses = i) && p.2.out)
  let s := forEach outs (fun p s => mark (handleOf x.group (p.1 / 4096) (p.1 % 4096) p.2.gen) .outClear s) s
  modPool x.group (fun q => { q with buffers := Table.remap Buffer.dflt (fun _ b =>
    if b.state = .held ∧ b.ses = i then { b with old := true } else b) q.buffers }) s

/-- SESSION_STOP_COMPLETE: CLOSED with its floor returned, or reopened. -/
def sesFinish (i : Nat) (s : State) : State :=
  let x := s.ses i
  let g := x.group
  let s := sesClear i s
  let s := modSes i (fun y => { y with state := .closed, head := 0, tail := 0, scan := 0, hoopSize := 0, aus := [] }) s
  let s := poolGrant g s
  if x.state = .stoppingPendingEnable then sesOpen i s else s

/-! ### Access units (R245, R246, R248) -/

/-- Step 1 completes for an access unit (R17): its window of R248 is counted, and a limit faults the session with
it. A session that is not RUNNING discards it, with a record unless it has been FAULTED (R23). -/
def auArrive (i : Nat) (a : Au) (s : State) : State :=
  let x := s.ses i
  match x.state with
  | .closed | .faulted => s
  | .stopping | .stoppingPendingEnable => if x.quiet then s else lostRec i a.ts a.at_ 0x0404 s
  | .running =>
    let w := a.ts.toNat / 90000
    let old := (x.windows.find? (fun p => p.1 = w)).getD (w, 0, 0)
    let win := (w, old.2.1 + a.len, old.2.2 + 1)
    let a := { a with order := s.media.nextAu }
    let s := modMedia (fun m => { m with nextAu := m.nextAu + 1 }) s
    let s := modSes i (fun x => { x with windows := win :: x.windows.filter (fun p => p.1 ≠ w) }) s
    let c := classOf s x.cls
    let kbps := (c.map (·.maxKbps)).getD 0
    let fps := (c.map (·.maxFps)).getD 0
    if 2 * win.2.1 > 375 * kbps then sesFault i 0x09 (lostRec i a.ts a.at_ 0x0402 s)
    else if win.2.2 > 3 * fps / 2 then sesFault i 0x0A (lostRec i a.ts a.at_ 0x0402 s)
    else modSes i (fun x => { x with aus := x.aus ++ [a] }) s

/-- Find the access units between `scan` and TAIL in the hoop (Table 9.2); `fuel` bounds the records. -/
def scanFuel : Nat → Nat → State → State
  | 0, _, s => s
  | fuel + 1, i, s =>
    let x := s.ses i
    let left := seqDist x.tail x.scan
    if left < 16 ∨ seqDist x.tail x.head < seqDist x.scan x.head then s else
    let at_ := x.scan.toNat % max x.hoopSize 1
    let base := groupBase s x.group + x.hoopBase.toNat % 2 ^ 40 / 4096 * 4096
    let h := dramBytesAt s (base + at_) 16
    if fieldAt h 0 4 = 0xFFFFFFFF then
      let skip := x.hoopSize - at_
      if left < skip then s
      else scanFuel fuel i (modSes i (fun x => { x with scan := x.scan + BitVec.ofNat 32 skip }) s)
    else
      let len := fieldAt h 0 4
      let padded := cdiv (16 + len) 64 * 64
      if left < padded then s else
      let a : Au :=
        { pos := x.scan, padded := padded, len := len, ts := BitVec.ofNat 64 (fieldAt h 4 8), discontinuity := (byteAt h 12).getLsbD 0,
          eos := (byteAt h 12).getLsbD 1, order := 0, at_ := s.now }
      scanFuel fuel i (auArrive i a (modSes i (fun x => { x with scan := x.scan + BitVec.ofNat 32 padded }) s))

/-- TAIL advances to `t`, and access units that end at or before it complete step 1. -/
def advanceTail (i : Nat) (t : Word) (s : State) : State :=
  let n := seqDist t (s.ses i).scan
  scanFuel (n / 64 + 1) i (modSes i (fun x => { x with tail := t }) s)

/-! ### What the parser finds (R240, R242, R247) -/

/-- A random access point: IDR, CRA, BLA, or an H.264 I picture with a recovery point of count 0 (R242, R260). -/
def rapOf (h265 : Bool) (p : PicParse) : Bool := p.irap || (!h265 && p.intra && decide (p.recovery = some 0))

/-- The temporal layer (R242). -/
def layerOf (h265 : Bool) (p : PicParse) : Nat := if h265 then p.temporal else b2n p.nonRef

/-- A parameter set keeps to Table 9.1. -/
def toolsOk (p : Sps) : Bool :=
  decide (p.chroma = 1) &&
  (if p.h265 then !p.highTier && (match p.profile with
      | .main => decide (p.depth = 8)
      | .main10 => decide (p.depth = 8 ∨ p.depth = 10)
      | .constrainedBaseline | .baseline | .high | .other => false)
    else p.frameMbsOnly && decide (p.depth = 8) && (match p.profile with
      | .constrainedBaseline | .baseline | .main | .high => true
      | .main10 | .other => false))

/-- The parameter set that a picture activates: the newest one at an IDR or IRAP picture, or at the first picture of a
stream (R247). -/
def activates (x : Session) (p : PicParse) : Option Sps :=
  if p.irap ∨ x.sps = none then p.sps <|> x.nextSps else none

/-! ### Reference pictures and concealment (R257–R261) -/

/-- HELD buffers of the session's stream, as handles. -/
def heldOf (s : State) (i : Nat) : List Word :=
  let g := (s.ses i).group
  ((s.pool g).buffers.filter (fun p => decide (p.2.state = .held ∧ p.2.ses = i ∧ p.2.old = false))).map
    (fun p => handleOf g (p.1 / 4096) (p.1 % 4096) p.2.gen)

/-- The substitute for a missing reference of a picture in layer `l`: the latest in decode order of that layer, else of
the highest lower layer that holds one, else mid-grey (R257). -/
def substitute (s : State) (i l : Nat) : Option Word :=
  let hs := (heldOf s i).filter (fun h => decide ((s.buffer h).layer ≤ l))
  hs.foldl (fun best h => match best with
    | none => some h
    | some b =>
      let x := s.buffer h
      let y := s.buffer b
      if y.layer < x.layer ∨ (x.layer = y.layer ∧ y.order < x.order) then some h else some b) none

/-- Give a substitute to every named reference that is not present. -/
def fillMissing (i : Nat) (p : PicParse) (s : State) : State :=
  forEach p.refs (fun n s =>
    if (s.ses i).dpb.any (fun d => decide (d.name = n)) then s else
    let sub := substitute s i (layerOf (s.ses i).h265 p)
    let s := match sub with
      | some h => mark h .refUp s
      | none => s
    modSes i (fun x => { x with
      dpb := x.dpb ++ [{ name := n, buf := sub, concealed := true }]
      pic := x.pic.map (fun q => { q with subst := true, concealed := true }) }) s) s

/-- The standard's marking after the picture: entries no longer kept are cleared. -/
def applyMarking (i : Nat) (p : PicParse) (s : State) : State :=
  let gone := (s.ses i).dpb.filter (fun d => decide (d.name ∉ p.keep ∧ d.name ≠ p.name))
  let s := modSes i (fun x => { x with dpb := x.dpb.filter (fun d => decide (d.name ∈ p.keep ∨ d.name = p.name)) }) s
  let s := forEach gone (fun d s => match d.buf with
    | some h => if handleOk s (s.ses i).group h then mark h .refDown s else s
    | none => s) s
  forEach (heldOf s i) (fun h s =>
    let b := s.buffer h
    if b.out && decide (b.name ∈ p.outs) then mark h .outClear s else s) s

/-- The bytes of a mid-grey picture. -/
def greyByte (depth off : Nat) : Byte := if depth = 8 then 0x80 else if off % 2 = 0 then 0 else 0x80

/-- A run of bytes of the picture that an entry names. -/
def refBytes (s : State) (depth : Nat) (h : Option Word) (off len : Nat) : List (Byte × Bool) :=
  match h with
  | some h => dramRead s (handleAddr s h + off) len
  | none => (upTo len).map (fun k => (greyByte depth (off + k), false))

/-- What a decode core writes for a block: its samples, of which a 10-bit one leaves its low bits zero (R243), with poison where a reference read is poisoned (R261), or
the co-located bytes of the substitute (R258). -/
def blockBytes (s : State) (i : Nat) (p : PicParse) (depth : Nat) (b : PicBlock) : List (Byte × Bool) :=
  match b.samples with
  | some d =>
    let bad := b.reads.any (fun r => match (s.ses i).dpb.find? (fun e => decide (e.name = r.name)) with
      | some e => (refBytes s depth e.buf r.off r.len).any (·.2)
      | none => false)
    (fitBytes b.len d).zipIdx.map (fun x => (if depth ≠ 8 ∧ (b.off + x.2) % 2 = 0 then x.1 &&& 0xC0 else x.1, bad))
  | none => refBytes s depth (substitute s i (layerOf (s.ses i).h265 p)) b.off b.len

/-- The flags a block gives its picture (R258, R259, R261). -/
def blockFlags (s : State) (i : Nat) (bs : List (List (Byte × Bool))) (blocks : List PicBlock) (p : Pic) : Pic :=
  let broken := blocks.any (fun b => b.samples.isNone)
  let fromConcealed := blocks.any (fun b => b.reads.any (fun r =>
    (s.ses i).dpb.any (fun e => decide (e.name = r.name) && e.concealed)))
  { p with
    anyOk := p.anyOk || blocks.any (fun b => b.samples.isSome)
    broken := p.broken || broken
    concealed := p.concealed || broken || fromConcealed
    poisoned := p.poisoned || bs.any (fun l => l.any (·.2)) }

/-- The geometry of a session's active parameter set. -/
def sesGeom (x : Session) : Geom :=
  match x.sps with
  | none => Geom.zero
  | some p => { width := p.width, height := p.height, dispX := p.dispX, dispY := p.dispY, dispW := p.dispW, dispH := p.dispH, depth := p.depth }

/-! ### A picture ends -/

/-- HEAD moves past a parsed access unit; in FAULTED it stops (Table 9.4). -/
def passHead (a : Au) (x : Session) : Session :=
  if x.state = .faulted then x else { x with head := a.pos + BitVec.ofNat 32 a.padded }

/-- END_OF_STREAM takes a RUNNING session to STOPPING. -/
def endStream (i : Nat) (a : Au) (s : State) : State :=
  if a.eos ∧ (s.ses i).state = .running then sesStop i (modSes i (fun x => { x with ended := true }) s) else s

/-- A claimed picture is dropped: its record takes the status, its marking still applies (R255). -/
def dropPicture (i status : Nat) (s : State) : State :=
  match (s.ses i).pic with
  | none => s
  | some p =>
    let s := match p.handle with
      | some h => dropBuffer h s
      | none => s
    let s := fillDevice i p.au.ts status s
    let s := modSes i (fun x => passHead p.au { x with pic := none, dropped := if status ∈ [0x0501, 0x0502] then satAdd x.dropped 1 else x.dropped }) s
    endStream i p.au (applyMarking i p.parse s)

/-- SCL_HOLD of a group, at most 1,000 ms. -/
def holdMs (s : State) (g : Nat) : Nat := min (bits (cfgGet s (sclBase + 0x410 + 0x20 * g)) 9 0) 1000

/-- A picture of the session completes: marks, flags, statuses, counters, and its consumers (R254, R259, R271, R282). -/
def completePicture (i : Nat) (s : State) : State :=
  match (s.ses i).pic with
  | none => s
  | some p =>
    let x := s.ses i
    let g := x.group
    let failed := !p.anyOk
    let s := modRec1 i p.au.ts (fun w => { w with concealed := p.concealed, poisoned := p.poisoned }) s
    -- once per GOP (R259)
    let s := if p.subst && !x.postedMissing then
        postStatus { status := 0x0405, kind := 1, id := i, ts := p.au.ts.toNat } (streamFault i 2 (modSes i (fun x => { x with postedMissing := true }) s)) else s
    let s := if p.broken && !x.postedError then
        postStatus { status := 0x0406, kind := 1, id := i, ts := p.au.ts.toNat } (streamFault i 3 (modSes i (fun x => { x with postedError := true }) s)) else s
    let s := modSes i (fun x => passHead p.au { x with
      pic := none, nextOrder := x.nextOrder + 1, pictures := satAdd x.pictures 1, lateTs := max x.lateTs p.au.ts.toNat, concealing := x.concealing || p.concealed
      concealedCount := if p.concealed then satAdd x.concealedCount 1 else x.concealedCount }) s
    let job : ScJob :=
      { kind := .whole, group := g, source := i, ts := p.au.ts, pix := .nothing, geom := sesGeom x, concealed := p.concealed, poisoned := p.poisoned,
        failed := failed, estimated := false, crop := none, prog := [], started := false, slots := [], rows := [], rowPoison := [],
        credits := 0, queued := 0, complete := false, readyAt := s.now, waitAt := none }
    let s := match p.handle with
      | none =>
        -- streamed: the job already held learns that its last row has been sent
        applyMarking i p.parse (match p.scaler with
          | none => s
          | some k => modScl k (fun c => { c with jobs := c.jobs.map (fun j =>
              if j.kind = .streamed ∧ j.source = i ∧ j.ts = p.au.ts then { j with complete := true, concealed := p.concealed, poisoned := p.poisoned, failed := failed } else j) }) s)
      | some h =>
        let crop := ((classOf s x.cls).map (·.consumers)).getD 0 = 1 ∧ holdMs s g > 0
        let isRef := !p.parse.nonRef
        let s := modBuffer h (fun b => { b with
          state := .held, ts := p.au.ts, order := x.nextOrder, name := p.parse.name, layer := layerOf x.h265 p.parse, ref := b2n isRef, out := p.parse.holdOut
          use := if crop then 2 else 1, concealed := p.concealed, poisoned := p.poisoned, failed := failed, geom := sesGeom x }) s
        let s := if isRef then modSes i (fun x => { x with dpb := x.dpb ++ [{ name := p.parse.name, buf := some h, concealed := p.concealed }] }) s else s
        let s := if crop then modMedia (fun m => { m with holds := m.holds ++ [(i, p.au.ts)] }) s else s
        let s := applyMarking i p.parse s
        let s := offerPicture i h s
        modGrp g (fun y => { y with ready := y.ready ++ [{ job with pix := .buffer h }] }) s
    endStream i p.au s

/-! ### Claiming (R252, R253) -/

/-- Cores at work on a session. -/
def coresOn (s : State) (i : Nat) : Nat :=
  ((upTo 16).filter (fun c => decide (((s.dec c).work.map (·.1)) = some i))).length

/-- Units of the picture that may be given out: all at once with SPLIT, else one. -/
def picUnits (x : Session) (p : Pic) : Nat := if bit x.cfg 31 then max p.parse.units.length 1 else 1

/-- A session of group `g` whose divided picture has a unit to give and room for a core. -/
def splitWork (s : State) (g : Nat) : Option Nat :=
  (upTo 256).find? (fun i =>
    let x := s.ses i
    decide (x.group = g) && (match x.pic with
      | some p => decide (p.stage = .decoding ∧ 0 < p.given ∧ p.given < picUnits x p ∧ coresOn s i < bits x.cfg 30 28 + 1)
      | none => false))

/-- The arrival order of the picture that a core could claim from a session: one whose buffer has been granted while no core held
it, or else the oldest waiting access unit of a RUNNING session with no picture in decode and fewer than 256 waiting records
(R252, R323). -/
def claimKey (s : State) (g i : Nat) : Option Nat :=
  let x := s.ses i
  if x.group ≠ g then none else
  match x.pic with
  | some p => if p.stage = .granted then some p.au.order else none
  | none =>
    if !groupPaused s g && decide (x.state = .running ∧ (s.asm i).waiting.length < 256) then x.aus.head?.map (·.order) else none

/-- The session whose picture arrived first, the lower number on a tie (R252). -/
def nextSession (s : State) (g : Nat) : Option Nat :=
  ((upTo 256).foldl (fun (best : Option (Nat × Nat)) i => match best, claimKey s g i with
    | none, some k => some (k, i)
    | some b, some k => if k < b.1 then some (k, i) else some b
    | b, none => b) none).map (·.2)

/-- The first failed check of a parameter set that is activated, or of a slice (Table 9.3); 0 when none. -/
def spsCheck (s : State) (x : Session) (p : PicParse) : Nat :=
  let q := activates x p
  let limits := match q, classOf s x.cls with
    | some q, some c =>
      if q.width > c.maxWidth ∨ q.height > c.maxHeight ∨ q.width * q.height > c.maxLuma then 6
      else if q.depth > c.bitDepth then 7
      else if q.refs > c.maxRefs then 8 else 0
    | _, _ => 0
  if limits ≠ 0 then limits
  else if p.sliceGroups || p.redundant || !((p.sps.map toolsOk).getD true) || !((q.map toolsOk).getD true) then 0x0B
  else if ((q.map (·.h265)).getD x.h265) ≠ x.h265 then 0x0C else 0

/-- The lowest-numbered scaler of a group with a free job slot that takes jobs (R283). -/
def freeScaler (s : State) (g : Nat) : Option Nat :=
  (upTo 8).find? (fun k => let c := s.scl k
    decide (c.group = g ∧ (c.state = .idle ∨ c.state = .busy) ∧ c.jobs.length < 4))

/-- A streamed picture takes a job slot, with two row credits (R283). -/
def takeScalerSlot (i : Nat) (s : State) : State :=
  match (s.ses i).pic with
  | none => s
  | some p =>
    let x := s.ses i
    match freeScaler s x.group with
    | none => modSes i (fun x => { x with pic := some { p with stage := .waitSlot } }) s
    | some k =>
      let job : ScJob :=
        { kind := .streamed, group := x.group, source := i, ts := p.au.ts, pix := .rows, geom := sesGeom x, concealed := false, poisoned := false,
          failed := false, estimated := false, crop := none, prog := [], started := false, slots := [], rows := [], rowPoison := [], credits := 2,
          queued := 0, complete := false, readyAt := s.now, waitAt := none }
      let s := modScl k (fun c => { c with jobs := c.jobs ++ [job], state := if c.state = .idle then .busy else c.state }) s
      modSes i (fun x => { x with pic := some { p with stage := .decoding, scaler := some k } }) s

/-- The core takes unit `n` of the session's picture: it is BUSY. -/
def giveUnit (core i : Nat) (s : State) : State :=
  match (s.ses i).pic with
  | none => s
  | some p =>
    modDec core (fun d => { d with state := .busy, work := some (i, p.given) })
      (modSes i (fun x => { x with pic := some { p with given := p.given + 1 } }) s)

/-- A core's claim ends: BUSY to IDLE, or the latched disable; UNBOUND when a reload took it, and IDLE again in the
group that has it now (Table 9.6). -/
def coreDone (core : Nat) (s : State) : State :=
  let g := groupOfDecoder s core
  modDec core (fun d => { d with
    work := none
    group := if d.leaving then g.getD d.group else d.group
    state := if d.leaving then (if g.isSome then .idle else .unbound) else match d.state with
      | .busy => .idle
      | .stopping => .disabled
      | .stoppingPendingEnable => .idle
      | y => y
    leaving := false }) s

/-- A free core claims the next picture of session `i` (R252): its placeholder opens, the parameter set is checked, and
the way it goes is decided: streamed (R18), or a buffer request. -/
def claimPicture (core i : Nat) (parse : PicParse) (s : State) : State :=
  match (s.ses i).aus with
  | [] => s
  | a :: rest =>
    let x := s.ses i
    let s := openRec i a.ts a.at_ false (modSes i (fun x => { x with aus := rest }) s)
    match spsCheck s x parse with
    | 0 =>
      let streamed := parse.nonRef && decide (((classOf s x.cls).map (·.consumers)).getD 1 = 0)
      let rap := rapOf x.h265 parse
      let act := activates x parse
      let s := modSes i (fun x => { x with
        sps := act <|> x.sps
        nextSps := if act.isSome then none else parse.sps <|> x.nextSps
        concealing := if rap then false else x.concealing
        postedMissing := if rap then false else x.postedMissing
        postedError := if rap then false else x.postedError
        pic := some
          { au := a, parse := parse, stage := if streamed then .decoding else .needBuf, handle := none, streamed := streamed, scaler := none, given := 0,
            done := 0, cores := [], anyOk := false, concealed := false, poisoned := false, subst := false, broken := false } }) s
      let s := fillMissing i parse s
      giveUnit core i (if streamed then takeScalerSlot i s else s)
    | r => sesFault i r (fillDevice i a.ts (if r ∈ [0x0B, 0x0C] then 0x0403 else 0x0402) s)

/-- A picture of a stopping session that no decode core works on, and whose group has none left, is given up, and the session
ends (R211, Table 9.4). -/
def sesAbandon (i : Nat) (s : State) : State :=
  let x := s.ses i
  if (x.state = .stopping ∨ x.state = .stoppingPendingEnable) ∧ x.pic.isSome = true ∧
      (upTo 16).all (fun d => decide (((s.dec d).work.map (·.1)) ≠ some i) && decide (groupOfDecoder s d ≠ some x.group)) = true then
    let s := modPool x.group (fun q => { q with waits := q.waits.filter (fun w => decide (w.ses ≠ i)) }) s
    sesFinish i (dropPicture i 0x0305 s)
  else s

end Sys2Proof.Machine
end

