-- ==== Sys2Proof/Machine/ScalerMath.lean ====
section
/-! DEFINITION. What a scaler computes for one output (R273–R279): fetch, colour, resize, normalise, pad, regroup
and convert, each stage rounded once to FP32. -/

namespace Sys2Proof.Machine
open Sys2Proof

/-! ### Program fields (Tables 10.1, 10.2) -/

structure ScOut where
  stretch : Bool
  filter : Nat
  block : Nat
  format : Nat
  matrix : Nat
  bayer : Nat
  outType : Nat
  bucket : Nat
  x0 : Nat
  y0 : Nat
  x1 : Nat
  y1 : Nat
  w : Nat
  h : Nat
  padT : Nat
  padB : Nat
  padL : Nat
  padR : Nat
  deriving DecidableEq, Repr

def progOutputs (p : List Byte) : Nat := fieldAt p 0 1

def progOut (p : List Byte) (j : Nat) : ScOut :=
  let b := p.drop (32 + 32 * j)
  let ctrl := fieldAt b 0 1
  let col := fieldAt b 1 1
  { stretch := ctrl / 32 % 4 = 0, filter := ctrl / 8 % 4, block := if ctrl % 8 = 1 then 2 else if ctrl % 8 = 2 then 4 else 1
    format := col / 16, matrix := col / 4 % 4, bayer := col % 4, outType := fieldAt b 2 1 % 8, bucket := fieldAt b 3 1 % 16
    x0 := fieldAt b 4 2, y0 := fieldAt b 6 2, x1 := fieldAt b 8 2, y1 := fieldAt b 10 2, w := fieldAt b 12 2, h := fieldAt b 14 2
    padT := fieldAt b 16 1, padB := fieldAt b 17 1, padL := fieldAt b 18 1, padR := fieldAt b 19 1 }

/-- The first failed check of Table 10.3; 0 when all pass. -/
def progCheck (p : List Byte) : Nat :=
  let n := progOutputs p
  let js := upTo n
  let bad16 := fun (i : Nat) => fieldAt p i 2 / 1024 % 32 = 31
  let heads := [4, 6, 8, 10, 12, 14, 20, 22, 24]
  if n < 1 ∨ 3 < n then 1
  else if js.any (fun j =>
      let b := p.drop (32 + 32 * j)
      let ctrl := fieldAt b 0 1
      decide (ctrl / 32 % 4 > 1 ∨ ctrl / 8 % 4 > 2 ∨ ctrl % 8 > 2 ∨ fieldAt b 1 1 / 16 > 4 ∨ fieldAt b 2 1 % 8 > 3)) then 2
  else if js.any (fun j => let o := progOut p j; decide (o.w < 16 ∨ 4096 < o.w ∨ o.h < 16 ∨ 4096 < o.h)) then 3
  else if js.any (fun j => let o := progOut p j
      decide ((o.w + o.padL + o.padR) % o.block ≠ 0 ∨ (o.h + o.padT + o.padB) % o.block ≠ 0)) then 4
  else if js.any (fun j => let o := progOut p j
      decide (¬(o.x1 = 0 ∧ o.y1 = 0) ∧ (o.x1 ≤ o.x0 ∨ o.y1 ≤ o.y0))) then 5
  else if heads.any (fun i => decide (bad16 i)) ∨ fieldAt p 16 4 / 2 ^ 23 % 256 = 255 then 6
  else 0

/-! ### Values -/

/-- Round once to FP32 nearest even. -/
def toF32 (v : FVal) : FVal := fp32.decode (fp32.encode false v)
/-- The FP32 nearest to n / d. -/
def coef (n d : Nat) : FVal := toF32 ((FVal.ofInt n).div (FVal.ofInt d))
def FVal.sub (a b : FVal) : FVal := a.add b.neg
/-- A sample in 8-bit units: raw / 2^k, exactly. -/
def sample (raw k : Nat) : FVal := .fin false raw (-(k : Int))

/-- What a source delivers (Table 10.5). -/
inductive PixKind where
  | yuv420
  | yuv422
  | rgb888
  /-- RAW8, RAW10 or RAW12, with the extra bits over 8. -/
  | raw (extra : Nat)
  deriving DecidableEq, Repr

/-- A picture as the scaler reads it: its bytes by offset, pitch, planes, display window. -/
structure Image2 where
  kind : PixKind
  rd : Nat → Byte × Bool
  /-- Bytes per sample of a decoded picture, 1 or 2. -/
  bps : Nat
  pitch : Nat
  /-- Offset of the chroma plane. -/
  chroma : Nat
  g : Geom

/-- A value with its poison mark. -/
abbrev PV := FVal × Bool

def pvSum (l : List (Nat × PV)) (den : FVal) : PV :=
  (((l.foldl (fun (a : FVal) x => a.add ((FVal.ofInt x.1).mul x.2.1)) (FVal.fin false 0 0)).div den), l.any (fun x => x.2.2))

/-- A clamped index. -/
def clampIx (i : Int) (n : Nat) : Nat := if i < 0 then 0 else min i.toNat (n - 1)

/-- Unscaled sample of `n` bytes at an offset. -/
def rdRaw (im : Image2) (off n : Nat) : Nat × Bool :=
  let b0 := im.rd off
  if n = 1 then (b0.1.toNat, b0.2)
  else let b1 := im.rd (off + 1); (b0.1.toNat + 256 * b1.1.toNat, b0.2 || b1.2)

/-- A decoded sample in 8-bit units: 10-bit samples stand in [15:6] and are divided by 4 (R243, R274). -/
def decSample (im : Image2) (off : Nat) : PV :=
  let r := rdRaw im off im.bps
  if im.bps = 1 then (sample r.1 0, r.2) else (sample (r.1 / 64) 2, r.2)

/-- Luma at (x, y) of the coded picture. -/
def lumaAt (im : Image2) (x y : Nat) : PV := decSample im (y * im.pitch + x * im.bps)
/-- Chroma component c (0 Cb, 1 Cr) of sample (i, j). -/
def chromaAt (im : Image2) (c i j : Nat) : PV := decSample im (im.chroma + j * im.pitch + (2 * i + c) * im.bps)

/-- Chroma at luma position (x, y): 4:2:0 samples sit at column 2i and row 2j + 0.5 (R274). -/
def chroma420 (im : Image2) (c x y : Nat) : PV :=
  let lo := im.g.dispX / 2
  let hi := (im.g.dispX + im.g.dispW - 1) / 2
  let top := im.g.dispY / 2
  let bot := (im.g.dispY + im.g.dispH - 1) / 2
  let cx := fun (i : Nat) => max lo (min i hi)
  let cy := fun (j : Int) => if j < top then top else min j.toNat bot
  let cols : List (Nat × Nat) := if x % 2 = 0 then [(2, cx (x / 2))] else [(1, cx (x / 2)), (1, cx (x / 2 + 1))]
  let m : Int := (y / 2 : Nat)
  let rows : List (Nat × Nat) := if y % 2 = 0 then [(1, cy (m - 1)), (3, cy m)] else [(3, cy m), (1, cy (m + 1))]
  pvSum (rows.flatMap (fun r => cols.map (fun k => (r.1 * k.1, chromaAt im c k.2 r.2)))) (FVal.ofInt 8)

/-- YUV422 pixels are stored as received: Cb, Y, Cr, Y for each pair (R296). -/
def byte422 (im : Image2) (x y k : Nat) : PV :=
  let r := im.rd (256 + y * im.pitch + (x / 2) * 4 + k)
  (sample r.1.toNat 0, r.2)
def chroma422 (im : Image2) (c x y : Nat) : PV :=
  let hi := (im.g.width - 1) / 2
  let at_ := fun (i : Nat) => byte422 im (2 * min i hi) y (2 * c)
  if x % 2 = 0 then at_ (x / 2) else pvSum [(1, at_ (x / 2)), (1, at_ (x / 2 + 1))] (FVal.ofInt 2)

/-- A raw pixel in 8-bit units. -/
def rawAt (im : Image2) (extra x y : Nat) : PV :=
  let r := rdRaw im (256 + y * im.pitch + x * (if extra = 0 then 1 else 2)) (if extra = 0 then 1 else 2)
  (sample (r.1 % 2 ^ (8 + extra)) extra, r.2)

/-- The colour (0 R, 1 G, 2 B) of the Bayer cell at (x, y); the phase starts at the display window (R274). -/
def bayerColour (bayer x y : Nat) : Nat :=
  let k := y % 2 * 2 + x % 2
  match bayer with
  | 0 => [0, 1, 1, 2].getD k 0
  | 1 => [2, 1, 1, 0].getD k 0
  | 2 => [1, 0, 2, 1].getD k 0
  | _ => [1, 2, 0, 1].getD k 0

/-- One colour at (x, y) by bilinear demosaic: the mean of the nearest cells of that colour inside the picture. -/
def demosaic (im : Image2) (extra bayer c x y : Nat) : PV :=
  if bayerColour bayer x y = c then rawAt im extra x y else
  let ns : List (Int × Int) := [(-1, 0), (1, 0), (0, -1), (0, 1), (-1, -1), (1, -1), (-1, 1), (1, 1)]
  let colourAt := fun (d : Int × Int) => bayerColour bayer (((x : Int) + d.1 + 2).toNat) (((y : Int) + d.2 + 2).toNat)
  let cells := ns.filter (fun d => decide (0 ≤ (x : Int) + d.1 ∧ (x : Int) + d.1 < im.g.width ∧ 0 ≤ (y : Int) + d.2 ∧
    (y : Int) + d.2 < im.g.height ∧ colourAt d = c))
  let near := cells.filter (fun d => decide (d.1 = 0 ∨ d.2 = 0))
  let use := if near = [] then cells else near
  pvSum (use.map (fun d => (1, rawAt im extra ((x : Int) + d.1).toNat ((y : Int) + d.2).toNat)))
    (FVal.ofInt use.length)

def clamp255 (v : FVal) : FVal :=
  match v.cmp (FVal.ofInt 0), v.cmp (FVal.ofInt 255) with
  | some .lt, _ => .fin false 0 0
  | _, some .gt => FVal.ofInt 255
  | _, _ => v

/-- R, G, B of a YUV pixel under MATRIX (Table 10.5), clamped (R275). -/
def yuvToRgb (m c : Nat) (y u v : PV) : PV :=
  let limited := m = 0 ∨ m = 1
  let yy := if limited then (coef 1164 1000).mul (y.1.sub (FVal.ofInt 16)) else y.1
  let du := u.1.sub (FVal.ofInt 128)
  let dv := v.1.sub (FVal.ofInt 128)
  let k := fun (i : Nat) => match m with
    | 0 => [1596, 392, 813, 2017].getD i 0
    | 1 => [1793, 213, 533, 2112].getD i 0
    | 2 => [1402, 344, 714, 1772].getD i 0
    | _ => [1575, 187, 468, 1856].getD i 0
  let t := fun (i : Nat) (d : FVal) => (coef (k i) 1000).mul d
  let x := match c with
    | 0 => yy.add (t 0 dv)
    | 1 => (yy.sub (t 1 du)).sub (t 2 dv)
    | _ => yy.add (t 3 du)
  (clamp255 (toF32 x), match c with
    | 0 => y.2 || v.2
    | 1 => y.2 || u.2 || v.2
    | _ => y.2 || u.2)

/-- GREY from R, G and B (Table 10.5). -/
def greyOf (m : Nat) (r g b : PV) : PV :=
  let k := if m = 0 ∨ m = 2 then (coef 299 1000, coef 587 1000, coef 114 1000) else (coef 2126 10000, coef 7152 10000, coef 722 10000)
  (toF32 (((k.1.mul r.1).add (k.2.1.mul g.1)).add (k.2.2.mul b.1)), r.2 || g.2 || b.2)

/-- The formats an input allows (Table 10.5): 0 RGB, 1 BGR, 2 GREY, 3 YUV, 4 RAW. -/
def formatOk : PixKind → Nat → Bool
  | .yuv420, f => decide (f ≤ 3)
  | .yuv422, f => decide (f ≤ 3)
  | .rgb888, f => decide (f ≤ 2)
  | .raw _, f => decide (f ≤ 2 ∨ f = 4)
def formatChannels (f : Nat) : Nat := if f = 2 ∨ f = 4 then 1 else 3

/-- Stages 1 and 2 at a pixel of the display window: channel `i` of FORMAT (R274, R275). -/
def colourAt (im : Image2) (o : ScOut) (i x y : Nat) : PV :=
  let c := if o.format = 1 then 2 - i else i
  match im.kind with
  | .yuv420 =>
    let (x, y) := (x + im.g.dispX, y + im.g.dispY)
    let l := lumaAt im x y
    if o.format = 2 then l
    else if o.format = 3 then (if i = 0 then l else let k := chroma420 im (i - 1) x y; (toF32 k.1, k.2))
    else yuvToRgb o.matrix c l (chroma420 im 0 x y) (chroma420 im 1 x y)
  | .yuv422 =>
    let l := byte422 im x y (1 + x % 2 * 2)
    if o.format = 2 then l
    else if o.format = 3 then (if i = 0 then l else let k := chroma422 im (i - 1) x y; (toF32 k.1, k.2))
    else yuvToRgb o.matrix c l (chroma422 im 0 x y) (chroma422 im 1 x y)
  | .rgb888 =>
    let at_ := fun (k : Nat) => let r := im.rd (256 + y * im.pitch + 3 * x + (2 - k)); (sample r.1.toNat 0, r.2)
    if o.format = 2 then greyOf o.matrix (at_ 0) (at_ 1) (at_ 2) else at_ c
  | .raw e =>
    if o.format = 4 then rawAt im e x y
    else
      let at_ := fun (k : Nat) => demosaic im e o.bayer k x y
      if o.format = 2 then greyOf o.matrix (at_ 0) (at_ 1) (at_ 2) else let v := at_ c; (toF32 v.1, v.2)

/-! ### Window and resize (R276, R277) -/

/-- The window in quarter pixels of the display window; the all-zero end selects the whole. -/
def window (o : ScOut) (g : Geom) : Nat × Nat × Nat × Nat :=
  if o.x1 = 0 ∧ o.y1 = 0 then (0, 0, 4 * g.dispW, 4 * g.dispH) else (o.x0, o.y0, o.x1, o.y1)

/-- Content area (left, top, width, height). -/
def content (o : ScOut) (wq hq : Nat) : Nat × Nat × Nat × Nat :=
  if o.stretch then (0, 0, o.w, o.h) else
  let (w, h) := if o.w * hq ≤ o.h * wq then (o.w, (2 * hq * o.w + wq) / (2 * max wq 1)) else ((2 * wq * o.h + hq) / (2 * max hq 1), o.h)
  ((o.w - w) / 2, (o.h - h) / 2, w, h)

/-- Samples of one axis for content index `k`: (index, weight), with the weights' sum. `p` is the window's start
and `q` its length in quarter pixels, `n` the content size. -/
def axis (filter p q n k : Nat) : List (Int × Nat) × Nat :=
  let pos : Int := (2 * n * p : Nat) + ((2 * k + 1) * q : Nat) - (4 * n : Nat)
  let den : Int := (8 * n : Nat)
  if filter = 0 then ([((pos + (4 * n : Nat)).fdiv den, 1)], 1)
  else if filter = 2 ∧ q ≥ 4 * n then
    let a := p * n + k * q
    let b := a + q
    let ks := (upTo (b / (4 * n) + 1 - a / (4 * n))).map (fun i => a / (4 * n) + i)
    ((ks.map (fun (i : Nat) => (Int.ofNat i, min b (4 * n * (i + 1)) - max a (4 * n * i)))).filter (fun x => x.2 ≠ 0), q)
  else
    let i := pos.fdiv den
    let f := (pos - i * den).toNat
    if f = 0 then ([(i, 1)], 1) else ([(i, 8 * n - f), (i + 1, f)], 8 * n)

/-- Why an output's slot is invalid, or none (R279): true for the cases that SCL_BAD_WINDOW counts. -/
def outInvalid (im : Image2) (o : ScOut) (slotBytes : Nat) : Bool :=
  let (x0, y0, x1, y1) := window o im.g
  let (wq, hq) := (x1 - x0, y1 - y0)
  let (_, _, w, h) := content o wq hq
  let c := formatChannels o.format * o.block * o.block
  let size := if o.outType ≤ 1 then 1 else 2
  let pitch := cdiv (c * size) 16 * 16
  decide (x0 ≥ 4 * im.g.dispW ∨ y0 ≥ 4 * im.g.dispH) || decide (wq = 0 ∨ hq = 0 ∨ w = 0 ∨ h = 0) ||
    decide (wq > 64 * w ∨ hq > 64 * h ∨ 2 * wq < w ∨ 2 * hq < h) || !formatOk im.kind o.format ||
    decide ((o.h + o.padT + o.padB) / o.block * ((o.w + o.padL + o.padR) / o.block) * pitch > slotBytes)

/-- Header fields of a program (Table 10.1). -/
def progMean (p : List Byte) (i : Nat) : FVal := fp16.decode (fieldAt p (4 + 2 * i) 2)
def progIstd (p : List Byte) (i : Nat) : FVal := fp16.decode (fieldAt p (10 + 2 * i) 2)
def progPad (p : List Byte) (i : Nat) : FVal := fp16.decode (fieldAt p (20 + 2 * i) 2)
def progScale (p : List Byte) : FVal := fp32.decode (fieldAt p 16 4)

/-- Stages 3 to 5 at padded position (px, py), channel `i` (R276, R277). -/
def paddedAt (im : Image2) (p : List Byte) (o : ScOut) (i px py : Nat) : PV :=
  let (x0, y0, x1, y1) := window o im.g
  let (cx, cy, w, h) := content o (x1 - x0) (y1 - y0)
  let (l, t) := (o.padL + cx, o.padT + cy)
  if px < l ∨ l + w ≤ px ∨ py < t ∨ t + h ≤ py then (progPad p i, false) else
  let (xs, dx) := axis o.filter x0 (x1 - x0) w (px - l)
  let (ys, dy) := axis o.filter y0 (y1 - y0) h (py - t)
  let v := pvSum (ys.flatMap (fun a => xs.map (fun b =>
    (a.2 * b.2, colourAt im o i (clampIx b.1 im.g.dispW) (clampIx a.1 im.g.dispH))))) (FVal.ofInt (dx * dy : Nat))
  (toF32 (((toF32 v.1).sub (progMean p i)).mul (progIstd p i)), v.2)

/-- Stage 7: multiply by OUT_SCALE in FP32 and convert to OUT_TYPE (R85, R96, R278). -/
def convertOut (o : ScOut) (scale v : FVal) : List Byte :=
  let x := toF32 (v.mul scale)
  match o.outType with
  | 0 => toBytes (BitVec.ofInt 8 (x.toInt (-128) 127)) 1
  | 1 => toBytes (BitVec.ofInt 8 (x.toInt 0 255)) 1
  | 2 => toBytes (BitVec.ofNat 16 (bf16.encode true x)) 2
  | _ => toBytes (BitVec.ofNat 16 (fp16.encode true x)) 2

/-- The tensor's height, width, channels and pixel pitch (R278, R176). -/
def tensorDims (o : ScOut) : Nat × Nat × Nat × Nat :=
  let c := formatChannels o.format * o.block * o.block
  ((o.h + o.padT + o.padB) / o.block, (o.w + o.padL + o.padR) / o.block, c, cdiv (c * (if o.outType ≤ 1 then 1 else 2)) 16 * 16)

/-- The slot's bytes with poison, NHWC (R278). -/
def tensorBytes (im : Image2) (p : List Byte) (o : ScOut) : List (Byte × Bool) :=
  let (hh, ww, c, pitch) := tensorDims o
  let ch := formatChannels o.format
  (upTo hh).flatMap fun y => (upTo ww).flatMap fun x =>
    let px := (upTo c).flatMap fun k =>
      let d := k / ch
      let v := paddedAt im p o (k % ch) (o.block * x + d % o.block) (o.block * y + d / o.block)
      (convertOut o (progScale p) v.1).map (fun b => (b, v.2))
    px ++ List.replicate (pitch - px.length) (0, false)

end Sys2Proof.Machine
end

