-- ==== Sys2Proof/Machine/OpsScaler.lean ====
section
/-! DEFINITION. Scaler jobs: starting, slots, completing, crops (R271, R279–R285, R301). -/

namespace Sys2Proof.Machine
open Sys2Proof

def program (s : State) (i : Nat) : List Byte := Table.get (List.replicate 128 0) s.media.programs i

/-! ### Sensor frames as a source (R296, R297) -/

/-- Bytes per pixel of a data type (R296). -/
def pixelBytes (dt : Nat) : Nat :=
  if dt = 0x2A then 1 else if dt = 0x24 then 3 else 2
def Sensor.dataType (x : Sensor) : Nat := bits x.cfg 13 8
def Sensor.group (x : Sensor) : Nat := bits x.cfg 20 16
def Sensor.width (x : Sensor) : Nat := bits x.size 15 0
def Sensor.height (x : Sensor) : Nat := bits x.size 31 16
def Sensor.pitch (x : Sensor) : Nat := cdiv (x.width * pixelBytes x.dataType) 256 * 256
def Sensor.frameBytes (x : Sensor) : Nat := cdiv (256 + x.pitch * x.height) 4096 * 4096
/-- Device address of a frame slot. -/
def frameAddr (s : State) (i slot : Nat) : Nat :=
  let x := s.sns i
  groupBase s x.group + x.hoopBase.toNat % 2 ^ 40 / 4096 * 4096 + slot * x.frameBytes
def sensorKind (dt : Nat) : PixKind :=
  if dt = 0x1E then .yuv422 else if dt = 0x24 then .rgb888 else if dt = 0x2B then .raw 2 else if dt = 0x2C then .raw 4 else .raw 0

/-- Free a frame slot once no job reads it and its hold has run out (R297). -/
def frameSettle (i : Nat) (s : State) : State :=
  modSns i (fun x => { x with frames := x.frames.filter (fun f => decide (f.jobs > 0) || f.hold) }) s
def modFrame (i : Nat) (ts : DWord) (f : Frame → Frame) (s : State) : State :=
  modSns i (fun x => { x with frames := x.frames.map (fun y => if y.ts = ts then f y else y) }) s

/-! ### What a job reads -/

/-- The job's picture as its scaler reads it. -/
def jobImage (s : State) (j : ScJob) : Image2 :=
  let bps := if j.geom.depth = 8 then 1 else 2
  let pitch := cdiv (j.geom.width * bps) 256 * 256
  match j.pix with
  | .buffer h =>
    let a := handleAddr s h
    { kind := .yuv420, rd := fun o => (dramRead s (a + o) 1).headD (0, false), bps := bps, pitch := pitch, chroma := pitch * j.geom.height, g := j.geom }
  | .rows =>
    { kind := .yuv420, rd := fun o => (Table.get 0 j.rows o, Table.get false j.rowPoison o), bps := bps, pitch := pitch, chroma := pitch * j.geom.height, g := j.geom }
  | .frame k =>
    let x := s.sns (j.source - 256)
    let a := frameAddr s (j.source - 256) k
    { kind := sensorKind x.dataType, rd := fun o => (dramRead s (a + o) 1).headD (0, false), bps := 1, pitch := x.pitch, chroma := 0, g := j.geom }
  | .nothing => { kind := .yuv420, rd := fun _ => (0, false), bps := bps, pitch := pitch, chroma := 0, g := j.geom }

/-- The output record a job's slot uses; a crop puts its own window in (R281). -/
def jobOut (j : ScJob) (output : Nat) : ScOut :=
  let o := progOut j.prog output
  match j.crop with
  | some c => { o with x0 := c.x0, y0 := c.y0, x1 := c.x1, y1 := c.y1 }
  | none => o
/-- Outputs of the job's program that it makes. -/
def jobOutputs (j : ScJob) : List Nat :=
  match j.crop with
  | some c => if c.prog < 64 ∧ c.output < 3 then [c.output] else []
  | none => upTo (progOutputs j.prog)

/-- In and Out of R284. -/
def jobIn (j : ScJob) : Nat :=
  let ws := (jobOutputs j).map (fun k => window (jobOut j k) j.geom)
  match ws with
  | [] => 0
  | w :: _ =>
    let x0 := ws.foldl (fun a v => min a (v.1 / 4)) (w.1 / 4)
    let y0 := ws.foldl (fun a v => min a (v.2.1 / 4)) (w.2.1 / 4)
    let x1 := ws.foldl (fun a v => max a (cdiv v.2.2.1 4)) 0
    let y1 := ws.foldl (fun a v => max a (cdiv v.2.2.2 4)) 0
    (x1 - x0) * (y1 - y0)
def jobOutPixels (j : ScJob) : Nat :=
  ((jobOutputs j).map (fun k => let o := progOut j.prog k; (o.w + o.padL + o.padR) * (o.h + o.padT + o.padB))).foldl (· + ·) 0

/-! ### Releasing a picture -/

/-- A job lets its picture go: the USE mark of its buffer, or its hold on the frame slot. -/
def releasePix (j : ScJob) (s : State) : State :=
  match j.pix with
  | .buffer h => mark h .useDown s
  | .frame _ => frameSettle (j.source - 256) (modFrame (j.source - 256) j.ts (fun f => { f with jobs := f.jobs - 1 }) s)
  | .rows | .nothing => s

/-- A job leaves its scaler; the last one ends "BUSY" (R285). -/
def jobLeave (k n : Nat) (s : State) : State :=
  let s := modScl k (fun c => { c with jobs := c.jobs.eraseIdx n }) s
  if (s.scl k).jobs ≠ [] then s else
  let g := groupOfScaler s k
  modScl k (fun c => { c with
    group := if c.leaving then g.getD c.group else c.group
    state := if c.leaving then (if g.isSome then .idle else .unbound) else match c.state with
      | .busy => .idle
      | .stopping => .disabled
      | .stoppingPendingEnable => .idle
      | y => y
    leaving := false }) s

/-- Streamed pictures that wait for a job slot of the group take one, lower session first. -/
def retryStreams (g : Nat) (s : State) : State :=
  forEach (upTo 256) (fun i s => match (s.ses i).pic with
    | some p => if p.stage = .waitSlot ∧ (s.ses i).group = g then takeScalerSlot i s else s
    | none => s) s

/-! ### Starting (R271, R301, R305) -/

/-- Assign a slot to each output in order; none where one must wait, with the bucket it waits for. -/
def assignAll : List Nat → ScJob → State → Except Nat (List SlotRef × State)
  | [], _, s => .ok ([], s)
  | k :: ks, j, s =>
    let b := (progOut j.prog k).bucket
    let x := { CurdSlot.blank with kind := if j.crop.isSome then 1 else 0, tag := (j.crop.map (·.tag)).getD 0 }
    match assignSlot b j.group j.source k j.ts x s with
    | .wait => .error b
    | .closed =>
      match assignAll ks j s with
      | .ok r => .ok r
      | .error e => .error e
    | .slot seq i s =>
      match assignAll ks j s with
      | .ok (r, s) => .ok ({ output := k, bucket := b, seq := seq, slot := i } :: r, s)
      | .error e => .error e

/-- The binding of a source (R271): its program, when ENABLE is set. -/
def bindingOf (s : State) (src : Nat) : Option Nat :=
  let v := cfgGet s (sclBase + 0x800 + 4 * src)
  if bit v 31 then some (bits v 5 0) else none

/-- Job `n` of scaler `k` starts: it copies its program and is given its slots, waits for a curd, or ends without one. -/
def startJob (k n : Nat) (s : State) : State :=
  match (s.scl k).jobs[n]? with
  | none => s
  | some j =>
    let prog := match j.crop with
      | some c => some (if c.prog < 64 then program s c.prog else [])
      | none => (bindingOf s j.source).map (program s)
    match prog with
    | none => retryStreams j.group (jobLeave k n (releasePix j (fillDevice j.source j.ts 0x0601 s)))
    | some p =>
      let j := { j with prog := p }
      match assignAll (jobOutputs j) j s with
      | .error b =>
        modScl k (fun c => { c with jobs := c.jobs.set n { j with prog := [], waitAt := match j.waitAt with
          | some w => some w
          | none => some (b, s.now) } }) s
      | .ok (slots, s) =>
        let s := match j.waitAt with
          | some w => modBkt w.1 (fun y => { y with fullWait := satAdd y.fullWait ((s.now - w.2) / 2) }) s
          | none => s
        let s := if j.crop.isNone ∧ !slots.any (fun r => decide (r.output = 0)) then fillDevice j.source j.ts 0x0605 s else s
        modScl k (fun c => { c with jobs := c.jobs.set n { j with started := true, slots := slots, waitAt := none } }) s

/-! ### Completing (R279, R303) -/

/-- A scaler writes one slot: the tensor, or zeros where it is invalid, and the slot's header. -/
def writeSlot (k : Nat) (j : ScJob) (r : SlotRef) (hang : Bool) (s : State) : State :=
  let im := jobImage s j
  let o := jobOut j r.output
  let bytes := (s.bkt r.bucket).slotBytes
  let badProg := ((j.crop.map (fun c => c.badProg)).getD false)
  let expired := ((j.crop.map (fun c => c.expired)).getD false)
  let bad := badProg || (!j.failed && !expired && outInvalid im o bytes)
  let invalid := hang || j.failed || expired || bad
  let a := slotAddr s r.bucket r.seq r.slot
  let (h, w, c, _) := tensorDims o
  let (x0, y0, x1, y1) := window o j.geom
  let (cx, cy, cw, ch) := content o (x1 - x0) (y1 - y0)
  let data := if invalid then [] else tensorBytes im j.prog o
  let tainted := data.any (·.2)
  let s := if invalid then dramZero a bytes s else dramWrite a data s
  let s := if bad then modGrp j.group (fun g => { g with badWindow := satAdd g.badWindow 1 }) s else s
  let s := if invalid then modScl k (fun c => { c with invalid := satAdd c.invalid 1 }) s else s
  modSlot r.bucket r.seq r.slot (fun x => { x with
    status := if invalid then 0x0603 else 0
    flags := b2n j.concealed + 2 * b2n (j.poisoned || tainted) + 4 * b2n j.estimated
    h := h, w := w, c := c, cx := cx, cy := cy, cw := cw, ch := ch, x0 := x0, y0 := y0, x1 := x1, y1 := y1
    written := true, valid := !invalid }) s

/-- Job `n` of scaler `k` ends: its slots are written, its picture released (R284). -/
def finishJob (k n memStall : Nat) (hang : Bool) (s : State) : State :=
  match (s.scl k).jobs[n]? with
  | none => s
  | some j =>
    let s := forEach j.slots (fun r s => writeSlot k j r hang s) s
    let t := 400 + max (cdiv (jobIn j) 4) (cdiv (jobOutPixels j) 2) + memStall
    let s := modScl k (fun c => { c with
      busy := satAdd c.busy t, done := satAdd c.done 1, outPixels := satAdd c.outPixels (jobOutPixels j), stallMem := satAdd c.stallMem memStall }) s
    retryStreams j.group (jobLeave k n (releasePix j s))

/-! ### Crops (R281) -/

/-- A HELD buffer of a source with a timestamp, the newer stream's first. -/
def findHeld (s : State) (src : Nat) (ts : DWord) : Option Word :=
  let g := (s.ses src).group
  let bs := (s.pool g).buffers.filter (fun p => decide (p.2.state = .held ∧ p.2.ses = src ∧ p.2.ts = ts))
  ((bs.filter (fun p => !p.2.old) ++ bs).head?).map (fun p => handleOf g (p.1 / 4096) (p.1 % 4096) p.2.gen)

/-- Take one ready crop entry as a job of scaler `k`, expired where its picture is gone. -/
def takeCrop (k g : Nat) (e : List Byte) (s : State) : State :=
  let src := fieldAt e 4 2
  let ts := BitVec.ofNat 64 (fieldAt e 8 8)
  let prog := fieldAt e 6 1
  let output := fieldAt e 7 1
  let bad := decide (prog ≥ 64) || decide (output ≥ progOutputs (program s prog))
  let req : CropReq :=
    { prog := prog, output := output, x0 := fieldAt e 16 2, y0 := fieldAt e 18 2, x1 := fieldAt e 20 2, y1 := fieldAt e 22 2,
      tag := BitVec.ofNat 32 (fieldAt e 24 4), expired := false, badProg := bad }
  let job : ScJob :=
    { kind := .crop, group := g, source := src, ts := ts, pix := .nothing, geom := Geom.zero, concealed := false, poisoned := false, failed := false,
      estimated := false, crop := some req, prog := [], started := false, slots := [], rows := [], rowPoison := [], credits := 0, queued := 0,
      complete := false, readyAt := s.now, waitAt := none }
  let (job, s) :=
    if src < 256 then
      match (if (s.ses src).group = g then findHeld s src ts else none) with
      | some h =>
        let b := s.buffer h
        ({ job with pix := .buffer h, geom := b.geom, concealed := b.concealed, poisoned := b.poisoned, failed := b.failed }, mark h .useUp s)
      | none => ({ job with crop := some { req with expired := true } }, modGrp g (fun x => { x with cropExpired := satAdd x.cropExpired 1 }) s)
    else
      let x := s.sns (src - 256)
      match (if src < 272 ∧ x.group = g then x.frames.find? (fun f => decide (f.ts = ts)) else none) with
      | some f =>
        ({ job with pix := .frame f.slot, failed := f.corrupt, estimated := f.estimated,
                    geom := { width := x.width, height := x.height, dispX := 0, dispY := 0, dispW := x.width, dispH := x.height, depth := 8 } },
          modFrame (src - 256) ts (fun f => { f with jobs := f.jobs + 1 }) s)
      | none => ({ job with crop := some { req with expired := true } }, modGrp g (fun x => { x with cropExpired := satAdd x.cropExpired 1 }) s)
  let n := (s.scl k).jobs.length
  startJob k n (modScl k (fun c => { c with jobs := c.jobs ++ [job], state := if c.state = .idle then .busy else c.state }) s)

/-- The scaler takes ready entries of its group's ring while it has a free job slot. -/
def pollCropFuel : Nat → Nat → State → State
  | 0, _, s => s
  | fuel + 1, k, s =>
    let c := s.scl k
    let x := s.grp c.group
    if x.cropOn ∧ (c.state = .idle ∨ c.state = .busy) ∧ c.jobs.length < 4 then
      let a := groupBase s c.group + x.cropBase.toNat % 2 ^ 40 / 4096 * 4096 + x.cropHead.toNat % 2 ^ x.cropLog2 * 32
      let e := dramBytesAt s a 32
      if fieldAt e 0 4 = x.cropHead.toNat then
        pollCropFuel fuel k (takeCrop k c.group e (modGrp c.group (fun x => { x with cropHead := x.cropHead + 1 }) s))
      else s
    else s
def pollCrop (k : Nat) (s : State) : State := pollCropFuel 4 k s

end Sys2Proof.Machine
end

