-- ==== Sys2Proof/Machine/Clips.lean ====
section
/-! DEFINITION. Snapshot and clip requests (R327–R331). -/

namespace Sys2Proof.Machine
open Sys2Proof

/-- Entry fields (Table 12.6). -/
def mediaReqId (e : Entry64) : Word := BitVec.ofNat 32 (bits e 63 32)
def mediaSource (e : Entry64) : Nat := bits e 79 64

/-- The checks of R327, and the request where they pass: the refusal status otherwise. -/
def checkRequest (route : Half) (e : Entry64) (clip : Bool) (s : State) : Except Nat MediaReq :=
  let src := mediaSource e
  let x := s.ses src
  let g := x.group
  let param := bits e 319 256
  let dst := bits e 383 320
  let len := bits e 415 384
  let refused := decide (src ≥ 256) || decide (x.state ≠ .running) || decide (param + 64 > groupBytes s g) ||
    decide (dst + len > groupBytes s g) || decide (len = 0)
  if refused then .error 0x0801 else
  let p := dramBytesAt s (groupBase s g + param) 64
  let geom := sesGeom x
  if !encParamOk p geom.dispW geom.dispH then .error 0x0805
  else if encJobs s ≥ 16 then .error 0x0804
  else
    let start := bits e 191 128
    .ok
      { route := route, reqId := mediaReqId e, ses := src, clip := clip, state := .pending, time := BitVec.ofNat 64 start
        endTs := BitVec.ofNat 64 (min (bits e 255 192) (start + 54000000)), dst := BitVec.ofNat 64 dst, dstBytes := len, params := p, status := 0
        pictures := 0, bytes := 0, firstTs := 0, lastTs := 0, t0 := 0, n := 0, cand := none, queue := [], core := none
        f90 := encDelay p * encRate p }

/-- A snapshot request (R328): of an exact timestamp now, or of the next picture written to DRAM. -/
def snapshotReq (route : Half) (e : Entry64) (s : State) : State :=
  match checkRequest route e false s with
  | .error st => refuseReq route (mediaReqId e) st s
  | .ok r =>
    let add := modMedia (fun m => { m with requests := m.requests ++ [r] })
    if r.time = BitVec.allOnes 64 then add s
    else match findHeld s r.ses r.time with
      | none => refuseReq route r.reqId 0x0802 s
      | some h => snapTake r h (add s)

/-- A clip request (R329). -/
def clipReq (route : Half) (e : Entry64) (s : State) : State :=
  match checkRequest route e true s with
  | .error st => refuseReq route (mediaReqId e) st s
  | .ok r => modMedia (fun m => { m with requests := m.requests ++ [r] }) s

/-- CLIP_STOP (Table 12.7): a clip that is DONE, or unknown, is not affected. -/
def clipStopReq (route : Half) (e : Entry64) (s : State) : State :=
  match findReq s route (mediaReqId e) with
  | none => s
  | some r => if r.state = .finishing then s else reqStop r false s

/-- A request entry by its first byte (Table 12.6). -/
def mediaEntry (route : Half) (e : Entry64) (s : State) : State :=
  match bits e 7 0 with
  | 0xE0 => snapshotReq route e s
  | 0xE1 => clipReq route e s
  | _ => clipStopReq route e s

/-- SNAPSHOT (R328) -/
def execSnapshot (route : Half) (entry : Entry64) (s : State) : Res := rooted s (snapshotReq route entry s)
/-- CLIP (R329) -/
def execClip (route : Half) (entry : Entry64) (s : State) : Res := rooted s (clipReq route entry s)
/-- CLIP_STOP (R331) -/
def execClipStop (route : Half) (entry : Entry64) (s : State) : Res := rooted s (clipStopReq route entry s)

/-- The latest clean picture of the clip's session at or before `t` and after the candidate. -/
def nextCand (s : State) (r : MediaReq) (t : Nat) : Option Word :=
  let old := ((r.cand.map (fun c => (s.buffer c).ts.toNat))).getD 0
  ((heldOf s r.ses).filter (fun h => decide (!(s.buffer h).poisoned ∧ (s.buffer h).ts.toNat ≤ t ∧ old < (s.buffer h).ts.toNat))).foldl
    (fun best h => match best with
      | none => some h
      | some b => if (s.buffer b).ts.toNat < (s.buffer h).ts.toNat then some h else some b) none

/-- CLIP_TIME_TAKE (R329): once a picture later than tn has decoded, the candidate is taken for tn; the next time's
candidate takes over the clip's mark. The clip finishes when tn reaches END. -/
def execClipTimeTake (route : Half) (reqId : Word) (s : State) : Res :=
  rooted s (match findReq s route reqId with
    | none => s
    | some r =>
      match r.cand with
      | none => s
      | some h =>
        let late := decide ((s.ses r.ses).lateTs > clipTime r r.n) || decide ((s.ses r.ses).state ≠ .running)
        if r.state ≠ .recording ∨ !r.clip ∨ !late then s else
        let s := takePicture route reqId h (decide (r.n % max (encIdrPeriod r.params) 1 = 0)) s
        let done := decide (clipTime r (r.n + 1) ≥ r.endTs.toNat)
        let s := modReq route reqId (fun r => { r with n := r.n + 1, state := if done then .finishing else r.state }) s
        if done then reqSettle route reqId s else
        match findReq s route reqId with
        | none => s
        | some r => match nextCand s r (clipTime r r.n) with
          | some c => setCand r c s
          | none => s)

end Sys2Proof.Machine
end

