-- ==== Sys2Proof/Machine/Inputs.lean ====
section
/-! DEFINITION. The rows of chapter 11 but CURD_TAKE: CSI-2 receivers, sensor sources, buckets, alignment sets. -/

namespace Sys2Proof.Machine
open Sys2Proof

def snsSrc (i : Nat) : Nat := snsBase + 0x400 + 0x40 * i

/-! ### Receivers (R293–R295) -/

def rxEnabled (s : State) (r : Nat) : Bool := bit (cfgGet s (snsBase + 0x20 * r)) 31
def rxDiscard (r : Nat) (s : State) : State := modRcv r (fun x => { x with discard := satAdd x.discard 1 }) s

/-- Pixel data types of Table 11.1. -/
def isPixelType (dt : Nat) : Bool := decide (dt ∈ [0x2A, 0x2B, 0x2C, 0x1E, 0x24])

/-- Payload bytes of a line of `w` pixels at a type's packing. -/
def lineBytes (dt w : Nat) : Nat :=
  if dt = 0x2A then w else if dt = 0x2B then 5 * w / 4 else if dt = 0x2C then 3 * w / 2 else if dt = 0x24 then 3 * w else 2 * w

/-- A line as stored in the frame slot (R296): RAW10 and RAW12 unpacked to 16-bit pixels. -/
def storeLine (dt w : Nat) (d : List Byte) : List Byte :=
  if dt = 0x2B then
    (upTo w).flatMap fun x =>
      let v := (byteAt d (x / 4 * 5 + x % 4)).toNat * 4 + (byteAt d (x / 4 * 5 + 4)).toNat / 4 ^ (x % 4) % 4
      toBytes (BitVec.ofNat 16 v) 2
  else if dt = 0x2C then
    (upTo w).flatMap fun x =>
      let v := (byteAt d (x / 2 * 3 + x % 2)).toNat * 16 + (byteAt d (x / 2 * 3 + 2)).toNat / 16 ^ (x % 2) % 16
      toBytes (BitVec.ofNat 16 v) 2
  else d

/-- The frame in progress of a source is dropped (R297). -/
def dropIncoming (i : Nat) (s : State) : State :=
  modSns i (fun x => { x with
    dropped := if ((x.incoming.map (fun f => !f.dropped)).getD false) then satAdd x.dropped 1 else x.dropped
    incoming := x.incoming.map (fun f => { f with dropped := true }) }) s

/-! ### Timestamps (R298–R300) -/

/-- The count in the embedded data, extended by its wraps, and the wraps. -/
def embeddedCount (x : Sensor) (e : List Byte) : Nat × Nat :=
  let n := bits x.tsCfg 11 8
  let raw := ((fitBytes 256 e).drop (bits x.tsCfg 7 0)).take n
  let v := leNat (if bit x.tsCfg 31 then raw.reverse else raw)
  if n = 4 then
    let wraps := if v < x.lastCount then x.wraps + 1 else x.wraps
    (wraps * 2 ^ 32 + v, wraps)
  else (v, x.wraps)

/-- A frame's timestamp and whether it is an estimate; none drops the frame. The second part of the state carries the
count and wraps seen. A first frame without embedded data takes a free value: the manual gives it none. -/
def frameTime (i : Nat) (f : Incoming) (s : State) : Option (DWord × Bool) × State :=
  let x := s.sns i
  if bits x.cfg 31 30 = 1 then
    let h := (s.sns (bits x.cfg 3 0)).history
    match h.find? (fun p => p.1 = f.number) with
    | some p => (some (p.2, false), s)
    | none => match h with
      | [] => (none, s)
      | p :: _ =>
        let d := (f.number - p.1).toInt
        (some (p.2 + BitVec.ofInt 64 (d * x.period), true), s)
  else
    match f.embedded with
    | some e =>
      let (c, wraps) := embeddedCount x e
      let s := modSns i (fun x => { x with lastCount := c % 2 ^ 32, wraps := wraps }) s
      (some (BitVec.ofNat 64 (c * 90000 / max x.tsHz 1), false), s)
    | none => match x.lastTs with
      | some t => (some (t + BitVec.ofNat 64 x.period, true), s)
      | none => let (v, s) := draw 64 s; (some (v, true), s)

/-! ### Frames (R295, R297) -/

/-- The frame in progress ends: it completes step 1, or is dropped for its timestamp. -/
def endFrame (i : Nat) (forceCorrupt : Bool) (s : State) : State :=
  match (s.sns i).incoming with
  | none => s
  | some f =>
    let s := modSns i (fun x => { x with incoming := none }) s
    if f.dropped then s else
    let (t, s) := frameTime i f s
    let x := s.sns i
    let drop := modSns i (fun x => { x with dropped := satAdd x.dropped 1 })
    match t with
    | none => drop s
    | some (ts, est) =>
      let s := if est then modSns i (fun x => { x with estimated := satAdd x.estimated 1 }) s else s
      if (x.lastTs.map (fun l => decide (ts.toNat ≤ l.toNat))).getD false then drop s else
      let corrupt := forceCorrupt || f.corrupt || decide (f.lines ≠ x.height)
      let src := 256 + i
      let g := x.group
      let tooMany := decide ((s.asm src).waiting.length ≥ 256)
      let hold := decide (holdMs s g > 0)
      let s := dramPut (frameAddr s i f.slot) (fitBytes 256 (f.embedded.getD [])) s
      let s := modSns i (fun x => { x with
        lastTs := some ts, history := ((f.number, ts) :: x.history).take 16, completed := satAdd x.completed 1
        corrupt := if corrupt then satAdd x.corrupt 1 else x.corrupt
        nextSlot := (f.slot + 1) % max x.frameCount 1
        frames := x.frames ++
          [{ slot := f.slot, number := f.number, ts := ts, estimated := est, corrupt := corrupt, jobs := if tooMany then 0 else 1, hold := hold }] }) s
      let s := if hold then modMedia (fun m => { m with holds := m.holds ++ [(src, ts)] }) s else s
      let s := openRec src ts s.now est s
      if tooMany then frameSettle i (fillDevice src ts 0x0702 s)
      else
        modGrp g (fun y => { y with ready := y.ready ++
          [{ kind := .whole, group := g, source := src, ts := ts, pix := .frame f.slot, concealed := false, poisoned := false, failed := corrupt,
             geom := { width := x.width, height := x.height, dispX := 0, dispY := 0, dispW := x.width, dispH := x.height, depth := 8 },
             estimated := est, crop := none, prog := [], started := false, slots := [], rows := [], rowPoison := [], credits := 0, queued := 0,
             complete := false, readyAt := s.now, waitAt := none }] }) s

/-- CSI_FRAME_START (R295, R297): the frame in progress ends corrupt; the new one takes the next slot of the hoop, or is
dropped whole while that is in use. -/
def execCsiFrameStart (source : Fin 16) (frame : Half) (s : State) : Res :=
  ported s (let i := source.val
    let r := i / 4
    if !rxEnabled s r then s
    else if (s.sns i).state ≠ .running then rxDiscard r s
    else
      let s := endFrame i true s
      let x := s.sns i
      let used := x.frames.any (fun f => decide (f.slot = x.nextSlot))
      modSns i (fun x => { x with
        dropped := if used then satAdd x.dropped 1 else x.dropped
        incoming := some { slot := x.nextSlot, number := frame, dropped := used, corrupt := false, embedded := none, lines := 0 } }) s)

/-- CSI_FRAME_END (R297) -/
def execCsiFrameEnd (source : Fin 16) (frame : Half) (s : State) : Res :=
  ported s (let i := source.val
    let r := i / 4
    let _ := frame
    if !rxEnabled s r then s
    else if (s.sns i).state ≠ .running then rxDiscard r s
    else endFrame i false s)

/-- Mark the frame in progress of a source corrupt. -/
def markCorrupt (i : Nat) (s : State) : State :=
  modSns i (fun x => { x with incoming := x.incoming.map (fun f => { f with corrupt := true }) }) s

/-- CSI_LONG_PACKET (R293–R296) -/
def execCsiLongPacket (source : Fin 16) (vcx : Bool) (dataType : BitVec 6) (ecc : HeaderEcc) (crcOk : Bool) (data : List Byte) (s : State) : Res :=
  ported s (let i := source.val
    let r := i / 4
    let dt := dataType.toNat
    if !rxEnabled s r then s
    else match ecc with
    | .bad => forEach (upTo 4) (fun v => markCorrupt (4 * r + v)) (rxDiscard r s)
    | _ =>
      let s := if ecc = .corrected then modRcv r (fun x => { x with eccCorr := satAdd x.eccCorr 1 }) s else s
      let x := s.sns i
      if vcx || !(isPixelType dt || decide (dt = 0x12)) || decide (x.state ≠ .running) || x.incoming.isNone then rxDiscard r s
      else
        let s := if crcOk then s else markCorrupt i (modRcv r (fun x => { x with crc := satAdd x.crc 1 }) s)
        match (s.sns i).incoming with
        | none => s
        | some f =>
          if f.dropped then s
          else if dt = 0x12 then
            modSns i (fun x => { x with incoming := some { f with embedded := some (f.embedded.getD (data.take 256)) } }) s
          else
            let ok := decide (dt = x.dataType ∧ data.length = lineBytes dt x.width)
            let s := if ok ∧ f.lines < x.height then
                dramPut (frameAddr s i f.slot + 256 + f.lines * x.pitch) (storeLine dt x.width data) s else s
            modSns i (fun x => { x with incoming := some { f with lines := f.lines + 1, corrupt := f.corrupt || !ok } }) s)

/-- CSI_SHORT_PACKET (R293): Line Start and Line End are ignored; every other one is discarded and counted. -/
def execCsiShortPacket (source : Fin 16) (vcx : Bool) (dataType : BitVec 6) (ecc : HeaderEcc) (s : State) : Res :=
  ported s (let i := source.val
    let r := i / 4
    let dt := dataType.toNat
    if !rxEnabled s r then s
    else match ecc with
    | .bad => forEach (upTo 4) (fun v => markCorrupt (4 * r + v)) (rxDiscard r s)
    | _ =>
      let s := if ecc = .corrected then modRcv r (fun x => { x with eccCorr := satAdd x.eccCorr 1 }) s else s
      if vcx || decide ((s.sns i).state ≠ .running) || !decide (dt = 2 ∨ dt = 3) then rxDiscard r s else s)

/-- DPHY_LANE_STATE_CHANGE (R311) -/
def execDphyLaneStateChange (receiver : Fin 4) (stop : BitVec 4) (ulps : BitVec 4) (hs : Bool) (s : State) : Res :=
  ported s (modRcv receiver (fun x => { x with stop := stop, ulps := ulps, hs := hs }) s)

/-! ### Sensor sources (Tables 11.6, 11.7) -/

/-- The first failed enable check of a source; 0 when all pass. -/
def sensorCheck (s : State) (i : Nat) : Nat :=
  let off := snsSrc i
  let cfg := cfgGet s off
  let size := cfgGet s (off + 0xC)
  let (w, h) := (bits size 15 0, bits size 31 16)
  let dt := bits cfg 13 8
  let n := bits (cfgGet s (off + 0x18)) 4 0
  let base := (cfgGet64 s (off + 0x10)).toNat % 2 ^ 40 / 4096 * 4096
  let frame := cdiv (256 + cdiv (w * pixelBytes dt) 256 * 256 * h) 4096 * 4096
  let tc := cfgGet s (off + 0x1C)
  let mode := bits cfg 31 30
  if (groupOf s (bits cfg 20 16)).isNone then 1
  else if !isPixelType dt || !rxEnabled s (i / 4) then 2
  else if w < 16 ∨ 8192 < w ∨ h < 16 ∨ 8192 < h then 3
  else if n < 2 ∨ 16 < n ∨ base + n * frame > groupBytes s (bits cfg 20 16) then 4
  else if mode = 1 then (if bits (cfgGet s (snsSrc (bits cfg 3 0))) 31 30 = 0 ∧ bits cfg 3 0 ≠ i then 0 else 5)
  else if mode > 1 ∨ bits tc 7 0 + bits tc 11 8 > 256 ∨ cfgGet s (off + 0x20) = 0 then 5
  else 0

/-- ENABLE in DISABLED: RUNNING with its configuration sampled, or refused. -/
def sensorOpen (i : Nat) (s : State) : State :=
  match sensorCheck s i with
  | 0 =>
    let off := snsSrc i
    let (cfg, size, base, n) := (cfgGet s off, cfgGet s (off + 0xC), cfgGet64 s (off + 0x10), bits (cfgGet s (off + 0x18)) 4 0)
    let (tc, hz, per) := (cfgGet s (off + 0x1C), (cfgGet s (off + 0x20)).toNat, (cfgGet s (off + 0x24)).toNat)
    modSns i (fun x => { x with
      state := .running, cfg := cfg, size := size, hoopBase := base, frameCount := n, tsCfg := tc, tsHz := hz, period := per
      incoming := none, frames := [], nextSlot := 0, lastTs := none, lastCount := 0, wraps := 0, history := [] }) s
  | d => postStatus { status := 0x0608, detail := d, kind := 5, id := i }
      (modSns i (fun x => { x with state := .disabled, reason := BitVec.ofNat 8 d }) s)

/-- ENABLE of a sensor source (Table 11.6). -/
def sensorEnable (source : Nat) (s : State) : State :=
  match (s.sns source).state with
  | .disabled => sensorOpen source s
  | .stopping => modSns source (fun x => { x with state := .stoppingPendingEnable }) s
  | .running | .stoppingPendingEnable => s
/-- SENSOR_ENABLE (R309) -/
def execSensorEnable (source : Fin 16) (s : State) : Res := .next (guard (snsSrc source + 4) (sensorEnable source) s)
/-- DISABLE of a sensor source (Table 11.6). -/
def sensorDisable (source : Nat) (s : State) : State :=
  match (s.sns source).state with
  | .running => modSns source (fun x => { x with state := .stopping, incoming := none }) (dropIncoming source s)
  | .stoppingPendingEnable => modSns source (fun x => { x with state := .stopping }) s
  | .disabled | .stopping => s
/-- SENSOR_DISABLE (R309) -/
def execSensorDisable (source : Fin 16) (s : State) : Res := .next (guard (snsSrc source + 4) (sensorDisable source) s)
/-- SENSOR_STOP_COMPLETE (R309) -/
def execSensorStopComplete (source : Fin 16) (s : State) : Res :=
  rooted s (if (s.sns source).frames ≠ [] then s else
    match (s.sns source).state with
    | .stopping => modSns source (fun x => { x with state := .disabled }) s
    | .stoppingPendingEnable => sensorOpen source s
    | .disabled | .running => s)

/-! ### Buckets (Tables 11.6, 11.7) -/

def inpBkt (b : Nat) : Nat := inpBase + 0x40 * b
def snsSet (a : Nat) : Nat := snsBase + 0x800 + 0x20 * a
/-- Members of a set, from its registers. -/
def setMembers (s : State) (a : Nat) : List Nat := (upTo 4).map (fun k => (cfgGet64 s (snsSet a + 8)).toNat / 2 ^ (16 * k) % 512)
/-- The group that a source is configured for. -/
def sourceGroup (s : State) (src : Nat) : Nat :=
  if src < 256 then bits (cfgGet s (vcdSes src)) 20 16 else bits (cfgGet s (snsSrc (src - 256))) 20 16

/-- The first failed enable check of a bucket; 0 when all pass. -/
def bucketCheck (s : State) (b : Nat) : Nat :=
  let cfg := cfgGet s (inpBkt b)
  let k : Bucket := { Bucket.dflt with
    cfg := cfg, slotBytes := (cfgGet s (inpBkt b + 0xC)).toNat, ringCfg := cfgGet s (inpBkt b + 0x18) }
  let base := (cfgGet64 s (inpBkt b + 0x10)).toNat % 2 ^ 40 / 4096 * 4096
  if (groupOf s k.group).isNone then 1
  else if k.slots < 1 ∨ 64 < k.slots ∨ k.slotBytes % 256 ≠ 0 ∨ k.slotBytes < 256 ∨ 67108864 < k.slotBytes ∨ k.curdCount < 2 ∨ 64 < k.curdCount then 0x11
  else if base + k.curdCount * k.curdBytes > groupBytes s k.group then 0x12
  else if (upTo 8).any (fun a =>
      let c := cfgGet s (snsSet a)
      let n := bits c 9 8 + 1
      bit c 31 && decide (bits c 3 0 = b) &&
        (decide (n < 2 ∨ k.slots < n) || ((setMembers s a).take n).any (fun m => decide (sourceGroup s m ≠ k.group)))) then 0x13
  else 0

/-- ENABLE in DISABLED: all curds FREE, SEQ = 0, the sets that name it sampled. -/
def bucketOpen (b : Nat) (s : State) : State :=
  match bucketCheck s b with
  | 0 =>
    let (cfg, sb, base, rc) := (cfgGet s (inpBkt b), (cfgGet s (inpBkt b + 0xC)).toNat, cfgGet64 s (inpBkt b + 0x10), cfgGet s (inpBkt b + 0x18))
    let s := modBkt b (fun k => { k with
      state := .running, cfg := cfg, slotBytes := sb, ringBase := base, ringCfg := rc, curds := [], seqNext := 0, lowPosted := false }) s
    forEach (upTo 8) (fun a s =>
      let c := cfgGet s (snsSet a)
      if bits c 3 0 = b then
        let (ms, tol) := (setMembers s a, bits (cfgGet s (snsSet a + 0x10)) 15 0)
        modSet a (fun x => { x with on := bit c 31, bucket := b, count := bits c 9 8 + 1, members := ms, tol := tol, open_ := [] }) s
      else if (s.alignSet a).bucket = b then modSet a (fun x => { x with on := false, open_ := [] }) s else s) s
  | d => postStatus { status := 0x0608, detail := d, kind := 4, id := b }
      (modBkt b (fun k => { k with state := .disabled, reason := BitVec.ofNat 8 d }) s)

/-- ENABLE of a bucket (Table 11.6). -/
def bucketEnable (bucket : Nat) (s : State) : State :=
  match (s.bkt bucket).state with
  | .disabled => bucketOpen bucket s
  | .stopping => modBkt bucket (fun k => { k with state := .stoppingPendingEnable }) s
  | .running | .stoppingPendingEnable => s
/-- BUCKET_ENABLE (R309) -/
def execBucketEnable (bucket : Fin 16) (s : State) : Res := .next (guard (inpBkt bucket + 4) (bucketEnable bucket) s)

/-- DISABLE of a RUNNING bucket: the FILLING curd closes, READY curds are freed. -/
def bucketStop (b : Nat) (s : State) : State :=
  let s := closeFilling b (modBkt b (fun k => { k with state := .stopping }) s)
  forEach ((s.bkt b).curds.filter (fun c => decide (c.state = .ready))) (fun c s => dropCurd b c s) s

/-- DISABLE of a bucket (Table 11.6). -/
def bucketDisable (bucket : Nat) (s : State) : State :=
  match (s.bkt bucket).state with
  | .running => bucketStop bucket s
  | .stoppingPendingEnable => modBkt bucket (fun k => { k with state := .stopping }) s
  | .disabled | .stopping => s
/-- BUCKET_DISABLE (R309) -/
def execBucketDisable (bucket : Fin 16) (s : State) : Res := .next (guard (inpBkt bucket + 4) (bucketDisable bucket) s)
/-- BUCKET_STOP_COMPLETE (R309) -/
def execBucketStopComplete (bucket : Fin 16) (s : State) : Res :=
  rooted s (if (s.bkt bucket).curds ≠ [] then s else
    match (s.bkt bucket).state with
    | .stopping => modBkt bucket (fun k => { k with state := .disabled }) s
    | .stoppingPendingEnable => bucketOpen bucket s
    | .disabled | .running => s)

/-- CURD_FILL_TIMEOUT (R304): FILL_US have passed since the FILLING curd's first slot. -/
def execCurdFillTimeout (bucket : Fin 16) (s : State) : Res :=
  rooted s (if (s.bkt bucket).fillUs = 0 then s else closeFilling bucket s)

/-- READY curds of a bucket. -/
def readyCurds (k : Bucket) : List Curd := k.curds.filter (fun c => decide (c.state = .ready))

/-- READY has returned to LOW_WATER: the alarm may be posted again (R308). -/
def rearmLow (b : Nat) (s : State) : State :=
  let low := bits (cfgGet s (inpBkt b + 0x1C)) 7 0
  modBkt b (fun k => { k with lowPosted := k.lowPosted && decide ((readyCurds k).length < low) }) s

/-- CURD_READY (R303, R304): the oldest CLOSING curd, once every slot is written, has its unassigned slots and its header
written and becomes READY; a stopping bucket frees it at once. -/
def execCurdReady (bucket : Fin 16) (s : State) : Res :=
  rooted s (let b := bucket.val
    match (s.bkt b).curds.find? (fun c => decide (c.state = .closing ∨ c.state = .filling)) with
    | none => s
    | some c =>
      if c.state = .filling ∨ ¬ c.slots.all (fun x => x.written && !x.reserved) then s else
      let k := s.bkt b
      let s := forEach (upTo (k.slots - c.slots.length)) (fun n s => dramZero (slotAddr s b c.seq (c.slots.length + n)) k.slotBytes s) s
      let s := dramPut (curdAddr s b c.seq) (fitBytes k.hdrBytes (curdHeader b k c)) s
      let s := modCurd b c.seq (fun d => { d with state := .ready }) s
      if k.state = .running then rearmLow b s else dropCurd b { c with state := .ready } s)

/-- ALIGN_BLOCK_TIMEOUT (R306): the set's oldest open block closes; its empty member slots are written missing. -/
def execAlignBlockTimeout (set : Fin 8) (s : State) : Res :=
  rooted s (let a := set.val
    match (s.alignSet a).open_ with
    | [] => s
    | k :: rest =>
      let x := s.alignSet a
      let b := x.bucket
      let s := forEach (upTo x.count) (fun m s =>
        if ((curdOf s b k.seq).map (fun c => (c.slots.getD (k.first + m) CurdSlot.blank).reserved)).getD false then
          modSlot b k.seq (k.first + m) (fun y => { y with reserved := false, written := true, valid := false, status := 0x0607 })
            (dramZero (slotAddr s b k.seq (k.first + m)) (s.bkt b).slotBytes s)
        else s) s
      modSet a (fun x => { x with open_ := rest, blocks := satAdd x.blocks 1, incomplete := satAdd x.incomplete 1 }) s)

/-! ### Counters (R312) -/

/-- SNS_CLEAR_SET (R312) -/
def clearSnsSet (s : State) : State :=
  modMedia (fun m => { m with sets := Table.remap AlignSet.dflt (fun _ x => { x with blocks := 0, incomplete := 0 }) m.sets }) s
def execSnsClearSet (s : State) : Res := .next (guard (snsBase + 0xC00) clearSnsSet s)
/-- SNS_CLEAR_SRC (R312) -/
def clearSnsSrc (s : State) : State :=
  modMedia (fun m => { m with sensors := Table.remap Sensor.dflt (fun _ x =>
    { x with completed := 0, dropped := 0, corrupt := 0, estimated := 0 }) m.sensors }) s
def execSnsClearSrc (s : State) : Res := .next (guard (snsBase + 0xC00) clearSnsSrc s)
/-- SNS_CLEAR_RX (R312) -/
def clearSnsRx (s : State) : State :=
  modMedia (fun m => { m with receivers := Table.remap Receiver.dflt (fun _ x => { x with eccCorr := 0, discard := 0, crc := 0 }) m.receivers }) s
def execSnsClearRx (s : State) : Res := .next (guard (snsBase + 0xC00) clearSnsRx s)
/-- INP_CLEAR_BKT (R312) -/
def clearInpBkt (s : State) : State :=
  modMedia (fun m => { m with buckets := Table.remap Bucket.dflt (fun _ x =>
    { x with short := 0, dropped := 0, lowEvents := 0, fullWait := 0 }) m.buckets }) s
def execInpClearBkt (s : State) : Res := .next (guard (inpBase + 0x400) clearInpBkt s)

end Sys2Proof.Machine
end

