-- ==== Sys2Proof/Machine/OpsLayer.lean ====
section
/-! DEFINITION. Layers: the geometry of GEMM, CONV and POOL, tile plans, the rows a tile computes (R176–R191,
R286–R289). -/

namespace Sys2Proof.Machine
open Sys2Proof

/-- A count rounded up to a multiple of 16. -/
def pad16 (n : Nat) : Nat := cdiv n 16 * 16

/-- H_OUT or W_OUT of R176. -/
def outDim (inn before after d k st : Nat) : Int :=
  ((inn : Int) + before + after - d * ((k : Int) - 1) - 1) / (max st 1 : Nat) + 1

/-- A layer as its 64 bytes give it: a command's, or a FUSED stage record (Tables 6.10, 6.14, 10.7). -/
structure Layer where
  op : Nat
  e : Entry64
  deriving DecidableEq, Repr

namespace Layer
def f (l : Layer) (i n : Nat) : Nat := entField l.e i n
def isGemm (l : Layer) : Bool := decide (l.op = opGemm)
def isPool (l : Layer) : Bool := decide (l.op = opPool)
def x (l : Layer) : Nat := l.f 16 8
def w (l : Layer) : Nat := l.f 24 8
def y (l : Layer) : Nat := l.f 32 8
/-- GLOBAL of a POOL. -/
def global (l : Layer) : Bool := l.isPool && bit l.e (46 * 8 + 7)
def avg (l : Layer) : Bool := bit l.e (46 * 8 + 6)
def countPad (l : Layer) : Bool := bit l.e (46 * 8 + 5)
def poolType (l : Layer) : Nat := l.f 46 1 / 4 % 8
def hin (l : Layer) : Nat := l.f 40 2
def win (l : Layer) : Nat := l.f 42 2
def cin (l : Layer) : Nat := l.f 44 2
def kh (l : Layer) : Nat := if l.global then l.hin else l.f 48 1 / 16
def kw (l : Layer) : Nat := if l.global then l.win else l.f 48 1 % 16
def sh (l : Layer) : Nat := if l.global then 1 else l.f 49 1 / 16
def sw (l : Layer) : Nat := if l.global then 1 else l.f 49 1 % 16
def dh (l : Layer) : Nat := if l.global then 1 else l.f 50 1 / 16
def dw (l : Layer) : Nat := if l.global then 1 else l.f 50 1 % 16
def batch (l : Layer) : Nat := l.f 51 1
def top (l : Layer) : Nat := if l.global then 0 else l.f 54 2 / 4096
def bottom (l : Layer) : Nat := if l.global then 0 else l.f 54 2 / 256 % 16
def left (l : Layer) : Nat := if l.global then 0 else l.f 54 2 / 16 % 16
def right (l : Layer) : Nat := if l.global then 0 else l.f 54 2 % 16
def houtInt (l : Layer) : Int := outDim l.hin l.top l.bottom l.dh l.kh l.sh
def woutInt (l : Layer) : Int := outDim l.win l.left l.right l.dw l.kw l.sw
def hout (l : Layer) : Nat := l.houtInt.toNat
def wout (l : Layer) : Nat := l.woutInt.toNat
/-- M, K and N (R176). -/
def m (l : Layer) : Nat := if l.isGemm then l.f 40 4 else l.batch * l.hout * l.wout
def k (l : Layer) : Nat := if l.isGemm then l.f 44 2 else l.kh * l.kw * l.cin
def n (l : Layer) : Nat := if l.isPool then l.cin else l.f 46 2
def arith (l : Layer) : Nat := l.f 52 1
def mode (l : Layer) : Nat := l.arith / 32
def group (l : Layer) : Nat := l.arith / 8 % 4
def grid (l : Layer) : Nat := l.arith % 8
def tiling (l : Layer) : Nat := l.f 53 1
def tileMode (l : Layer) : Nat := l.tiling / 64
def noSplitK (l : Layer) : Bool := decide (l.tiling / 32 % 2 = 1)
def noSteal (l : Layer) : Bool := decide (l.tiling / 16 % 2 = 1)
def desc (l : Layer) : Nat := l.f 56 4
def block (l : Layer) : Nat := l.f 60 4
/-- Bytes of an element of X. -/
def xSize (l : Layer) : Nat := if l.isPool then (if l.poolType < 2 then 1 else 2) else actBytes l.mode
/-- Bytes between rows of X, or between its pixels. -/
def xPitch (l : Layer) : Nat := if l.isGemm then l.f 48 2 else pad16 (l.cin * l.xSize)
/-- Bytes of X. -/
def xBytes (l : Layer) : Nat :=
  if l.isGemm then (l.m - 1) * l.xPitch + l.k * l.xSize else l.batch * l.hin * l.win * l.xPitch
/-- Bytes between rows of Y for an element size. -/
def yPitch (l : Layer) (size : Nat) : Nat := if l.isGemm then l.f 50 2 else pad16 (l.n * size)
def yBytes (l : Layer) (size : Nat) : Nat :=
  if l.isGemm then (l.m - 1) * l.yPitch size + l.n * size else l.m * l.yPitch size
def slices (l : Layer) : Nat := cdiv l.k 128
def columnBlocks (l : Layer) : Nat := cdiv l.n 128
def setBytes (l : Layer) : Nat := Sys2Proof.Machine.setBytes l.mode l.group
/-- Number of weight set (nb, kb) in the tensor (R176). -/
def setIndex (l : Layer) (nb kb : Nat) : Nat := nb * l.slices + kb
def wBytes (l : Layer) : Nat := if l.isPool then 0 else l.columnBlocks * l.slices * l.setBytes
/-- Columns of column block `nb`, and elements of slice `kb`. -/
def columns (l : Layer) (nb : Nat) : Nat := min 128 (l.n - nb * 128)
def sliceLen (l : Layer) (kb : Nat) : Nat := min 128 (l.k - kb * 128)
end Layer

def Cmd.layer (c : Cmd) : Layer := { op := c.op, e := c.entry }

/-! ### X and W (R176, R177, R286) -/

/-- Image, output row and column of output pixel `r`. -/
def pixelOf (l : Layer) (r : Nat) : Nat × Nat × Nat :=
  (r / max (l.hout * l.wout) 1, r / max l.wout 1 % max l.hout 1, r % max l.wout 1)

/-- Pixel of X under tap (i, j) of output pixel `r`, none in padding (R286). -/
def tapPixel (l : Layer) (r i j : Nat) : Option Nat :=
  let (b, oy, ox) := pixelOf l r
  let iy : Int := (oy * l.sh : Nat) - (l.top : Int) + (i * l.dh : Nat)
  let ix : Int := (ox * l.sw : Nat) - (l.left : Int) + (j * l.dw : Nat)
  if 0 ≤ iy ∧ iy < l.hin ∧ 0 ≤ ix ∧ ix < l.win then
    some ((b * l.hin + iy.toNat) * l.win + ix.toNat)
  else none

/-- The bytes of row `r`'s vector in slice `kb`, as runs of (row or pixel of X with the byte in it, bytes); a run in padding
has no place. -/
def sliceRuns (l : Layer) (r kb : Nat) : List (Option (Nat × Nat) × Nat) :=
  let lo := kb * 128
  let hi := lo + l.sliceLen kb
  if l.isGemm then [(some (r, lo * l.xSize), l.sliceLen kb * l.xSize)]
  else
    let cin := max l.cin 1
    (upTo (cdiv hi cin - lo / cin)).map (fun t =>
      let tap := lo / cin + t
      let a := max lo (tap * cin)
      let b := min hi ((tap + 1) * cin)
      ((tapPixel l r (tap / max l.kw 1) (tap % max l.kw 1)).map (fun p => (p, (a - tap * cin) * l.xSize)), (b - a) * l.xSize))

/-- A way to read X: row or pixel, byte in it, bytes. -/
abbrev XRead := Nat → Nat → Nat → State → Marked × State

/-- Gather runs of X; padding gives zeros that nothing reads (R77, R177). -/
def gather (xrd : XRead) (rs : List (Option (Nat × Nat) × Nat)) (s : State) : Marked × State :=
  rs.foldl (fun p r => match r.1 with
    | none => (p.1 ++ List.replicate r.2 (0, false), p.2)
    | some q => let (d, s) := xrd q.1 q.2 r.2 p.2; (p.1 ++ d, s)) ([], s)

/-! ### Pooling (R289) -/

/-- Pixels of X under the window of output pixel `r`. -/
def poolTaps (l : Layer) (r : Nat) : List Nat :=
  (upTo (l.kh * l.kw)).filterMap (fun t => tapPixel l r (t / max l.kw 1) (t % max l.kw 1))

/-- A pooled element of channel `ch` from its taps' pixels: its code and the poison of its taps. -/
def poolElem (l : Layer) (pixels : List Marked) (ch : Nat) : Nat × Bool :=
  let taps := pixels.map (fun d => markedNat d (ch * l.xSize) l.xSize)
  let poison := taps.any (·.2)
  let val : Nat → Word := fun c => match l.poolType with
    | 0 => f32ofInt (BitVec.ofNat 8 c).toInt
    | 1 => f32ofInt c
    | 2 => BitVec.ofNat 32 (fp32.encode false (bf16.decode c))
    | _ => BitVec.ofNat 32 (fp32.encode false (fp16.decode c))
  let ot := l.poolType
  if taps = [] then (0, false)
  else if l.avg then
    let sum := taps.foldl (fun a t => f32add a (val t.1)) 0
    let cnt := if l.countPad then l.kh * l.kw else taps.length
    (drainConvert ot (f32div sum (f32ofInt cnt)), poison)
  else
    match taps with
    | [] => (0, false)
    | t :: ts => (drainConvert ot (ts.foldl (fun a u => f32max a (val u.1)) (val t.1)), poison)

/-- An output pixel of a POOL, all channels. -/
def poolPixel (l : Layer) (pixels : List Marked) : Marked :=
  (upTo l.n).flatMap (fun c =>
    let (v, p) := poolElem l pixels c
    (toBytes (BitVec.ofNat 32 v) l.xSize).map (fun b => (b, p)))

/-! ### Tile plans (R179–R183) -/

/-- Dimensions of an order code, outermost first: 0 M, 1 N, 2 K (Table 6.12). -/
def orderDims (c : Nat) : List Nat :=
  match c with
  | 0 => [0, 1, 2]
  | 1 => [1, 0, 2]
  | 2 => [0, 2, 1]
  | 3 => [1, 2, 0]
  | 4 => [2, 0, 1]
  | _ => [2, 1, 0]

/-- Position in each dimension of index `i`, the innermost varying fastest (R179). -/
def splitIndex (order : List Nat) (count : Nat → Nat) (i : Nat) (dim : Nat) : Nat :=
  (order.reverse.foldl (fun (p : Nat × Nat) d =>
    if d = dim then (p.1 / max (count d) 1, p.1 % max (count d) 1 + 1)
    else (p.1 / max (count d) 1, p.2)) (i, 0)).2 - 1

def autoSteal (u v : Nat) : Nat := min (max (cdiv u (4 * max v 1)) 1) 256

/-- plan_auto of R182. -/
def planAuto (l : Layer) (v : Nat) (fused : Bool) : Plan :=
  let ks := l.slices
  let mt := if l.m ≤ 512 then l.m else 512
  let mb := cdiv l.m mt
  let t := mb * l.columnBlocks
  let s := if !l.noSplitK && !fused && decide (2 ≤ ks ∧ t < 2 * v) then min ks (2 * v / max t 1) else 1
  { mt := mt, nt := 128, kt := 0, mt1 := mt, mb := mb, nb := l.columnBlocks, kb := s, order0 := 0, order1 := 0,
    auto := true, t := t, s := s, u := t * s, round := 0, stealMax := autoSteal (t * s) v, stealEn := !l.noSteal }

/-- Blocks inside K in ORDER1 multiply the accumulator demand (R180). -/
def accDemand (order1 mt mt1 nt : Nat) : Nat :=
  let inner := ((orderDims order1).dropWhile (fun d => decide (d ≠ 2))).drop 1
  mt1 * (if 0 ∈ inner then cdiv mt (max mt1 1) else 1) * (if 1 ∈ inner then nt / 128 else 1)

/-- A plan from a tile block in SINGLE or PER_LEVEL mode; none where R180 refuses the block. -/
def planBlock (l : Layer) (v fwBanks : Nat) (b : List Byte) : Option Plan :=
  let single := decide (l.tileMode = 1)
  let mt := fieldAt b 0 2
  let nt := if single then 128 else fieldAt b 2 2
  let kt0 := fieldAt b 4 2
  let o0 := fieldAt b 6 1
  let o1 := if single then o0 else fieldAt b 7 1
  let mt1 := if single then mt else fieldAt b 8 2
  let st := fieldAt b 10 2
  let work := mt * kt0 * l.xSize + nt / 128 * cdiv kt0 128 * l.setBytes
  if mt = 0 ∨ nt = 0 ∨ nt % 128 ≠ 0 ∨ kt0 = 0 ∨ (kt0 % 128 ≠ 0 ∧ kt0 < l.k) ∨ 5 < o0 ∨ 5 < o1 ∨ mt1 = 0 ∨ 1024 < mt1 ∨
     256 < st ∨ mt < mt1 ∨ 1024 < accDemand o1 mt mt1 nt ∨ fwBanks * 0x20000 < 2 * work then none
  else
    let kt := if kt0 < l.k ∧ l.noSplitK = false then kt0 else l.slices * 128
    let mb := cdiv l.m mt
    let nb := cdiv l.n nt
    let kb := cdiv (l.slices * 128) (max kt 1)
    let u := mb * nb * kb
    some { mt := mt, nt := nt, kt := kt, mt1 := mt1, mb := mb, nb := nb, kb := kb, order0 := o0, order1 := o1,
           auto := false, t := mb * nb, s := kb, u := u, round := 0,
           stealMax := if st = 0 then autoSteal u v else st, stealEn := !l.noSteal }

/-- What index `i` of a plan names. -/
structure Tile where
  /-- First row and rows; first column block and blocks. -/
  row : Nat
  rows : Nat
  block : Nat
  blocks : Nat
  /-- First slice and slices; the part. -/
  slice : Nat
  slices : Nat
  part : Nat
  deriving DecidableEq, Repr

/-- The tile of index `i` (R179, R182). -/
def tileOf (l : Layer) (p : Plan) (i : Nat) : Tile :=
  if p.auto then
    let part := i / max p.t 1
    let nb := i % max p.t 1 / max p.mb 1
    let mb := i % max p.mb 1
    let q := l.slices / max p.s 1
    let r := l.slices % max p.s 1
    { row := mb * p.mt, rows := min p.mt (l.m - mb * p.mt), block := nb, blocks := 1,
      slice := part * q + min part r, slices := q + (if part < r then 1 else 0), part := part }
  else
    let count := fun d => if d = 0 then p.mb else if d = 1 then p.nb else p.kb
    let pos := splitIndex (orderDims p.order0) count i
    let nbs := p.nt / 128
    let ks := p.kt / 128
    { row := pos 0 * p.mt, rows := min p.mt (l.m - pos 0 * p.mt), block := pos 1 * nbs,
      blocks := min nbs (l.columnBlocks - pos 1 * nbs),
      slice := pos 2 * ks, slices := min ks (l.slices - pos 2 * ks), part := pos 2 }

/-- Passes of a tile in ORDER1, as (row block, column block, slice) within the tile (R179). -/
def tilePasses (p : Plan) (t : Tile) : List (Nat × Nat × Nat) :=
  let count := fun d => if d = 0 then cdiv t.rows (max p.mt1 1) else if d = 1 then t.blocks else t.slices
  (upTo (count 0 * count 1 * count 2)).map (fun i =>
    let pos := splitIndex (orderDims p.order1) count i
    (pos 0, pos 1, pos 2))

/-- First entry of the sums of row block `mi` and column block `ni` of a tile, past the tile's base: blocks inside K stand
side by side (R180). -/
def blockEntry (p : Plan) (mi ni : Nat) : Nat :=
  let inner := ((orderDims p.order1).dropWhile (fun d => decide (d ≠ 2))).drop 1
  ((if 0 ∈ inner then mi else 0) * (if 1 ∈ inner then p.nt / 128 else 1) + (if 1 ∈ inner then ni else 0)) * p.mt1

/-- Offset in Y of row `row`, column block `nb`. -/
def yOffset (l : Layer) (size row nb : Nat) : Nat := row * l.yPitch size + nb * 128 * size

end Sys2Proof.Machine
end

