-- ==== Sys2Proof/Machine/OpsCave.lean ====
section
/-! DEFINITION. The cave: placement, eviction and residency of model versions (R339–R343), and the states of
versions (R118–R120). -/

namespace Sys2Proof.Machine
open Sys2Proof

/-- Resident READY banks of a hearth that can hold data of model `m`: untagged, or tagged with it (R129). -/
def modelBanks (s : State) (h : Nat) (m : Half) : List Nat :=
  let x := s.hearth h
  if x.state ≠ .active then [] else
  (upTo 32).filter (fun b => decide ((x.bank b).state = .ready ∧ (x.bank b).cls = .resident) &&
    (match (x.bank b).tag with
      | none => true
      | some t => decide (t = m)))

/-- Bytes of bank `b` of hearth `h` that the vat's pieces have taken. -/
def bankUsed (cave : List CaveEntry) (h b : Nat) : Nat :=
  ((cave.flatMap (·.pieces)).filter (fun p => decide (p.hearth = h ∧ p.addr / 0x20000 = b))).foldl
    (fun a p => max a (p.addr % 0x20000 + p.len)) 0

/-- Free resident bytes of a hearth for model `m`. -/
def freeResident (s : State) (cave : List CaveEntry) (h : Nat) (m : Half) : Nat :=
  ((modelBanks s h m).map (fun b => 0x20000 - cdiv (bankUsed cave h b) 16 * 16)).foldl (· + ·) 0

/-- Pieces for `len` bytes from `offset` on hearth `h`, in rising bank number. -/
def cutPieces (s : State) (cave : List CaveEntry) (h : Nat) (m : Half) (tensor stripe offset len : Nat) : List CavePiece :=
  ((modelBanks s h m).foldl (fun (p : List CavePiece × Nat) b =>
    let used := cdiv (bankUsed cave h b) 16 * 16
    let n := min (0x20000 - used) (len - p.2)
    if n = 0 then p else
    (p.1 ++ [{ tensor := tensor, stripe := stripe, offset := offset + p.2, len := n, hearth := h,
               addr := b * 0x20000 + used, landed := false }], p.2 + n)) ([], 0)).1

/-- The directory entry of a version, put in place of its old one. -/
def putEntry (e : CaveEntry) (cave : List CaveEntry) : List CaveEntry :=
  cave.filter (fun x => decide ¬ (x.model = e.model ∧ x.version = e.version)) ++ [e]

/-- Place one stripe of `len` bytes, first choice hearth `h0`, else the nearest with room (R340). -/
def placeStripe (s : State) (v : Nat) (h0 : Nat) (tensor stripe offset len : Nat) (e : CaveEntry) (cave : List CaveEntry) :
    Option CaveEntry :=
  let c := putEntry e cave
  let order := h0 :: sortBy (fun g => hops h0 g * 32 + g) ((activeHearths s v).filter (fun g => decide (g ≠ h0)))
  match order.find? (fun h => decide (len ≤ freeResident s c h e.model)) with
  | none => none
  | some h => some { e with pieces := e.pieces ++ cutPieces s c h e.model tensor stripe offset len }

/-- A tensor shared with a version already placed uses its pieces (chapter 13, The cave). -/
def sharedPieces (s : State) (ver : Version) (t : TensorRec) (idx : Nat) (cave : List CaveEntry) : Option (List CavePiece) :=
  firstSome (fun k =>
    match cave[k]? with
    | none => none
    | some e => if e.model ≠ ver.model ∨ e.version = ver.version then none else
      match findVersion s e.model e.version with
      | none => none
      | some w => match w.tensors.zipIdx.find? (fun q => decide (q.1.store = t.store ∧ q.1.len = t.len ∧ q.2 ∉ e.spilled)) with
        | none => none
        | some (u, i) =>
          match (e.pieces.filter (fun p => decide (p.tensor = i))) with
          | [] => none
          | ps => some (ps.map (fun p => { p with tensor := idx, offset := p.offset - u.offset + t.offset })))
    (upTo cave.length)

/-- Place a whole tensor, or nothing (R339). -/
def placeTensor (s : State) (v : Nat) (ver : Version) (t : TensorRec) (idx : Nat) (e : CaveEntry) (cave : List CaveEntry) :
    Option CaveEntry :=
  match sharedPieces s ver t idx cave with
  | some ps => some { e with pieces := e.pieces ++ ps }
  | none =>
    let hs := vatHearths s v
    if t.blocks = 0 then
      let c := putEntry e cave
      let best := (activeHearths s v).foldl (fun (b : Option Nat) h => match b with
        | none => some h
        | some g => if freeResident s c g e.model < freeResident s c h e.model then some h else some g) none
      match best with
      | none => none
      | some h => if freeResident s c h e.model < t.len then none
        else some { e with pieces := e.pieces ++ cutPieces s c h e.model idx 0 t.offset t.len }
    else
      let each := t.len / t.blocks
      let len := fun nb => if nb + 1 = t.blocks then t.len - each * nb else each
      (upTo t.blocks).foldl (fun (o : Option CaveEntry) nb => match o with
        | none => none
        | some e => placeStripe s v (hs.getD (nb * hs.length / t.blocks) 0) idx nb (t.offset + nb * each) (len nb) e cave) (some e)

/-- A live or queued job of the vat binds the version (R342). -/
def caveBound (s : State) (v : Nat) (e : CaveEntry) : Bool :=
  (liveJobs s).any (fun p => decide (p.2.vat = v) &&
    (decide ((e.model, e.version) ∈ p.2.bound) ||
     (decide (p.2.state = .queued ∧ e.model ∈ p.2.bind) &&
      ((currentVersion s e.model).map (fun x => decide (x.version = e.version))).getD false)))

/-- The version that an eviction takes first: not bound, not RETIRING, least recently bound. -/
def victimVersion (s : State) (v : Nat) (keep : Half × Word) : Option CaveEntry :=
  let free := (s.vat v).cave.filter (fun e => !caveBound s v e && decide ((e.model, e.version) ≠ keep) &&
    ((findVersion s e.model e.version).map (fun x => decide (x.state ≠ .retiring))).getD true)
  (sortBy (fun e => e.bound) free).head?

/-- Tags of banks that no piece of the vat uses any longer are cleared. -/
def clearTags (v : Nat) (s : State) : State :=
  let ps := (s.vat v).cave.flatMap (·.pieces)
  forEach (vatHearths s v) (fun h s => modHearth h (fun x => { x with
    banks := Table.remap Bank.dflt (fun b k =>
      if k.cls = .resident ∧ ps.all (fun p => decide ¬ (p.hearth = h ∧ p.addr / 0x20000 = b)) = true then { k with tag := none } else k) x.banks }) s) s

/-- A version leaves the cave: ABSENT (Table 13.2). -/
def dropCave (v : Nat) (m : Half) (ver : Word) (s : State) : State :=
  clearTags v (modVat v (fun x => { x with cave := x.cave.filter (fun e => decide ¬ (e.model = m ∧ e.version = ver)) }) s)

/-- The tags of the banks that an entry's pieces use. -/
def setTags (e : CaveEntry) (s : State) : State :=
  forEach e.pieces (fun p s => modBank p.hearth (p.addr / 0x20000) (fun b => { b with tag := some e.model }) s) s

/-- Place one tensor, evicting as R342 allows. `fuel` bounds the evictions. -/
def placeEvict : Nat → Nat → Version → TensorRec → Nat → CaveEntry → State → Option CaveEntry × State
  | 0, _, _, _, _, _, s => (none, s)
  | fuel + 1, v, ver, t, idx, e, s =>
    match placeTensor s v ver t idx e (s.vat v).cave with
    | some e => (some e, setTags e s)
    | none => match victimVersion s v (ver.model, ver.version) with
      | none => (none, s)
      | some x => placeEvict fuel v ver t idx e
          (modVat v (fun k => { k with evictions := satAdd k.evictions 1 }) (dropCave v x.model x.version s))

/-- Every placed piece has landed: RESIDENT, or PARTIAL with its spilled tensors counted (Table 13.2). -/
def settleEntry (v : Nat) (m : Half) (ver : Word) (s : State) : State :=
  match (s.vat v).cave.find? (fun e => decide (e.model = m ∧ e.version = ver)) with
  | none => s
  | some e =>
    if e.state = .loading ∧ e.pieces.all (·.landed) then
      modVat v (fun x => { x with
        cave := x.cave.map (fun y => if y.model = m ∧ y.version = ver then
          { y with state := if e.spilled = [] then CaveState.resident else CaveState.partialRes } else y)
        spilledCount := satAdd x.spilledCount e.spilled.length }) s
    else s

/-- Place the tensors `idxs` of a version in residency order: each whole, or spilled (R339). -/
def placeAll (v : Nat) (ver : Version) (idxs : List Nat) (e : CaveEntry) (s : State) : State :=
  let (e, s) := idxs.foldl (fun (p : CaveEntry × State) i =>
    match ver.tensors[i]? with
    | none => p
    | some t =>
      let (o, s) := placeEvict ((p.2.vat v).cave.length + 1) v ver t i p.1 p.2
      match o with
      | some e => (e, s)
      | none => ({ p.1 with spilled := p.1.spilled ++ [i] }, s)) (e, s)
  settleEntry v ver.model ver.version
    (modVat v (fun x => { x with cave := putEntry { e with state := .loading } x.cave }) s)

/-- A starting job binds a version in vat `v`: placement where it is ABSENT (R339). -/
def caveBind (v : Nat) (m : Half) (ver : Word) (s : State) : State :=
  let s := { s with jobOrder := s.jobOrder + 1 }
  match (s.vat v).cave.find? (fun e => decide (e.model = m ∧ e.version = ver)) with
  | some e => modVat v (fun x => { x with cave := putEntry { e with bound := s.jobOrder } x.cave }) s
  | none => match findVersion s m ver with
    | none => s
    | some w => placeAll v w (upTo w.tensors.length)
        { model := m, version := ver, state := .loading, pieces := [], spilled := [], bound := s.jobOrder } s

/-- Spilled tensors of CURRENT versions are placed again where room has become free for one of them (R342, R121). -/
def caveRetry (v : Nat) (s : State) : State :=
  forEach ((s.vat v).cave.filter (fun e => decide (e.state = .partialRes))) (fun e s =>
    match findVersion s e.model e.version with
    | none => s
    | some w =>
      if w.state ≠ .current then s else
      let t := placeAll v w e.spilled { e with spilled := [] } s
      if ((t.vat v).cave.find? (fun x => decide (x.model = e.model ∧ x.version = e.version))).map (·.spilled) = some e.spilled then s else t) s

/-! ### Version states (Table 4.8) -/

def modVersion (m : Half) (ver : Word) (f : Version → Version) (s : State) : State :=
  { s with versions := s.versions.map (fun x => if x.model = m ∧ x.version = ver then f x else x) }

/-- Some job binds the version. -/
def versionBound (s : State) (m : Half) (ver : Word) : Bool :=
  (liveJobs s).any (fun p => decide ((m, ver) ∈ p.2.bound))

/-- RETIRING versions that no job binds any longer become IDLE, and their banks can go (R119, R342). -/
def settleVersions (s : State) : State :=
  let old := s.versions.filter (fun x => decide (x.state = .retiring) && !versionBound s x.model x.version)
  if old = [] then s else
  let s := forEach old (fun x s => modVersion x.model x.version (fun y => { y with state := .idle }) s) s
  forEach (upTo 32) caveRetry s

/-- A version becomes CURRENT in one step; the one before retires (R118). -/
def publishVersion (m : Half) (ver : Word) (s : State) : State :=
  let s := { s with versions := s.versions.map (fun x =>
    if x.model ≠ m then x
    else if x.version = ver then { x with state := .current }
    else if x.state = .current then { x with state := if versionBound s m x.version then .retiring else .idle }
    else x) }
  s

end Sys2Proof.Machine
end

