-- ==== Sys2Proof/Machine/OpsAdapt.lean ====
section
/-! DEFINITION. On-device adaptation: the parameter block, narrow formats, stochastic rounding, the update step,
quantisation (R99, R110–R117). -/

namespace Sys2Proof.Machine
open Sys2Proof

/-! ### The parameter block (Table 4.5, R116) -/

def f32Of (n : Nat) : Word := BitVec.ofNat 32 n
def paramF (p : List Byte) (i : Nat) : Word := f32Of (fieldAt p i 4)
def Adapt.model (a : Adapt) : Half := BitVec.ofNat 16 (fieldAt a.params 0 2)
def Adapt.baseVersion (a : Adapt) : Word := BitVec.ofNat 32 (fieldAt a.params 2 2)
def Adapt.newVersion (a : Adapt) : Word := BitVec.ofNat 32 (fieldAt a.params 4 2)
def Adapt.exchange (a : Adapt) : Bool := decide (fieldAt a.params 6 1 / 128 = 1)
def Adapt.bell8 (a : Adapt) : Bool := decide (fieldAt a.params 6 1 / 64 % 2 = 1)
def Adapt.publish (a : Adapt) : Bool := decide (fieldAt a.params 6 1 / 32 % 2 = 1)
def Adapt.seed (a : Adapt) : Word := paramF a.params 8
def Adapt.stepsWanted (a : Adapt) : Nat := fieldAt a.params 12 4
def Adapt.trainMask (a : Adapt) : Nat := fieldAt a.params 56 4

/-- x ≥ 0, a NaN failing. -/
def f32nonneg (x : Word) : Bool := !f32isNaN x && !f32lt x 0
def f32one : Word := 0x3F800000

/-- The block breaks a range of Table 4.5, or a condition of R116. `avail` is the size of the job's partition. -/
def adaptBad (s : State) (p : List Byte) (avail : Nat) : Bool :=
  let model : Half := BitVec.ofNat 16 (fieldAt p 0 2)
  let held := s.versions.filter (fun v => decide (v.model = model))
  let base := held.find? (fun v => decide (v.version.toNat = fieldAt p 2 2))
  let steps := fieldAt p 12 4
  let batch := fieldAt p 16 2
  let mask := fieldAt p 56 4
  let unit := fun x => f32nonneg x && f32lt x f32one
  decide (steps = 0 ∨ 1000000 < steps ∨ batch = 0 ∨ 1024 < batch) ||
  !f32nonneg (paramF p 20) || !unit (paramF p 24) || !unit (paramF p 28) || !f32lt 0 (paramF p 32) ||
  !f32nonneg (paramF p 36) || !f32nonneg (paramF p 40) ||
  decide (fieldAt p 60 4 = 0 ∨ 65536 < fieldAt p 60 4) || decide (fieldAt p 48 8 % 64 ≠ 0 ∨ avail ≤ fieldAt p 48 8) ||
  held.any (fun v => decide (v.version.toNat = fieldAt p 4 2)) || decide (mask = 0) ||
  decide (7 < fieldAt p 7 1 ∧ fieldAt p 7 1 ≠ 0xFF) ||
  (match base with
    | none => true
    | some v => decide (v.masters = []) ||
        (upTo 32).any (fun i => decide (mask / 2 ^ i % 2 = 1) &&
          !(v.tensors.any (fun t => decide (t.train = some i)) && v.masters.any (fun m => decide (m.num = i)))))

/-! ### Stochastic rounding (R113) -/

def mix (x : Word) : Word :=
  let x := (x ^^^ (x >>> 16)) * 0x6B1D3C55
  let x := (x ^^^ (x >>> 15)) * 0xA37F42E9
  x ^^^ (x >>> 16)

/-- u′ for an element: `tensor` is its bit number, or 32 above it for its scales. -/
def noise (seed : Word) (step tensor use index : Nat) : Word :=
  let h := mix (mix (seed + f32Of step * 0x5A3C9E17 + f32Of (tensor * 4 + use) * 0x2F6BD4C3) ^^^ f32Of index)
  f32Of (fp32.encode false (.fin false (h.toNat / 256) (-24)))

/-- U when u′ < (t − L) / (U − L), else L; all FP32. -/
def stochPick (u t lo hi : Word) : Bool := f32lt u (f32div (f32sub t lo) (f32sub hi lo))

/-- Round to an integer code in [lo, hi]; values beyond are clamped first. -/
def stochInt (u t : Word) (lo hi : Int) : Int :=
  match fp32.decode t.toNat with
  | .nan => 0
  | .inf neg => if neg then lo else hi
  | .fin neg m e =>
    let v := sInt neg m
    let fl : Int := if 0 ≤ e then v * 2 ^ e.toNat else v / 2 ^ (-e).toNat
    if fl < lo then lo else if hi ≤ fl then hi
    else if f32ofInt fl = t ∨ (fl = 0 ∧ m = 0) then fl
    else if stochPick u t (f32ofInt fl) (f32ofInt (fl + 1)) then fl + 1 else fl

/-- Round an FP32 value to one of the two BF16 values beside it; past the largest finite value it is clamped. -/
def stochBf16 (u t : Word) : Half :=
  match fp32.decode t.toNat with
  | .nan => 0x7FC0
  | .inf neg => if neg then 0xFF80 else 0x7F80
  | .fin _ _ _ =>
    let down := t.toNat / 65536
    if t.toNat % 65536 = 0 then BitVec.ofNat 16 down
    else if down % 32768 = 0x7F7F then BitVec.ofNat 16 down
    else
      let near := f32Of (down * 65536)
      let far := f32Of ((down + 1) * 65536)
      -- the code nearer zero is the lower one for positive values, the upper for negative ones
      if t.msb then (if stochPick u t far near then BitVec.ofNat 16 down else BitVec.ofNat 16 (down + 1))
      else (if stochPick u t near far then BitVec.ofNat 16 (down + 1) else BitVec.ofNat 16 down)

/-! ### Narrow group formats (R112) -/

/-- The positive half of B8, codes 128 to 255, as FP16. -/
def bell8Half : List Nat :=
  [5875, 7478, 8280, 8725, 9170, 9416, 9638, 9861, 10084, 10274, 10386, 10497, 10609, 10721, 10834, 10946] ++
  [11059, 11171, 11274, 11331, 11387, 11444, 11501, 11558, 11615, 11673, 11730, 11788, 11846, 11904, 11962, 12020] ++
  [12078, 12137, 12196, 12255, 12301, 12331, 12361, 12391, 12421, 12451, 12482, 12512, 12543, 12574, 12605, 12636] ++
  [12667, 12699, 12730, 12762, 12794, 12827, 12859, 12892, 12925, 12958, 12991, 13025, 13058, 13092, 13127, 13161] ++
  [13196, 13231, 13267, 13303, 13325, 13344, 13362, 13381, 13400, 13418, 13438, 13457, 13477, 13497, 13517, 13537] ++
  [13558, 13578, 13600, 13621, 13643, 13665, 13687, 13710, 13733, 13757, 13781, 13805, 13830, 13855, 13881, 13907] ++
  [13934, 13962, 13990, 14019, 14049, 14079, 14110, 14142, 14176, 14210, 14245, 14282, 14320, 14348, 14368, 14390] ++
  [14412, 14436, 14461, 14488, 14516, 14546, 14579, 14615, 14654, 14698, 14748, 14807, 14878, 14969, 15101, 15360]

/-- B8(c) in FP32. -/
def bell8 (c : Nat) : Word :=
  if 128 ≤ c then f32Of (fp32.encode false (fp16.decode (bell8Half.getD (c - 128) 0)))
  else f32Of (fp32.encode false (fp16.decode (bell8Half.getD (127 - c) 0 + 0x8000)))

/-- |x| -/
def f32abs (x : Word) : Word := x &&& 0x7FFFFFFF
def maxAbs (xs : List Word) : Word := xs.foldl (fun a x => if f32lt a (f32abs x) then f32abs x else a) 0

/-- A non-negative FP32 value rounded up to FP16, at most 65,504. -/
def roundUp16 (x : Word) : Nat :=
  let c := fp16.encode true (fp32.decode x.toNat)
  if f32lt (f32Of (fp32.encode false (fp16.decode c))) x then min (c + 1) 0x7BFF else min c 0x7BFF

/-- FP16 as FP32. -/
def fp16To32 (c : Nat) : Word := f32Of (fp32.encode false (fp16.decode c))

/-- A group of up to 64 as INT8 codes under an FP16 scale σ = max|x| / 127. -/
structure Group8 where
  scale : Nat
  codes : List Int
  deriving DecidableEq, Repr

/-- A group that is all zero has σ = 0. -/
def encodeInt8 (u : Nat → Word) (xs : List Word) : Group8 :=
  let c := roundUp16 (f32div (maxAbs xs) (f32ofInt 127))
  { scale := c, codes := xs.zipIdx.map (fun p => if c = 0 then 0 else stochInt (u p.2) (f32div p.1 (fp16To32 c)) (-128) 127) }

/-- The values of a group; with σ = 0 every element is 0. -/
def Group8.decode (g : Group8) : List Word :=
  g.codes.map (fun c => if g.scale = 0 then 0 else f32mul (f32ofInt c) (fp16To32 g.scale))

/-- One group through INT8 codes, and decoded. -/
def narrowInt8 (u : Nat → Word) (xs : List Word) : List Word := (encodeInt8 u xs).decode

/-- A row under a dynamic row scale ρ = max|x| / 127: nearest-even codes with saturation; a row of zeros has ρ = 0 and zero
codes (R101). -/
def quantRow (xs : List Word) : Word × List Int :=
  let r := f32div (maxAbs xs) (f32ofInt 127)
  (r, xs.map (fun x => if r = 0 then 0 else (fp32.decode (f32div x r).toNat).toInt (-128) 127))

/-- A row of activations as the forward pass saves it (Table 4.4). -/
def saveRow (exchange : Bool) (xs : List Word) : SavedRow :=
  if exchange then .bf16 (xs.map (fun x => BitVec.ofNat 16 (bf16.encode false (fp32.decode x.toNat))))
  else .int8 (quantRow xs).1 (quantRow xs).2

/-- MODE of ARITH for the passes of the backward computation (Tables 3.1 and 4.4). -/
def Adapt.backMode (a : Adapt) : Nat := if a.exchange then 2 else 0

/-- One group through bell-8 codes with σ = max|x|, and decoded. -/
def narrowBell8 (u : Nat → Word) (xs : List Word) : List Word :=
  let sg := fp16To32 (roundUp16 (maxAbs xs))
  xs.zipIdx.map (fun p =>
    if sg = 0 then 0 else
    let t := f32div p.1 sg
    let lo := ((upTo 256).filter (fun c => !f32lt t (bell8 c))).getLastD 0
    let c := if f32lt t (bell8 0) then 0 else if lo = 255 then 255
      else if bell8 lo = t then lo
      else if stochPick (u p.2) t (bell8 lo) (bell8 (lo + 1)) then lo + 1 else lo
    f32mul sg (bell8 c))

/-- One group of second moments through UINT8 codes of their square roots, and decoded as (σ × c)². -/
def narrowSquare (u : Nat → Word) (xs : List Word) : List Word :=
  let rs := xs.map f32sqrt
  let sg := fp16To32 (roundUp16 (f32div (maxAbs rs) (f32ofInt 255)))
  rs.zipIdx.map (fun p =>
    if sg = 0 then 0 else
    let y := f32mul sg (f32ofInt (stochInt (u p.2) (f32div p.1 sg) 0 255))
    f32mul y y)

/-- Apply a group narrowing to each 64 consecutive elements. -/
def inGroups (f : (Nat → Word) → List Word → List Word) (u : Nat → Word) (xs : List Word) : List Word :=
  (upTo (cdiv xs.length 64)).flatMap (fun g => f (fun i => u (64 * g + i)) ((xs.drop (64 * g)).take 64))

/-! ### The update step (R114) -/

/-- βᵗ in FP32, rounded once. -/
def f32pow (b : Word) (t : Nat) : Word :=
  match fp32.decode b.toNat with
  | .nan => f32nan
  | .inf _ => b
  | .fin neg m e => f32Of (fp32.encode false (.fin (neg && decide (t % 2 = 1)) (m ^ t) (e * t)))

/-- The scalars of one step: learning rate, betas, corrections, eps, decay, the clip factor. -/
structure StepScalars where
  lr : Word
  lrScale : Word
  b1 : Word
  b2 : Word
  c1 : Word
  c2 : Word
  eps : Word
  decay : Word
  clip : Option Word
  deriving DecidableEq, Repr

def stepScalars (p : List Byte) (t : Nat) (gnorm : Word) : StepScalars :=
  let clip := paramF p 44
  { lr := paramF p 20, lrScale := f32mul (paramF p 20) (paramF p 40), b1 := paramF p 24, b2 := paramF p 28,
    c1 := f32sub f32one (f32pow (paramF p 24) t), c2 := f32sub f32one (f32pow (paramF p 28) t),
    eps := paramF p 32, decay := paramF p 36,
    clip := if f32lt 0 clip && f32lt clip gnorm then some (f32div clip gnorm) else none }

/-- One element: new w, m and v. -/
def updateOne (k : StepScalars) (isScale : Bool) (w m v g : Word) : Word × Word × Word :=
  let g := match k.clip with
    | none => g
    | some c => f32mul g c
  let m := f32add (f32mul k.b1 m) (f32mul (f32sub f32one k.b1) g)
  let v := f32add (f32mul k.b2 v) (f32mul (f32mul (f32sub f32one k.b2) g) g)
  let mh := f32div m k.c1
  let vh := f32div v k.c2
  let step := f32add (f32div mh (f32add (f32sqrt vh) k.eps)) (f32mul (if isScale then 0 else k.decay) w)
  (f32sub w (f32mul (if isScale then k.lrScale else k.lr) step), m, v)

/-- The step of one tensor with its decoded weight and scale gradients: the update, then masters and moments stored in the
forms of the job's scope (Table 4.4). -/
def stepTensor (a : Adapt) (t : Nat) (gnorm : Word) (gw gs : List Word) (x : Masters × Moments) : Masters × Moments :=
  let k := stepScalars a.params t gnorm
  let u := fun use => noise a.seed t x.1.num use
  let rs := (upTo x.1.w.length).map (fun i =>
    updateOne k false (bf32 (x.1.w.getD i 0)) (x.2.m.getD i 0) (x.2.v.getD i 0) (gw.getD i 0))
  let ss := (upTo x.1.scales.length).map (fun i =>
    updateOne k true (x.1.scales.getD i 0) (x.2.ms.getD i 0) (x.2.vs.getD i 0) (gs.getD i 0))
  let m := rs.map (fun r => r.2.1)
  let v := rs.map (fun r => r.2.2)
  ({ x.1 with w := rs.zipIdx.map (fun p => stochBf16 (u 3 p.2) p.1.1), scales := ss.map (·.1) },
   { m := if a.exchange then m else inGroups (if a.bell8 then narrowBell8 else narrowInt8) (u 1) m
     v := if a.exchange then v else inGroups narrowSquare (u 2) v
     ms := ss.map (fun r => r.2.1), vs := ss.map (fun r => r.2.2) })

/-! ### Quantising (R99, Table 4.3) -/

/-- A master scale in FP16: nearest even, magnitude clamped to [2⁻²⁴, 65,504], sign kept. -/
def quantScale (x : Word) : Nat :=
  let c := fp16.encode true (fp32.decode (f32abs x).toNat)
  (if x.msb then 0x8000 else 0) + (if c = 0 then 1 else min c 0x7BFF)

/-- The bell code of a weight with scale σ: the nearest level; a tie takes the smaller magnitude; σ = 0 takes the
smallest magnitude, the non-negative one of two (R99). Halfway between two levels of one magnitude it takes the
non-negative one too (DESIGN CHOICE, assumption log 85). -/
def bellCode (levels : List Half) (w sg : Word) : Nat :=
  let lv := fun (c : Nat) => (levels.getD c 0).toInt
  let better := fun (d : Nat → FVal) (a b : Nat) =>
    match (d a).cmp (d b) with
    | some .lt => a
    | some .gt => b
    | _ => if (lv a).natAbs < (lv b).natAbs then a else if (lv b).natAbs < (lv a).natAbs then b
           else if 0 ≤ lv a then a else b
  if f32abs sg = 0 then (upTo 16).foldl (better (fun _ => .fin false 0 0)) 0
  else
    let t := fp32.decode (f32div w sg).toNat
    let dist := fun c => match t.add (FVal.ofInt (-(lv c))) with
      | .fin _ m e => FVal.fin false m e
      | x => x
    match t with
    | .inf neg => if neg then 0 else 15
    | _ => (upTo 16).foldl (better dist) 0

/-- A trained tensor as bell codes in row-major order and FP16 scales, those of group q and column n at q × N + n. -/
structure Quant where
  scales : List Nat
  codes : List Nat
  deriving DecidableEq, Repr

/-- Rows of one scale group, and groups along K. -/
def TensorRec.groupLen (t : TensorRec) : Nat := 32 * 2 ^ t.group
def TensorRec.groups (t : TensorRec) : Nat := cdiv t.k t.groupLen

/-- Codes and scales recomputed from the masters (R99, R111, Table 4.3). -/
def quantOf (levels : List Half) (t : TensorRec) (x : Masters) : Quant :=
  let sc := x.scales.map quantScale
  { scales := sc
    codes := (upTo (t.k * t.n)).map (fun i =>
      bellCode levels (bf32 (x.w.getD i 0)) (fp16To32 (sc.getD (i / t.n / t.groupLen * t.n + i % t.n) 0))) }

/-- Where code (k, n), and scale (q, n), stand in the tensor's weight sets (Table 3.2). -/
def TensorRec.codeAt (t : TensorRec) (k n : Nat) : Nat :=
  (n / 128 * cdiv t.k 128 + k / 128) * setBytes 1 t.group + 64 * (k % 128) + n % 128 / 2
def TensorRec.scaleAt (t : TensorRec) (q n : Nat) : Nat :=
  let k := q * t.groupLen
  (n / 128 * cdiv t.k 128 + k / 128) * setBytes 1 t.group + 8192 + 2 * (128 * (k % 128 / t.groupLen) + n % 128)

/-- The codes and scales that stored bytes hold. -/
def quantIn (t : TensorRec) (bs : List Byte) : Quant :=
  { scales := (upTo (t.groups * t.n)).map (fun i => fieldAt bs (t.scaleAt (i / t.n) (i % t.n)) 2)
    codes := (upTo (t.k * t.n)).map (fun i =>
      let b := (byteAt bs (t.codeAt (i / t.n) (i % t.n))).toNat
      if i % t.n % 2 = 0 then b % 16 else b / 16) }

/-- Bytes of a trained tensor: the base's bytes with codes and scales written in the layout of Table 3.2. -/
def putQuant (t : TensorRec) (q : Quant) (base : List Byte) : List Byte :=
  let nib := fun (bs : List Byte) (i : Nat) =>
    let at_ := t.codeAt (i / t.n) (i % t.n)
    let b := (byteAt bs at_).toNat
    let c := q.codes.getD i 0
    setAt bs at_ (BitVec.ofNat 8 (if i % t.n % 2 = 0 then b / 16 * 16 + c else b % 16 + 16 * c))
  let scale := fun (bs : List Byte) (i : Nat) =>
    let at_ := t.scaleAt (i / t.n) (i % t.n)
    let c := q.scales.getD i 0
    setAt (setAt bs at_ (BitVec.ofNat 8 c)) (at_ + 1) (BitVec.ofNat 8 (c / 256))
  (upTo (t.groups * t.n)).foldl scale ((upTo (t.k * t.n)).foldl nib base)

end Sys2Proof.Machine
end

