-- ==== Sys2Proof/Machine/OpsReserve.lean ====
section
/-! DEFINITION. The tiling firmware's reserve: where a command's code, weights, hand-overs and bitmaps stand in it, and the
data that passes through it (R170, R178, R187, R189, R193). The manual gives its banks, not its layout (assumption log 23). -/

namespace Sys2Proof.Machine
open Sys2Proof

/-- FW_BANKS of a job. -/
def jobFwBanks (s : State) (j : Nat) : Nat := ((s.job j).map (·.fwBanks)).getD 0

/-- The reserve banks of hearth `h` for job `j`: the FW_BANKS highest-numbered working banks (R170). -/
def reserveBanks (s : State) (h j : Nat) : List Nat :=
  let ws := (upTo 32).filter (fun b => decide (((s.hearth h).bank b).cls = .working))
  ws.drop (ws.length - jobFwBanks s j)

/-- A run of local addresses lies in reserve banks, clear of the control region and of the job's other blocks. -/
def reserveFits (s : State) (h j a len : Nat) : Bool :=
  let bs := reserveBanks s h j
  decide (0 < len ∧ a + len ≤ spmBytes) && decide (a + len ≤ ctlLow ∨ ctlHigh ≤ a) &&
  (upTo ((a % 0x20000 + len + 0x1FFFF) / 0x20000)).all (fun i => decide (a / 0x20000 + i ∈ bs)) &&
  (s.hearth h).reserve.all (fun r => decide (r.job ≠ j) || decide (a + len ≤ r.addr ∨ r.addr + r.len ≤ a))

/-- The lowest place in the reserve for `len` bytes, 64-byte aligned. -/
def reserveAt (s : State) (h j len : Nat) : Option Nat :=
  let starts := (reserveBanks s h j).map (· * 0x20000) ++
    ((s.hearth h).reserve.filter (fun r => decide (r.job = j))).map (fun r => cdiv (r.addr + r.len) 64 * 64)
  (sortBy id starts).find? (fun a => reserveFits s h j a len)

/-- Give a command `len` bytes of the reserve at `a`. -/
def takeReserve (h j : Nat) (seq : Word) (a len : Nat) (s : State) : State :=
  modHearth h (fun x => { x with reserve := x.reserve ++ [{ job := j, seq := seq, addr := a, len := len }] }) s

/-- A retired command's blocks are free again. -/
def freeReserve (v j : Nat) (seq : Word) (s : State) : State :=
  forEach (vatHearths s v) (fun h s => modHearth h (fun x => { x with
    reserve := x.reserve.filter (fun r => decide (r.job ≠ j ∨ r.seq ≠ seq)) }) s) s

/-- Every block of a job is free again. -/
def freeJobReserve (j : Nat) (s : State) : State :=
  forEach (upTo 32) (fun h s => modHearth h (fun x => { x with reserve := x.reserve.filter (fun r => decide (r.job ≠ j)) }) s) s

/-- Pass data through a buffer of the reserve: written by the fetch engine or a drain, read again by master `m`. Where the
reserve has no room for it all at once, it passes in parts that leave nothing behind. -/
def viaReserve (h j m : Nat) (d : Marked) (t : Touch) (s : State) : Marked × State :=
  match reserveAt s h j d.length with
  | none => (d, s)
  | some a => spmRead h m a d.length (.job (some j)) (touchAt t h) (spmWrite h a (.job (some j)) d s)

/-- Read several ranges in order; `rd` reads one. -/
def readAll (rd : Nat → Nat → State → Marked × State) (rs : List (Nat × Nat)) (s : State) : List Marked × State :=
  rs.foldl (fun p r => let (d, s) := rd r.1 r.2 p.2; (p.1 ++ [d], s)) ([], s)

end Sys2Proof.Machine
end

