-- ==== Sys2Proof/Machine/OpsSched.lean ====
section
/-! DEFINITION. The scheduler: semaphores, marks, dispatch, pre-emption, switches, ends and teardowns of jobs
(R164–R172, R332–R338). -/

namespace Sys2Proof.Machine
open Sys2Proof

/-- A status about a job, on the job's queue pair (R367 rule 2). -/
def postJobStatus (j code detail : Nat) (seq : Nat) (s : State) : State :=
  match s.job j with
  | none => s
  | some b => postStatusTo b.qp { status := code, job := j, seq := seq, detail := detail } s

/-- A malformed command: its status is posted with SEQ and reason, and the job is faulted (R168). -/
def malformed (j : Nat) (seq : Word) (reason : Nat) (s : State) : State :=
  jobFault j 0x0101 reason true (postJobStatus j 0x0101 reason seq.toNat s)

/-! ### Semaphores (R171, R172) -/

def semOwner (s : State) (i : Nat) : Option Half := Table.get none s.sems i
def setSem (i : Nat) (o : Option Half) (s : State) : State := { s with sems := Table.set none s.sems i o }
def heldSems (s : State) (j : Nat) : List Nat := (upTo 32).filter (fun i => decide (semOwner s i = some (BitVec.ofNat 16 j)))

/-- A command's whole work is done; it can retire. -/
def finishCmd (j : Nat) (seq : Word) (s : State) : State := modCmd j seq (fun c => { c with state := .finished }) s

/-- A SEM_ACQUIRE that waits in EXECUTING for semaphore `i`. -/
def waitsSem (s : State) (i : Nat) (c : Cmd) : Bool :=
  decide (c.op = opSemAcquire ∧ c.state = .executing ∧ c.field 16 1 = i) && jobRuns s c.job.toNat

/-- A free semaphore goes to the oldest waiting SEM_ACQUIRE, which can then retire. -/
def grantSem (i : Nat) (s : State) : State :=
  match semOwner s i, (sortBy (·.execOrder) (s.cmds.filter (waitsSem s i))).head? with
  | none, some c => finishCmd c.job.toNat c.seq (setSem i (some c.job) s)
  | _, _ => s

/-- Release every semaphore of a job; each is counted in the event recorder (R171, R338). -/
def releaseSems (j : Nat) (s : State) : State :=
  forEach (heldSems s j) (fun i s => grantSem i (record 0x0602 0 j (BitVec.ofNat 64 i) (setSem i none s))) s

/-! ### Pre-emption (R333, R336) -/

/-- Rank of a job: smaller is first (R332). -/
def jobRank (b : Job) : Nat := ((7 - b.prio) * 2 + (if b.state = .suspended then 0 else 1)) * 2 ^ 40 + b.order
/-- The first-ranked job of the vat among those that `p` accepts. -/
def firstRanked (s : State) (v : Nat) (p : Job → Bool) : Option (Nat × Job) :=
  (sortBy (fun x => jobRank x.2) ((liveJobs s).filter (fun x => decide (x.2.vat = v) && p x.2))).head?
def suspendedCount (s : State) (v : Nat) : Nat :=
  ((liveJobs s).filter (fun x => decide (x.2.vat = v ∧ x.2.state = .suspended))).length
def hasSaveArea (s : State) (v : Nat) : Bool := ((regionOf s.image v).map (fun r => decide (saveUnits r ≠ 0))).getD false
/-- An adaptation job in PUBLISHING. -/
def publishing (b : Job) : Bool := (b.adapt.map (fun a => decide (a.state = .publishing))).getD false

/-- A switch out begins: engines start nothing new, and the vat's flues drain (R56, R334 steps 1 and 2). -/
def beginSwitch (v j : Nat) (s : State) : State :=
  drainFlues v
    (modVat v (fun x => { x with deferral := none, switchAt := s.now }) (modJob j (fun b => { b with state := .switchingOut }) s))

/-- Weigh a pre-emption of the vat's running job: none, deferred, or begun (R333, R336). -/
def considerSwitch (v : Nat) (s : State) : State :=
  let clear := modVat v (fun x => { x with deferral := none })
  match activeJob s v with
  | none => clear s
  | some (j, b) =>
    if b.state ≠ .running then s else
    match firstRanked s v (fun x => decide (x.state = .queued ∧ b.prio < x.prio)) with
    | none => clear s
    | some (p, x) =>
      if !hasSaveArea s v || decide (2 ≤ suspendedCount s v) || publishing b || decide ((s.vat v).state ≠ .running) then clear s
      else if (heldSems s j).any (fun i => bit x.semMask i) then
        -- A deferral whose pre-emptor has ended is over; the limit of one that goes on runs from its start (R336).
        let going := ((s.vat v).deferral.bind (fun d => s.job d.preemptor.toNat)).isSome
        match (s.vat v).deferral with
        | none =>
          postJobStatus p 0x0104 0 0 (modVat v (fun k => { k with
            deferral := some { preemptor := BitVec.ofNat 16 p, since := s.now }, deferrals := satAdd k.deferrals 1 }) s)
        | some d =>
          if d.preemptor.toNat = p then s
          else postJobStatus p 0x0104 0 0 (modVat v (fun k => { k with
            deferral := some { preemptor := BitVec.ofNat 16 p, since := if going then d.since else s.now }
            deferrals := if going then k.deferrals else satAdd k.deferrals 1 }) s)
      else beginSwitch v j s

/-! ### Ends (R171, R337) -/

/-- The ladles of a job are freed. -/
def freeLadles (j : Nat) (s : State) : State :=
  forEach (upTo 32) (fun h s => modHearth h (fun x => { x with
    ladles := Table.remap Ladle.dflt (fun _ l => if l.valid && decide (l.job.toNat = j) then Ladle.dflt else l) x.ladles }) s) s

/-- The general hoops bound in a vat become UNBOUND; those saved with a suspended job stay (Table 5.8). -/
def unbindHoops (v : Nat) (s : State) : State :=
  forEach (vatHearths s v) (fun h s => modHearth h (fun x => { x with
    hoops := Table.remap Hoop.dflt (fun k q => if 16 ≤ k ∧ q.state ≠ .saved then Hoop.dflt else q) x.hoops }) s) s

/-- Counters a job uses: its own and the firmware's (R143, R170). -/
def jobCounters (b : Job) : List Nat := (upTo 64).filter (fun c => bit b.counterMask c || decide (48 ≤ c))

/-- The job's counters read zero, TAG 0xF, not BROKEN (R143). -/
def zeroCounters (b : Job) (s : State) : State :=
  forEach (vatHearths s b.vat) (fun h s => forEach (jobCounters b) (fun c s => modCtr h c (fun _ => Ctr.dflt) s) s) s

/-- BROKEN clears when the counter's job ends (R142). -/
def clearBroken (b : Job) (s : State) : State :=
  forEach (vatHearths s b.vat) (fun h s => forEach (jobCounters b) (fun c s => modCtr h c (fun k => { k with broken := false }) s) s) s

/-- A live job of the vat: one that has started (chapter 7). -/
def hasLive (s : State) (v : Nat) : Bool := (liveJobs s).any (fun p => decide (p.2.vat = v ∧ p.2.state ≠ .queued ∧ p.2.passive = false))

/-- A reload of the region holds its vat back from RUNNING (R206). -/
def reloadHolds (s : State) (v : Nat) : Bool :=
  decide (s.reload.region = v ∧ (s.reload.state = .verifying ∨ s.reload.state = .waitingIdle))

/-- Where a move into RUNNING leads (R206). -/
def intoRunning (s : State) (v : Nat) : VatState := if reloadHolds s v then .holding else .running

/-- A reload reaches QUIESCING: its vat is RELOADING and its flues drain (Tables 7.11 and 7.12); a region that holds no vat
and gets none stays UNFORMED. A vat that was stopping counts as STOPPED, or as RUNNING with an enable latched. -/
def enterQuiesce (s : State) : State :=
  let v := s.reload.region
  let s := modVat v (fun x => { x with
    state := if x.state = .unformed ∧ (regionOf s.reload.staged v).isNone then .unformed else .reloading, deferral := none, wasStopped := decide (x.state = .stopped ∨ x.state = .stopping) }) s
  drainFlues v { s with reload := { s.reload with state := .quiescing, quiesceAt := s.now } }

/-- The last live job has ended (Tables 7.11 and 7.12). -/
def settleVat (v : Nat) (s : State) : State :=
  if hasLive s v then s
  else if s.reload.state = .waitingIdle ∧ s.reload.region = v then enterQuiesce s
  else match (s.vat v).state with
  | .stopping => modVat v (fun x => { x with state := .stopped }) s
  | .stoppingPendingEnable => modVat v (fun x => { x with state := intoRunning s v }) s
  | .unformed => s
  | .running => s
  | .stopped => s
  | .reloading => s
  | .holding => s

/-- The job is GONE. -/
def jobGone (j : Nat) (s : State) : State :=
  match s.job j with
  | none => s
  | some b =>
    let s := freeJobReserve j (closeOnQp j s)
    let s := setJob j none { s with cmds := s.cmds.filter (fun c => decide (c.job.toNat ≠ j)) }
    considerSwitch b.vat (settleVat b.vat (caveRetry b.vat (settleVersions s)))

/-- What JOB_END frees (R171). -/
def endJob (j : Nat) (s : State) : State :=
  match s.job j with
  | none => s
  | some b => releaseJobCurds j (releaseSems j (clearBroken b (unbindHoops b.vat (freeLadles j s))))

/-- Hoops that the vat saved with job `j` alone become UNBOUND when it goes (Table 5.8). -/
def dropSaved (j : Nat) (b : Job) (s : State) : State :=
  let keeps := fun (h k : Nat) => (liveJobs s).any (fun p => decide (p.1 ≠ j) &&
    p.2.saved.any (fun x => decide (x.hearth = h ∧ (Table.get Hoop.dflt x.hoops k).state = .bound)))
  forEach b.saved (fun x s => modHearth x.hearth (fun y => { y with
    hoops := Table.remap Hoop.dflt (fun k q => if q.state = .saved ∧ (Table.get Hoop.dflt x.hoops k).state = .bound ∧
      keeps x.hearth k = false then Hoop.dflt else q) y.hoops }) s) s

/-- A QUEUED or SUSPENDED job goes to GONE at once with its status; nothing is scrubbed (Table 13.1). -/
def dropPassive (j status : Nat) (s : State) : State :=
  let s := closeOnQp j s
  let s := match s.job j with
    | none => s
    | some b => dropSaved j b s
  jobGone j (postJobStatus j status 0 0 (releaseJobCurds j (releaseSems j s)))

/-! ### Teardown (R338) -/

/-- Steps 3 to 5 of a teardown; the scrub of the working banks is begun. -/
def teardownClear (j : Nat) (b : Job) (s : State) : State :=
  let v := b.vat
  let s := if b.passive then dropSaved j b s else
    let s := flushFlues v (landStores v s)
    zeroCounters b (dropSaved j b (unbindHoops v (freeLadles j s)))
  let s := releaseJobCurds j (releaseSems j s)
  let s := if b.passive then s else
    closeBroken v (forEach (vatHearths s v) (fun h s => clearAcc h (scrubWorking h s)) s)
  modJob j (fun b => { b with cleared := true }) s

/-- Step 6 of a teardown: its status is posted, and the job is GONE. -/
def teardownPost (j : Nat) (b : Job) (s : State) : State :=
  let (st, d, posted) := b.cause.getD (0x0102, 0, false)
  let s := record 0x0601 0 j (st.setWidth 64) s
  let s := if posted then s else postJobStatus j st.toNat d.toNat 0 s
  jobGone j s

/-- The scrub that a teardown waits for is done (step 5 of R338); a job that held no engine scrubs nothing. -/
def teardownScrubbed (s : State) (b : Job) : Bool :=
  b.passive || (vatHearths s b.vat).all (fun h => decide ((s.hearth h).scrubLeft = []))

/-- A teardown goes as far as it can: steps 3 to 5 once, and step 6 when the scrub is done. -/
def teardownTurn (j : Nat) (b : Job) (s : State) : State :=
  let s := if b.cleared then s else teardownClear j b s
  if teardownScrubbed s b then teardownPost j b s else s

/-! ### Switches (R334) -/

/-- The bytes of a hearth's WRITTEN working banks, and their poison. -/
def writtenBytes (x : Hearth) : List (Nat × Byte) := x.mem.filter (fun p => bit x.written (bankOf p.1))
def writtenPoison (x : Hearth) : List (Nat × Bool) := x.poison.filter (fun p => bit x.written (p.1 / 8192))

/-- What step 3 and step 4 copy from a hearth. -/
def saveHearth (s : State) (h : Nat) : SavedHearth :=
  let x := s.hearth h
  { hearth := h, written := x.written, mem := writtenBytes x, poison := writtenPoison x, ctrs := x.ctrs,
    hoops := x.hoops.filter (fun p => decide (16 ≤ p.1)), ladles := x.ladles, cores := x.cores,
    arrs := x.arrs }

/-- Written banks are zeroed behind the copy, accumulators cleared, and the job's state leaves the hearth. -/
def clearSaved (h : Nat) (s : State) : State :=
  modHearth h (fun x =>
    let x := (upTo 32).foldl (fun x b => if bit x.written b then clearBank b x else x) x
    { x with
      written := 0, ladles := [], cores := [], ctrs := []
      hoops := Table.remap Hoop.dflt (fun k q => if 16 ≤ k ∧ q.state = .bound then { Hoop.dflt with state := .saved } else q) x.hoops
      arrs := Table.remap Arr.dflt (fun _ a => { a with
        acc := [], active := WSet.empty, shadow := WSet.empty, queue := [], drains := [], drain := none, half := none, lastSet := none }) x.arrs }) s

/-- Put a saved hearth back: banks, bits, counters, hoops, ladles, cores, accumulators and active sets; a shadow set
is written again from its source. -/
def restoreHearth (x : SavedHearth) (s : State) : State :=
  modHearth x.hearth (fun y =>
    { y with
      mem := x.mem.foldl (fun m p => Table.set 0 m p.1 p.2) (Table.drop (fun a => bit x.written (bankOf a)) y.mem)
      poison := x.poison.foldl (fun m p => Table.set false m p.1 p.2) (Table.drop (fun g => bit x.written (g / 8192)) y.poison)
      written := x.written, ctrs := x.ctrs, ladles := x.ladles, cores := x.cores
      hoops := x.hoops.foldl (fun t p => Table.set Hoop.dflt t p.1 p.2) (Table.remap Hoop.dflt (fun k q => if 16 ≤ k ∧ q.state ≠ .saved then Hoop.dflt else q) y.hoops)
      arrs := (upTo 2).foldl (fun t a =>
        let o := Table.get Arr.dflt x.arrs a
        Table.mod Arr.dflt t a (fun z => { z with
          acc := o.acc, active := o.active, tag := o.tag, shadow := WSet.empty, queue := o.queue, drains := o.drains, drain := o.drain
          half := o.half, lastSet := o.lastSet })) y.arrs }) s

/-- Microseconds between two model times, saturating at 16 bits. -/
def us16 (t0 t1 : Nat) : Nat := min ((t1 - t0) / 1000) 65535

/-- A save slot that no suspended job of the vat uses. -/
def freeSlot (s : State) (v : Nat) : Nat :=
  if (liveJobs s).any (fun p => decide (p.2.vat = v ∧ p.2.saveSlot = some 0)) then 1 else 0

/-- The vat can be given a QUEUED job, or a SUSPENDED one, which is live and runs to its end in every state that lets live
jobs run (R206). -/
def vatTakes (s : State) (v : Nat) (b : Job) : Bool :=
  match (s.vat v).state with
  | .running => decide (b.state = .queued ∨ b.state = .suspended)
  | .stopping | .stoppingPendingEnable | .holding => decide (b.state = .suspended)
  | .unformed | .stopped | .reloading => false

/-- The vat's engines are idle and its banks are ready for a job (R131, R332). -/
def vatFree (s : State) (v : Nat) : Bool :=
  (activeJob s v).isNone &&
  !(liveJobs s).any (fun p => decide (p.2.vat = v ∧ p.2.state = .tearingDown ∧ p.2.passive = false)) &&
  (vatHearths s v).all (fun h => decide ((s.hearth h).scrubLeft = []) && !(s.hearth h).banks.any (fun b => decide (b.2.state = .waking)))

/-- A QUEUED job starts: the CURRENT versions are bound (R118, R169), an adaptation job reads and checks its parameter
block (R115–R117), and JOB_BEGIN executes. -/
def beginJob (j : Nat) (b : Job) (s : State) : State :=
  let bound := (b.bind.filter (· ≠ 0xFFFF)).filterMap (fun m => (currentVersion s m).map (fun v => (m, v.version)))
  let s := modJob j (fun b => { b with state := .running }) s
  if bound.length ≠ (b.bind.filter (· ≠ 0xFFFF)).length then malformed j b.beginSeq 0x0F s
  else
    let s := modJob j (fun b => { b with bound := bound }) s
    let s := modCmd j b.beginSeq (fun c => { c with state := .executing }) s
    if b.kind ≠ 1 then s
    else
      let d := dramRead s (vatDramBase s b.vat + b.paramAddr.toNat % 2 ^ 40) 64
      let p := d.map (·.1)
      if d.any (·.2) then jobFault j 0x0102 4 false s
      else if adaptBad s p (vatDramBytes s b.vat) then
        jobFault j 0x0202 0 true (postJobStatus j 0x0202 0 0
          (modJob j (fun b => { b with adapt := some { state := .failed, params := p, steps := 0, tensors := [], acts := [] } }) s))
      else modJob j (fun b => { b with adapt := some { state := .preparing, params := p, steps := 0, tensors := [], acts := [] } }) s

/-- The scheduler starts the first-ranked job of an idle vat (R332). -/
def dispatchVat (v : Nat) (s : State) : State :=
  if !vatFree s v then s else
  match firstRanked s v (vatTakes s v) with
  | none => s
  | some (j, b) =>
    if b.state = .suspended then
      modVat v (fun x => { x with switchAt := s.now }) (modJob j (fun b => { b with state := .switchingIn }) s)
    else beginJob j b s

end Sys2Proof.Machine
end

