-- ==== Sys2Proof/Machine/OpsAccept.lean ====
section
/-! DEFINITION. Accepting entries from the queue pairs: the acceptance checks of Table 6.6, delivery to hearths,
the fetch buffer, CMD_HEAD (R157, R168, R361, R362, R472, R473). -/

namespace Sys2Proof.Machine
open Sys2Proof

/-- What checks find: reason codes, and the end of the model-space ranges used. -/
structure Chk where
  bad : List Nat := []
  modelEnd : Option Nat := none
  deriving DecidableEq, Repr

def Chk.both (a b : Chk) : Chk :=
  { bad := a.bad ++ b.bad
    modelEnd := match a.modelEnd, b.modelEnd with
      | some x, some y => some (max x y)
      | some x, none => some x
      | none, y => y }
def Chk.all (l : List Chk) : Chk := l.foldl Chk.both {}
def Chk.fail (r : Nat) (c : Bool) : Chk := { bad := if c then [r] else [] }

/-- What a job declares, for checks of its commands. -/
structure Ctx where
  vat : Nat
  size : Nat
  /-- Bytes of the DRAM partition. -/
  dram : Nat
  bind : List Half
  counters : DWord
  hoops : Half
  sems : Word
  deriving DecidableEq, Repr

/-- Out of the range of its table. -/
def rng (v lo hi : Nat) : Chk := Chk.fail 5 (decide (v < lo ∨ hi < v))
/-- A 64-bit address with `len` bytes, in the spaces allowed: bit 0 DRAM, 1 vat scratchpad, 2 model (Table 6.4). -/
def memRange (x : Ctx) (a len allowed : Nat) : Chk :=
  let sp := farSpace a
  let off := farOffset a
  if allowed / 2 ^ sp % 2 = 0 then Chk.fail 5 true
  else if sp = 0 then Chk.fail 6 (decide (x.dram < off + len))
  else if sp = 1 then Chk.fail 5 (decide (off < 0x10000000 ∨ 0x18000000 ≤ off))
  else { modelEnd := some (off + len) }
/-- A 32-bit scratchpad address in the ember-core form (R163). -/
def spAddr (a align : Nat) : Chk :=
  Chk.fail 5 (decide (¬ (a < 0x400000 ∨ (0x10000000 ≤ a ∧ a < 0x18000000)) ∨ a % align ≠ 0))
/-- A local address. -/
def localAddr (a align : Nat) : Chk := Chk.fail 5 (decide (0x400000 ≤ a ∨ a % align ≠ 0))
/-- A counter the job declares (R170). -/
def ctrDeclared (x : Ctx) (c : Nat) : Chk := Chk.fail 9 (decide (48 ≤ c) || !bit x.counters c)
/-- A general hoop 16–23 that the job declares. -/
def hoopDeclared (x : Ctx) (j : Nat) : Chk :=
  if j < 16 ∨ 23 < j then Chk.fail 5 true else Chk.fail 9 (!bit x.hoops (j - 16))
def hearthIn (x : Ctx) (k : Nat) : Chk := Chk.fail 5 (decide (x.size ≤ k))
/-- An enable bit [7] with a counter in [5:0]. -/
def ctrByte (x : Ctx) (b : Nat) : Chk := if 128 ≤ b then ctrDeclared x (b % 64) else {}

/-! ### Operand checks by opcode -/

def arithOk (l : Layer) : Chk := Chk.fail 5 (decide (4 < l.mode) || (intMode l.mode && decide (l.group = 3)))
def tilingOk (l : Layer) (autoOnly : Bool) : Chk :=
  (Chk.fail 5 (decide (l.tileMode = 3) || (autoOnly && decide (l.tileMode ≠ 0)))).both
    (if l.tileMode = 0 ∨ autoOnly = true then {} else spAddr l.block 16)

/-- Shape fields of a CONV, or of a POOL that is not GLOBAL (R177, R288). -/
def windowOk (l : Layer) : Chk :=
  if l.global then {} else
  Chk.all ([l.kh, l.kw, l.sh, l.sw, l.dh, l.dw].map (fun v => rng v 1 15) ++
    [Chk.fail 5 (decide (l.houtInt < 1 ∨ l.woutInt < 1))])

/-- Sizes and modes of a layer without its addresses: common to commands and FUSED stages. -/
def layerShape (l : Layer) : Chk :=
  if l.isGemm then
    Chk.all [rng l.m 1 16777216, rng l.k 1 65535, rng l.n 1 65535,
      Chk.fail 5 (decide (l.f 48 2 % 16 ≠ 0 ∨ l.f 50 2 % 16 ≠ 0)), arithOk l]
  else if l.isPool then
    Chk.all [rng l.hin 1 8192, rng l.win 1 8192, rng l.cin 1 16384, rng l.poolType 0 3, rng l.batch 1 64, windowOk l]
  else
    Chk.all [rng l.hin 1 8192, rng l.win 1 8192, rng l.cin 1 16384, rng l.n 1 16384, rng l.batch 1 64, windowOk l, arithOk l]

/-- A layer command; Y is taken with one byte per element, or a POOL's TYPE (R473). -/
def layerCheck (x : Ctx) (l : Layer) : Chk :=
  Chk.all [layerShape l, tilingOk l l.isPool, memRange x l.x (max l.xBytes 1) 7,
    (if l.isPool then {} else memRange x l.w (max l.wBytes 1) 7),
    memRange x l.y (max (l.yBytes (if l.isPool then l.xSize else 1)) 1) 3,
    (if l.isPool then {} else spAddr l.desc 1)]

/-- NEAR of a transfer: scratchpad, or for a transfer into the vat an outbound flue port of the ember-core form, through
which the fetch engine sends flits (R54). -/
def nearAddr (a op : Nat) : Chk :=
  if op ≠ opStore ∧ 0x20000000 ≤ a ∧ a < 0x20010000 then {} else spAddr a 1

/-- LOAD, STORE and FILL (Table 6.9). -/
def moveCheck (x : Ctx) (c : Entry64) (op : Nat) : Chk :=
  let f := entField c
  let rows := max (f 32 2) 1
  let rb := max (f 28 4) 1
  Chk.all [rng (f 28 4) 1 4194304, rng (f 32 2) 1 65535, nearAddr (f 24 4) op,
    (if op = opLoad then memRange x (f 16 8) ((rows - 1) * f 36 4 + rb) 7
     else if op = opStore then memRange x (f 16 8) ((rows - 1) * f 40 4 + rb) 1 else {}),
    ctrByte x (f 44 1), (if f 44 1 / 64 % 2 = 1 then hoopDeclared x (f 45 1) else {})]

/-- CURD_TAKE (Table 11.5, R307). -/
def takeCheck (s : State) (x : Ctx) (j : Half) (c : Entry64) : Chk :=
  let f := entField c
  let k := s.bkt (f 16 1)
  let cfg := cfgGet s (inpBkt (f 16 1))
  let own := (groupOf s (bits cfg 20 16)).map (·.vat)
  let taken := s.cmds.any (fun d => decide (d.job = j ∧ d.op = opCurdTake ∧ d.field 16 1 = f 16 1 ∧ d.field 17 1 % 2 = 1)) ||
    k.curds.any (fun d => decide (d.holder = some j))
  Chk.all [rng (f 16 1) 0 15, rng (f 18 1) 0 63, rng (f 19 1) 0 64, spAddr (f 20 4) 16,
    Chk.fail 5 (decide (f 24 4 % 16 ≠ 0)), (if f 17 1 / 2 % 2 = 1 then spAddr (f 28 4) 16 else {}),
    ctrByte x (f 32 1),
    Chk.fail 5 (decide (own ≠ some x.vat ∨ bits cfg 14 8 < f 18 1 + f 19 1 ∨ (cfgGet s (inpBkt (f 16 1) + 0xC)).toNat < f 40 4)),
    Chk.fail 5 (decide (f 17 1 % 2 = 0) && !taken)]

/-- The operand checks of an entry other than JOB_BEGIN. -/
def operandCheck (s : State) (x : Ctx) (e : Entry64) : Chk :=
  let f := entField e
  let op := f 0 1
  if op = opBindHoop then
    Chk.all [hearthIn x (f 16 1), hoopDeclared x (f 17 1), ctrByte x (f 18 1), ctrByte x (f 19 1), localAddr (f 20 4) 64,
      rng (f 24 4) 1 65536]
  else if op = opSetCounter then
    Chk.all [(if f 16 1 = 0xFF then {} else hearthIn x (f 16 1)), rng (f 17 1) 0 47, ctrDeclared x (f 17 1)]
  else if op = opSemAcquire ∨ op = opSemRelease then
    Chk.all [rng (f 16 1) 0 31, Chk.fail 9 (decide (f 16 1 < 32) && !bit x.sems (f 16 1))]
  else if op = opLoad ∨ op = opStore ∨ op = opFill then moveCheck x e op
  else if op = opGemm ∨ op = opConv ∨ op = opPool then layerCheck x { op := op, e := e }
  else if op = opFused then
    Chk.all [spAddr (f 16 4) 64, rng (f 20 1) 2 4, Chk.fail 5 (decide (f 21 1 / 64 ≠ 0))]
  else if op = opArrayPass then
    Chk.all [hearthIn x (f 16 1), rng (f 17 1) 0 1, Chk.fail 5 (decide (4 < f 18 1 / 32) || (intMode (f 18 1 / 32) && decide (f 18 1 / 8 % 4 = 3))),
      (if f 2 1 / 2 % 2 = 1 then {} else localAddr (f 20 4) 16), localAddr (f 24 4) 1, rng (f 30 2) 1 1024,
      rng (f 32 2) 0 1023, rng (f 34 2) 1 128, rng (f 36 2) 1 128,
      (if f 40 4 = 0xFFFFFFFF then {} else localAddr (f 40 4) 1), ctrByte x (f 44 1)]
  else if op = opDrain then
    Chk.all [hearthIn x (f 16 1), rng (f 17 1) 0 1, localAddr (f 20 4) 16, rng (f 24 2) 0 1023, rng (f 26 2) 1 1024]
  else if op = opKernel then
    Chk.all [memRange x (f 16 8) (max (f 44 4) 1) 6, spAddr (f 28 4) 1, rng (f 32 4) 0 1048576, rng (f 36 2) 0 256,
      rng (f 38 1) 0 64, rng (f 44 4) 16 262144, Chk.fail 5 (decide (f 40 4 / 2 ^ x.size ≠ 0))]
  else if op = opCurdTake then takeCheck s x (BitVec.ofNat 16 (f 4 2)) e
  else if op = opEmit then
    Chk.all [hearthIn x (f 16 1), hoopDeclared x (f 17 1), rng (f 20 4) 0 65536]
  else {}

def knownOp (op : Nat) : Bool :=
  decide (op ∈ [opNop, opJobBegin, opJobEnd, opBindHoop, opSetCounter, opSemAcquire, opSemRelease, opLoad, opStore, opFill,
    opGemm, opConv, opPool, opFused, opArrayPass, opDrain, opKernel, opCurdTake, opEmit])

/-- BIND of a JOB_BEGIN. -/
def beginBind (e : Entry64) : List Half := (upTo 8).map (fun i => BitVec.ofNat 16 (entField e (24 + 2 * i) 2))

def beginCtx (s : State) (e : Entry64) : Ctx :=
  let v := entField e 19 1
  { vat := v, size := (vatHearths s v).length, dram := vatDramBytes s v, bind := beginBind e,
    counters := BitVec.ofNat 64 (entField e 48 8), hoops := BitVec.ofNat 16 (entField e 56 2),
    sems := BitVec.ofNat 32 (entField e 20 4) }
def jobCtx (s : State) (b : Job) : Ctx :=
  { vat := b.vat, size := (vatHearths s b.vat).length, dram := vatDramBytes s b.vat, bind := b.bind,
    counters := b.counterMask, hoops := b.hoopMask, sems := b.semMask }

/-- The checks of JOB_BEGIN's operands (Table 6.7, R170, R206). -/
def beginCheck (s : State) (e : Entry64) : Chk :=
  let f := entField e
  let v := f 19 1
  let x := beginCtx s e
  Chk.all [rng (f 16 1) 0 2, rng (f 17 1) 0 7, rng (f 18 1) 4 16,
    Chk.fail 5 (decide (32 ≤ v) || (regionOf s.image v).isNone || decide ((s.vat v).state = .unformed)),
    Chk.fail 5 ((vatHearths s v).any (fun h =>
      decide (((upTo 32).filter (fun b => decide (((s.hearth h).bank b).cls = .working))).length < f 18 1))),
    Chk.fail 5 (decide (f 16 1 = 0) && (beginBind e).all (fun m => decide (m = 0xFFFF))),
    (if f 16 1 = 1 then memRange x (f 40 8) 64 1 else Chk.fail 5 (decide (f 40 8 ≠ 0))),
    Chk.fail 9 (decide (f 48 8 / 2 ^ 48 ≠ 0)), Chk.fail 9 (decide (f 56 2 / 2 ^ 8 ≠ 0))]

/-- Reasons of MODEL and of model-space ranges: 0x04, and 0x07 unless it is deferred (R472). The second part is the
end of the ranges when it is. -/
def modelCheck (s : State) (bind : List Half) (job : Option (Nat × Job)) (e : Entry64) (c : Chk) : List Nat × Option Nat :=
  let m : Half := BitVec.ofNat 16 (entField e 6 2)
  let known := decide (m ≠ 0xFFFF ∧ m ∈ bind)
  if (m ≠ 0xFFFF ∧ known = false) ∨ (c.modelEnd.isSome = true ∧ known = false) then ([4], none)
  else match c.modelEnd, job with
    | none, _ => ([], none)
    | some _, none => ([], none)
    | some n, some (j, b) =>
      if !b.begun then ([], some n)
      else if ((boundVersion s j m).map (·.len)).getD 0 < n then ([7], none) else ([], none)

/-- Acceptance checks (Table 6.6): the lowest reason that fails, 0 for none, and a deferred 0x07. -/
def acceptReason (s : State) (q : Nat) (e : Entry64) : Nat × Option Nat :=
  let op := entField e 0 1
  let id := entField e 4 2
  let opened : Option (Nat × Job) := match (s.qp q).openJob with
    | none => none
    | some j => (s.job j.toNat).map (fun b => (j.toNat, b))
  if !knownOp op ∨ entField e 1 1 ≠ 1 then (1, none)
  else if op = opJobBegin then
    if opened.isSome ∨ id = 0xFFFF ∨ (s.job id).isSome then (2, none)
    else
      let c := beginCheck s e
      let (mb, d) := modelCheck s (beginBind e) none e c
      ((c.bad ++ mb).foldl (fun a r => if a = 0 ∨ r < a then r else a) 0, d)
  else match opened with
    | none => (2, none)
    | some (j, b) =>
      if j ≠ id then (2, none)
      else if entField e 12 4 ≠ (b.lastSeq + 1).toNat then (3, none)
      else
        let c := operandCheck s (jobCtx s b) e
        let (mb, d) := modelCheck s b.bind (some (j, b)) e c
        let kind := (decide (b.kind = 1) && !decide (op = opNop ∨ op = opJobEnd)) ||
          (decide (b.kind = 2) && decide (op = opGemm ∨ op = opConv ∨ op = opPool ∨ op = opFused))
        ((c.bad ++ mb ++ (if kind then [8] else [])).foldl (fun a r => if a = 0 ∨ r < a then r else a) 0, d)

/-! ### Delivery (R157, R53) -/

/-- The hearths an accepted command is delivered to, ACTIVE or not. -/
def receivers (s : State) (v : Nat) (e : Entry64) : List Nat :=
  let op := entField e 0 1
  let hs := vatHearths s v
  let one := fun k => match hs[k]? with
    | some h => [h]
    | none => []
  if op ∈ [opNop, opJobBegin, opJobEnd, opSemAcquire, opSemRelease] then []
  else if op ∈ [opLoad, opStore, opFill] then
    match decodeAddr s (hs.headD 0) (entField e 24 4) with
    | .remote g _ => [g]
    | _ => hs.take 1
  else if op = opKernel then
    let m := entField e 40 4
    (hs.zipIdx.filter (fun p => decide (m = 0) || decide (m / 2 ^ p.2 % 2 = 1))).map (·.1)
  else if op ∈ [opBindHoop, opArrayPass, opDrain, opEmit] then one (entField e 16 1)
  else if op = opSetCounter then (if entField e 16 1 = 0xFF then hs else one (entField e 16 1))
  else hs

/-- The new command in WAITING. -/
def newCmd (s : State) (q v : Nat) (e : Entry64) (d : Option Nat) : Cmd :=
  let rs := receivers s v e
  let act := rs.filter (fun h => decide ((s.hearth h).state = .active))
  { qp := q, job := BitVec.ofNat 16 (entField e 4 2), seq := BitVec.ofNat 32 (entField e 12 4), entry := e, state := .waiting,
    hearths := act, partsLeft := act, ladle := none, plan := none, moved := 0, cores := [], deferred07 := d, queues := rs,
    execOrder := 0, prefetch := [], resident := [], served := none, landed := [], desc := [], stages := [], posted := [] }

/-- Every ACTIVE receiver has a free in-flight entry (R53). -/
def tableRoom (s : State) (c : Cmd) : Bool := c.hearths.all (fun h => decide (cmdOcc s h < 256))

def addCmd (c : Cmd) (s : State) : State :=
  forEach c.hearths raiseHwm { s with cmds := s.cmds ++ [c] }

/-- A new job, QUEUED (R169, R332). -/
def newJob (s : State) (q : Nat) (e : Entry64) : Job :=
  let f := entField e
  { qp := q, vat := f 19 1, state := .queued, kind := f 16 1, prio := f 17 1, fwBanks := f 18 1, semMask := f32Of (f 20 4),
    bind := beginBind e, bound := [], paramAddr := BitVec.ofNat 64 (f 40 8), counterMask := BitVec.ofNat 64 (f 48 8),
    hoopMask := BitVec.ofNat 16 (f 56 2), order := s.jobOrder, beginSeq := BitVec.ofNat 32 (f 12 4),
    lastSeq := BitVec.ofNat 32 (f 12 4), begun := false, ended := false, killLatched := false, cause := none,
    saveSlot := none, saved := [], passive := false, cleared := false, adapt := none }

/-- An accepted command enters WAITING (Table 6.1). -/
def acceptCmd (q : Nat) (e : Entry64) (d : Option Nat) (s : State) : State :=
  let op := entField e 0 1
  let id := entField e 4 2
  if op = opJobBegin then
    let b := newJob s q e
    let s := setJob id (some b) { s with jobOrder := s.jobOrder + 1 }
    let s := modQp q (fun x => { x with openJob := some (BitVec.ofNat 16 id), torn := x.torn.filter (· ≠ BitVec.ofNat 16 id) }) s
    considerSwitch b.vat (addCmd (newCmd s q b.vat e none) s)
  else
    let s := addCmd (newCmd s q (jobVat s id) e d) s
    let s := modJob id (fun b => { b with lastSeq := BitVec.ofNat 32 (entField e 12 4), ended := b.ended || decide (op = opJobEnd) }) s
    if op = opJobEnd then modQp q (fun x => { x with openJob := none }) s else s

/-- Dispatch one fetched entry (R361, R168): none while its acceptance waits (R28, R53, R362). -/
def takeEntry (q : Nat) (e : Entry64) (s : State) : Option State :=
  let op := entField e 0 1
  let id := entField e 4 2
  let x := s.qp q
  if 0xE0 ≤ op ∧ op ≤ 0xE2 then some (mediaEntry (BitVec.ofNat 16 q) e s)
  else if op ≠ opJobBegin ∧ BitVec.ofNat 16 id ∈ x.torn then some s
  else
    let waits := if op = opJobBegin then
        (match (s.vat (entField e 19 1)).state with
          | .running => false
          | .unformed => false
          | _ => decide (entField e 19 1 < 32))
      else match x.openJob with
        | none => false
        | some j => decide ((s.vat (jobVat s j.toNat)).state = .reloading)
    if waits then none else
    match acceptReason s q e with
    | (0, d) =>
      if op ≠ opJobBegin ∧ tableRoom s (newCmd s q (jobVat s id) e d) = false then none
      else some (acceptCmd q e d s)
    | (r, _) =>
      match x.openJob with
      | some j => some (malformed j.toNat (BitVec.ofNat 32 (entField e 12 4)) r s)
      | none =>
        let jid := if op = opJobBegin then id else 0xFFFF
        some (postStatusTo q { status := 0x0101, job := jid, seq := entField e 12 4, detail := r } s)

/-- Dispatch the entries of a queue pair's fetch buffer in order; CMD_HEAD passes each that is accepted or
discarded. `fuel` is the length of the buffer. -/
def acceptFuel : Nat → Nat → State → State
  | 0, _, s => s
  | fuel + 1, q, s =>
    match (s.qp q).fetchBuf with
    | [] => s
    | (pos, e) :: _ =>
      if pos ≠ (s.qp q).cmdHead then s else
      match takeEntry q e s with
      | none => s
      | some s => acceptFuel fuel q (modQp q (fun x => { x with cmdHead := x.cmdHead + 1, fetchBuf := x.fetchBuf.drop 1 }) s)

/-- CMD_HEAD is written back when it reaches the tail, and otherwise at most once a microsecond (R362). -/
def headWriteback (q : Nat) (old : Word) (s : State) : State :=
  let x := s.qp q
  if !bit x.cfg 18 || decide (x.cmdHead = old) then s
  else
    let due := decide (x.cmdHead = x.cmdTail) || (match x.wbAt with
      | none => true
      | some t => decide (t + 1000 ≤ s.now))
    if due then
      emit (.hostWrite x.headwbAddr.toNat (toBytes x.cmdHead 4) (bit x.cfg 17)) (modQp q (fun x => { x with wbAt := some s.now }) s)
    else s

/-- Dispatch what a queue pair has fetched; on the way into Banked and out of it nothing starts (R32, R34). -/
def acceptLoop (q : Nat) (s : State) : State :=
  let x := s.qp q
  if x.state ≠ .running ∨ s.power.state ≠ .lit then s else
  headWriteback q x.cmdHead (acceptFuel x.fetchBuf.length q s)

/-- Dispatch what every queue pair has fetched, after an event that may end a wait. -/
def acceptAll (s : State) : State := forEach (upTo 64) acceptLoop s

end Sys2Proof.Machine
end

