-- ==== Sys2Proof/Machine/OpsFlow.lean ====
section
/-! DEFINITION. Ethernet links and the reliable datagram layer: headers, credit, acknowledgement, retransmission
(R381–R384, R391–R395). -/

namespace Sys2Proof.Machine
open Sys2Proof

/-! ### Ports and links (R382–R384) -/

def State.port (s : State) (p : Nat) : EthPort := Table.get EthPort.dflt s.ether.ports p
def modPort (p : Nat) (f : EthPort → EthPort) (s : State) : State :=
  modEther (fun e => { e with ports := Table.mod EthPort.dflt e.ports p f }) s
def State.link (s : State) (l : Nat) : EthLink := Table.get EthLink.dflt s.ether.links l
def modLink (l : Nat) (f : EthLink → EthLink) (s : State) : State :=
  modEther (fun e => { e with links := Table.mod EthLink.dflt e.links l f }) s
def State.dest (s : State) (d : Nat) : Dest := Table.get Dest.dflt s.ether.dests d
def modDest (d : Nat) (f : Dest → Dest) (s : State) : State :=
  modEther (fun e => { e with dests := Table.mod Dest.dflt e.dests d f }) s
def State.member (s : State) (m : Nat) : Member := Table.get Member.dflt s.ether.members m
def modMember (m : Nat) (f : Member → Member) (s : State) : State :=
  modEther (fun e => { e with members := Table.mod Member.dflt e.members m f }) s

def linkBase (l : Nat) : Nat := ethBase + 0x200 + 0x40 * l
def linkCfg (s : State) (l : Nat) : Word := cfgGet s (linkBase l)

/-- Link `l` exists in the port's sampled MODE (R382). -/
def linkInMode (s : State) (l : Nat) : Bool :=
  match bits (s.port (l / 4)).cfg 19 18 with
  | 0 => decide (l % 4 = 0)
  | 1 => decide (l % 2 = 0)
  | 2 => true
  | _ => false

/-- The MTU in force on a link's port; values out of range act as 1,500. -/
def linkMtu (s : State) (l : Nat) : Nat :=
  let m := bits (s.port (l / 4)).cfg 13 0
  if 1500 ≤ m ∧ m ≤ 9000 then m else 1500

/-- The link's port runs and the link is UP. -/
def linkRuns (s : State) (l : Nat) : Bool := decide ((s.port (l / 4)).state = .running) && (s.link l).up

/-- Big-endian bytes of a word: network order. -/
def netBytes (x : Word) : List Byte := (toBytes x 4).reverse

/-- The address in the four words at `off`: IPv6, or IPv4 from word 0. -/
def netAddr (s : State) (off : Nat) (v6 : Bool) : List Byte :=
  if v6 then (upTo 4).flatMap (fun i => netBytes (cfgGet s (off + 4 * i))) else netBytes (cfgGet s off)

/-! ### Control destinations and members -/

def ccOff (d : Nat) : Nat := ethBase + 0x3100 + 0x20 * d
def destCfg (s : State) (d : Nat) : Word := cfgGet s (ccOff d)
def destOn (s : State) (d : Nat) : Bool := bit (destCfg s d) 31
def destQp (s : State) (d : Nat) : Nat := bits (destCfg s d) 21 16
/-- The control destination that a queue pair is bound to (R394). -/
def qpDest (s : State) (q : Nat) : Option (Fin 16) := (List.finRange 16).find? (fun (d : Fin 16) => destOn s d && decide (destQp s d = q))

def joinOff : Nat := ethBase + 0x3400
def peerOff (m : Nat) : Nat := ethBase + 0x3500 + 0x20 * m
def joinSelf (s : State) : Nat := bits s.ether.joinCfg 18 16
/-- Member `m` is enabled in the join as sampled; the entry of SELF is ignored. -/
def memberOn (s : State) (m : Nat) : Bool := bit (s.member m).cfg 31 && decide (m ≠ joinSelf s)

/-- SVC_PORT_CFG.ENABLE (R434). -/
def svcOn (s : State) : Bool := bit (cfgGet s (svcBase + 0x20)) 31

/-! ### Flows -/

def State.flow (s : State) : FlowId → Flow
  | .control d => (s.dest d).flow
  | .tensor m => (s.member m).tensor
  | .image m => (s.member m).image
  | .service => s.ether.service

def modFlow (id : FlowId) (f : Flow → Flow) (s : State) : State :=
  match id with
  | .control d => modDest d (fun x => { x with flow := f x.flow }) s
  | .tensor m => modMember m (fun x => { x with tensor := f x.tensor }) s
  | .image m => modMember m (fun x => { x with image := f x.image }) s
  | .service => modEther (fun e => { e with service := f e.service }) s

/-- Frame buffers of a receiving flow (R392, R434). -/
def flowBuffers : FlowId → Nat
  | .control _ => 4
  | .tensor _ => 64
  | .image _ => 4
  | .service => 4

/-- LIMIT that a flow starts with: a member offers what this device would; a host or the service peer has offered nothing
yet (assumption log 33). -/
def flowFirstLimit : FlowId → Word
  | .control _ => 0
  | .tensor _ => 64
  | .image _ => 4
  | .service => 0

/-- A flow at sequence 0 (R397). -/
def flowFresh (id : FlowId) : Flow := { Flow.dflt with limit := flowFirstLimit id }

/-- The link a flow leaves by; the service port is no link of Table 15.8. -/
def flowLink (s : State) : FlowId → Option Nat
  | .control d => some (bits (destCfg s d) 29 27)
  | .tensor m => some (bits (s.member m).cfg 29 27)
  | .image m => some (bits (s.member m).cfg 29 27)
  | .service => none

/-- Destination address and port of a flow. -/
def flowAddr (s : State) : FlowId → List Byte × Nat
  | .control d => (netAddr s (ccOff d + 4) (bit (destCfg s d) 30), bits (destCfg s d) 15 0)
  | .tensor m => (netAddr s (peerOff m + 4) (bit (s.member m).cfg 30), bits s.ether.joinCfg 15 0)
  | .image m => (netAddr s (peerOff m + 4) (bit (s.member m).cfg 30), bits s.ether.joinCfg 15 0)
  | .service => (netAddr s (svcBase + 0x50) (bit (cfgGet s (svcBase + 0x20)) 30), bits (cfgGet s (svcBase + 0x60)) 15 0)

/-- The priority a flow's frames carry on its link. -/
def flowPrio (s : State) (id : FlowId) : Nat :=
  match id, flowLink s id with
  | .control _, some l => bits (linkCfg s l) 27 25
  | _, some l => bits (linkCfg s l) 30 28
  | _, none => 0

/-- Frames of the flow can leave: its link runs and its priority is not paused, or the service port is enabled. -/
def flowUp (s : State) (id : FlowId) : Bool :=
  match flowLink s id with
  | none => svcOn s
  | some l => linkRuns s l && !bit (s.link l).paused (flowPrio s id)

/-- This device's epoch (R396). -/
def joinEpoch (s : State) : Word := s.recorder.powerCycles * 65536 + BitVec.ofNat 32 s.ether.joinEntries

/-- The 32-byte header (Table 15.5). -/
def dgramHeader (type join src dst chan flags : Nat) (seq ack limit : Word) (len : Nat) (epoch : Word) : List Byte :=
  [0x4A, 0x4E, 1, BitVec.ofNat 8 type] ++ toBytes (BitVec.ofNat 32 join) 4 ++
  [BitVec.ofNat 8 src, BitVec.ofNat 8 dst, BitVec.ofNat 8 chan, BitVec.ofNat 8 flags] ++
  toBytes seq 4 ++ toBytes ack 4 ++ toBytes limit 4 ++ toBytes (BitVec.ofNat 16 len) 2 ++ [0, 0] ++ toBytes epoch 4

/-- Count a frame sent on a link and send it. -/
def sendOn (link : Option Nat) (dst : List Byte × Nat) (payload : List Byte) (s : State) : State :=
  let s := match link with
    | none => s
    | some l => modLink l (fun x => { x with txFrames := satAdd x.txFrames 1 }) s
  emit (.datagram (link.getD 8) dst.1 dst.2 payload) s

/-- Free frame buffers of the flow. -/
def flowRoom (s : State) (id : FlowId) : Nat := flowBuffers id - (s.flow id).rx.length

/-- Send a datagram of a flow with the present ACK, LIMIT and ECE (R392). -/
def flowSend (id : FlowId) (type : Nat) (flags : Nat) (seq : Word) (payload : List Byte) (s : State) : State :=
  let x := s.flow id
  let limit := x.expected + BitVec.ofNat 32 (flowRoom s id)
  let flags := flags + (if x.ece then 2 else 0)
  let head := match id with
    | .control _ => dgramHeader type 0 0 0xFF 0 flags seq x.expected limit payload.length 0
    | .tensor m => dgramHeader type s.ether.joinId.toNat (joinSelf s) m 1 flags seq x.expected limit payload.length (joinEpoch s)
    | .image m => dgramHeader type s.ether.joinId.toNat (joinSelf s) m 2 flags seq x.expected limit payload.length (joinEpoch s)
    | .service => dgramHeader type 0 (joinSelf s) 0xFF 2 flags seq x.expected limit payload.length 0
  sendOn (flowLink s id) (flowAddr s id) (head ++ payload) (modFlow id (fun x => { x with accepted := 0, ece := false }) s)

/-- A bare ACK, where the flow's link lets it out. -/
def sendAck (id : FlowId) (s : State) : State := if flowUp s id then flowSend id 2 0 0 [] s else s

/-- The oldest unacknowledged SEQ. -/
def Flow.oldest (x : Flow) : Word := ((x.unacked.head?).map (·.seq)).getD x.next

/-- LIMIT − the oldest unacknowledged SEQ; 0 where LIMIT lies behind it. -/
def Flow.credit (x : Flow) : Nat := if seqDist x.limit x.oldest < 2 ^ 31 then seqDist x.limit x.oldest else 0

/-- The flow may send one more new frame (R392, R393). -/
def Flow.maySend (x : Flow) : Bool := decide (x.unacked.length < min x.w x.credit)

/-- Send queued frames as window, credit and link allow. `fuel` is the length of the queue. -/
def flowPumpFuel : Nat → FlowId → State → State
  | 0, _, s => s
  | fuel + 1, id, s =>
    let x := s.flow id
    match x.queue with
    | [] => s
    | (more, payload) :: rest =>
      if flowUp s id && x.maySend then
        let f : TxFrame := { seq := x.next, more := more, payload := payload, sentAt := s.now }
        let s := modFlow id (fun x => { x with queue := rest, next := x.next + 1, unacked := x.unacked ++ [f] }) s
        flowPumpFuel fuel id (flowSend id 1 (b2n more) f.seq payload s)
      else s
def flowPump (id : FlowId) (s : State) : State := flowPumpFuel (s.flow id).queue.length id s

/-- Every flow. -/
def allFlows : List FlowId :=
  (List.finRange 16).map .control ++ (List.finRange 8).map .tensor ++ (List.finRange 8).map .image ++ [.service]
def pumpAll (s : State) : State := forEach allFlows flowPump s

/-- Queue a frame on a flow. -/
def flowQueue (id : FlowId) (more : Bool) (payload : List Byte) (s : State) : State :=
  flowPump id (modFlow id (fun x => { x with queue := x.queue ++ [(more, payload)] }) s)

/-- Count a window cut (ETH_JOIN_ECE). -/
def countCut (id : FlowId) (s : State) : State :=
  match id with
  | .tensor m => modMember m (fun x => { x with ece := satAdd x.ece 1 }) s
  | .image m => modMember m (fun x => { x with ece := satAdd x.ece 1 }) s
  | .control _ | .service => s

/-- Count retransmitted frames. -/
def countRetx (id : FlowId) (n : Nat) (s : State) : State :=
  match id with
  | .control d => modDest d (fun x => { x with retx := satAdd x.retx n }) s
  | .tensor m => modMember m (fun x => { x with retx := satAdd x.retx n }) s
  | .image m => modMember m (fun x => { x with retx := satAdd x.retx n }) s
  | .service => s

/-- A STALLED destination whose ACK advances is ACTIVE again; both transitions are recorded (R395). -/
def destActive (id : FlowId) (s : State) : State :=
  match id with
  | .control d =>
    if (s.dest d).stalled then record 0x0B02 0 d 1 (modDest d (fun x => { x with stalled := false }) s) else s
  | .tensor _ | .image _ | .service => s

/-- ACK, LIMIT and ECE of a received datagram (R392, R393). -/
def applyAck (id : FlowId) (ack limit : Word) (ece : Bool) (s : State) : State :=
  let x := s.flow id
  let d := seqDist ack x.oldest
  let n := if d ≤ x.unacked.length then d else 0
  let cut := ece && (match x.cutAt with
    | none => true
    | some t => decide (t + 100000 ≤ s.now))
  let grown := x.grown + n
  let s := modFlow id (fun x => { x with
    unacked := x.unacked.drop n
    timeout := if n = 0 then x.timeout else 200
    limit := if seqDist limit x.limit < 2 ^ 31 then limit else x.limit
    w := if cut then max 4 (x.w / 2) else if !ece && decide (x.w ≤ grown) then min 64 (x.w + 1) else x.w
    grown := if ece || decide (x.w ≤ grown) then 0 else grown
    cutAt := if cut then some s.now else x.cutAt }) s
  let s := if cut then countCut id s else s
  flowPump id (if n = 0 then s else destActive id s)

/-- Resend every unacknowledged frame from the oldest, with RETX set. -/
def resend (id : FlowId) (s : State) : State :=
  if flowUp s id then
    let fs := (s.flow id).unacked
    countRetx id fs.length (forEach fs (fun f s => flowSend id 1 (b2n f.more + 4) f.seq f.payload s) s)
  else s

/-! ### Receiving -/

/-- Bytes that the join flows of a port's members hold in their receive buffer. -/
def joinRxBytes (s : State) (p : Nat) : Nat :=
  ((upTo 8).map (fun m =>
    let x := s.member m
    if bits x.cfg 29 27 / 4 = p then ((x.tensor.rx ++ x.image.rx).map List.length).foldl (· + ·) 0 else 0)).foldl (· + ·) 0

/-- PFC for the join priority: sent above 75 % of 1 MiB, released below 50 % (R384). -/
def pfcCheck (p : Nat) (s : State) : State :=
  let n := joinRxBytes s p
  let x := s.port p
  if !x.pfcSent && decide (786432 < n) then emit (.ethControl (4 * p) 1) (modPort p (fun x => { x with pfcSent := true }) s)
  else if x.pfcSent && decide (n < 524288) then emit (.ethControl (4 * p) 0) (modPort p (fun x => { x with pfcSent := false }) s)
  else s

/-- The whole 64-byte entries of a control frame, at most 16 (R394). -/
def frameEntries (p : List Byte) : List Entry64 := (upTo (min 16 (p.length / 64))).map (fun i => ofBytes 512 ((p.drop (64 * i)).take 64))

/-- Entries of a control destination pass to its queue pair's fetch buffer while it is ENABLED and has room. `fuel` is
the number of frames held. -/
def takeControlFuel : Nat → Fin 16 → State → State
  | 0, _, s => s
  | fuel + 1, d, s =>
    match (s.dest d).flow.rx with
    | [] => s
    | p :: rest =>
      let q := destQp s d
      let es := frameEntries p
      if destOn s d && decide ((s.qp q).state = .running ∧ (s.qp q).fetchBuf.length + es.length ≤ 64) then
        let s := modFlow (.control d) (fun x => { x with rx := rest }) s
        let s := modQp q (fun x => { x with
          fetchBuf := x.fetchBuf ++ es.zipIdx.map (fun e => (x.fetchPos + BitVec.ofNat 32 e.2, e.1))
          fetchPos := x.fetchPos + BitVec.ofNat 32 es.length
          cmdTail := x.fetchPos + BitVec.ofNat 32 es.length }) s
        takeControlFuel fuel d (acceptLoop q s)
      else s
def takeControl (d : Fin 16) (s : State) : State := takeControlFuel (s.dest d).flow.rx.length d s

/-- A channel 0x02 frame holds one of the operations of R434; the update logic drops any other at once. -/
def updateOps (rx : List (List Byte)) : List (List Byte) := rx.filter (fun p => decide (16 ≤ p.length ∧ 1 ≤ fieldAt p 0 1 ∧ fieldAt p 0 1 ≤ 6))

/-- Bytes of one unit of a tensor on the wire (Table 15.7), 0 for an encoding it does not list. -/
def wireUnitBytes (enc g : Nat) : Nat :=
  match enc with
  | 0 => 4
  | 1 => 2
  | 2 => 2
  | 3 => 66
  | 4 => 2 + g / 2
  | _ => 0

/-- The 16-byte subheader of a tensor frame (R399). -/
def tensorHeader (transfer : Word) (first count enc g : Nat) : List Byte :=
  toBytes transfer 4 ++ toBytes (BitVec.ofNat 32 first) 4 ++ toBytes (BitVec.ofNat 32 count) 4 ++
    [BitVec.ofNat 8 enc, BitVec.ofNat 8 g, 0, 0]

/-- The whole units that a tensor frame from member `m` carries; none where its subheader names more than it holds. -/
def frameUnits (m : Nat) (p : List Byte) : List TensorUnit :=
  let count := fieldAt p 8 4
  let enc := fieldAt p 12 1
  let g := fieldAt p 13 1
  let n := wireUnitBytes enc g
  if n = 0 ∨ p.length < 16 + count * n then [] else
  (upTo count).map (fun i =>
    { member := m, transfer := BitVec.ofNat 32 (fieldAt p 0 4), index := fieldAt p 4 4 + i, enc := enc, g := g, bytes := (p.drop (16 + i * n)).take n })

/-- What becomes of an accepted frame: the receiving firmware places its tensor units at once (R400); the others wait in
their flow's buffers for the queue pair or the update logic. -/
def frameTaken (id : FlowId) (s : State) : State :=
  match id with
  | .control d => takeControl d s
  | .tensor m =>
    let units := (s.member m).tensor.rx.flatMap (frameUnits m)
    modMember m (fun x => { x with tensor := { x.tensor with rx := [] } })
      (modEther (fun e => { e with tensorIn := e.tensorIn ++ units }) s)
  | .image m => pfcCheck (bits (s.member m).cfg 29 27 / 4) (modMember m (fun x => { x with image := { x.image with rx := updateOps x.image.rx } }) s)
  | .service => modEther (fun e => { e with service := { e.service with rx := updateOps e.service.rx } }) s

/-- The peer of a flow is one whose DATA and ACK count: an enabled destination, an UP member with the recorded epoch
(R397), the service peer with epoch 0. -/
def flowLive (s : State) (id : FlowId) (epoch : Word) : Bool :=
  match id with
  | .control d => destOn s d
  | .tensor m => decide ((s.member m).state = .up ∧ (s.member m).epoch = epoch)
  | .image m => decide ((s.member m).state = .up ∧ (s.member m).epoch = epoch)
  | .service => svcOn s && decide (epoch = 0)

/-- A DATA frame (R392). -/
def dataFrame (id : FlowId) (seq ack limit epoch : Word) (ece ce : Bool) (payload : List Byte) (s : State) : State :=
  if !flowLive s id epoch then s else
  let s := modFlow id (fun x => { x with ece := x.ece || ce }) s
  let s := applyAck id ack limit ece s
  let x := s.flow id
  if seq = x.expected then
    if flowRoom s id = 0 then s else
    let s := frameTaken id (modFlow id (fun x => { x with
      expected := x.expected + 1, accepted := x.accepted + 1, rx := x.rx ++ [payload] }) s)
    if 8 ≤ (s.flow id).accepted then sendAck id s else s
  else if seqDist seq x.expected < 2 ^ 31 then modFlow id (fun x => { x with early := satAdd x.early 1 }) s
  else sendAck id s

/-- A bare ACK (R392). -/
def ackFrame (id : FlowId) (ack limit epoch : Word) (ece ce : Bool) (s : State) : State :=
  if !flowLive s id epoch then s
  else applyAck id ack limit ece (modFlow id (fun x => { x with ece := x.ece || ce }) s)

/-- ACK_TIMER: a bare ACK; what waited for room in the fetch buffer is looked at again. -/
def ackTimer (id : FlowId) (s : State) : State :=
  let s := match id with
    | .control d => takeControl d s
    | .tensor _ | .image _ | .service => s
  let live : Bool := match id with
    | .control d => destOn s d
    | .tensor m => decide ((s.member m).state = .up)
    | .image m => decide ((s.member m).state = .up)
    | .service => svcOn s
  if live then sendAck id s else s

/-- RETX_TIMEOUT (R393): everything unacknowledged is sent again, and the timeout doubles up to 1,600 µs. A STALLED
destination is only probed (R395). -/
def retxTimeout (id : FlowId) (s : State) : State :=
  let stalled : Bool := match id with
    | .control d => (s.dest d).stalled
    | .tensor _ | .image _ | .service => false
  if (s.flow id).unacked = [] ∨ stalled = true then s
  else resend id (modFlow id (fun x => { x with timeout := min 1600 (2 * x.timeout) }) s)

end Sys2Proof.Machine
end

