-- ==== Sys2Proof/Machine/OpsRtp.lean ====
section
/-! DEFINITION. The RTP depacketizer and its RTSP client: order, access units, timestamps, overflow (R386–R390). -/

namespace Sys2Proof.Machine
open Sys2Proof

/-- A RUNNING session fed by the depacketizer. -/
def rtpLive (s : State) (i : Nat) : Bool :=
  decide ((s.ses i).state = .running ∧ bits (s.ses i).cfg 25 24 = 0)

def rtpLate (i : Nat) (s : State) : State := modRtp i (fun r => { r with late := satAdd r.late 1 }) s

/-- The payload type the session takes. -/
def Rtp.wantPt (r : Rtp) : Option Nat := if bit r.cfg 31 then r.pt else some (bits r.cfg 22 16)

/-- Version, payload type and SSRC match (R386). -/
def Rtp.matches (r : Rtp) (version pt : Nat) (ssrc : Word) : Bool :=
  decide (version = 2 ∧ r.wantPt = some pt) &&
    (if r.ssrcReq ≠ 0 then decide (ssrc = r.ssrcReq)
     else match r.ssrc with
      | none => true
      | some x => decide (ssrc = x))

/-! ### NAL units -/

def startCode : List Byte := [0, 0, 0, 1]

/-- The NAL units of an aggregation packet after its header; none where a length runs past its end. `fuel` bounds the
units. -/
def splitNals : Nat → List Byte → Option (List Byte)
  | 0, _ => some []
  | _, [] => some []
  | _, [_] => none
  | fuel + 1, a :: b :: rest =>
    let n := a.toNat * 256 + b.toNat
    if rest.length < n then none
    else match splitNals fuel (rest.drop n) with
      | none => none
      | some t => some (startCode ++ rest.take n ++ t)

/-- What a payload adds to an access unit. -/
inductive NalPart where
  /-- A packet type that is discarded (R386). -/
  | other
  /-- Whole NAL units, with start codes. -/
  | whole (bytes : List Byte)
  | first (bytes : List Byte) (last : Bool)
  | next (bytes : List Byte) (last : Bool)
  /-- A broken aggregation packet. -/
  | broken
  deriving DecidableEq, Repr

/-- RFC 6184: single NAL units, STAP-A, FU-A. -/
def nalH264 (p : List Byte) : NalPart :=
  let b := byteAt p 0
  let t := b.toNat % 32
  if 1 ≤ t ∧ t ≤ 23 then .whole (startCode ++ p)
  else if t = 24 then
    match splitNals p.length (p.drop 1) with
    | some x => .whole x
    | none => .broken
  else if t = 28 then
    let u := byteAt p 1
    if bit u 7 then .first (startCode ++ ((b &&& 0xE0) ||| (u &&& 0x1F)) :: p.drop 2) (bit u 6) else .next (p.drop 2) (bit u 6)
  else .other

/-- RFC 7798: single NAL units, aggregation packets, fragmentation units. -/
def nalH265 (p : List Byte) : NalPart :=
  let b := byteAt p 0
  let t := b.toNat / 2 % 64
  if t < 48 ∧ 2 ≤ p.length then .whole (startCode ++ p)
  else if t = 48 then
    match splitNals p.length (p.drop 2) with
    | some x => .whole x
    | none => .broken
  else if t = 49 then
    let u := byteAt p 2
    if bit u 7 then
      .first (startCode ++ ((b &&& 0x81) ||| (BitVec.ofNat 8 (u.toNat % 64 * 2))) :: byteAt p 1 :: p.drop 3) (bit u 6)
    else .next (p.drop 3) (bit u 6)
  else .other

/-! ### Access units (R387–R389) -/

/-- A timestamp extended by its wraps from the last one. -/
def extendTs (last : Option Nat) (ts : Word) : Nat :=
  match last with
  | none => ts.toNat
  | some l =>
    let d := seqDist ts (BitVec.ofNat 32 l)
    if d < 2 ^ 31 then l + d else l + d - 2 ^ 32

/-- TIMESTAMP of an access unit (R388); none before the first sender report in SR mode. -/
def rtpTimestamp (r : Rtp) (ext : Nat) : Option DWord :=
  if !bit r.cfg 30 then some (BitVec.ofNat 64 ext)
  else match r.sr with
    | none => none
    | some (n, e) => some (BitVec.ofNat 64 (n * 90000 / 2 ^ 32 + ext) - BitVec.ofNat 64 e)

/-- An access unit is discarded, and the next one written carries DISCONTINUITY. -/
def rtpDiscard (i : Nat) (s : State) : State := modRtp i (fun r => { r with disc := true }) s

/-- Write an access unit into the hoop and advance TAIL, or discard it where it does not fit (R387, R389). -/
def writeAu (i : Nat) (ts : DWord) (data : List Byte) (s : State) : State :=
  let x := s.ses i
  let r := s.rtp i
  let len := data.length
  let padded := cdiv (16 + len) 64 * 64
  let at_ := x.tail.toNat % max x.hoopSize 1
  let skip := if at_ + padded ≤ x.hoopSize then 0 else x.hoopSize - at_
  if x.hoopSize - 16 < len ∨ x.hoopSize < seqDist x.tail x.head + skip + padded then
    let s := modRtp i (fun r => { r with overflow := satAdd r.overflow 1, overflowing := true, disc := true }) s
    if r.overflowing then s else postStatus { status := 0x0A03, kind := 1, id := i } s
  else
    let base := groupBase s x.group + x.hoopBase.toNat % 2 ^ 40 / 4096 * 4096
    let put := fun (a : Nat) (bs : List Byte) (s : State) => dramWrite (base + a) (bs.map (fun b => (b, false))) s
    let s := if skip = 0 then s else put at_ (List.replicate 4 (0xFF : Byte) ++ List.replicate 12 (0 : Byte)) s
    let a := if skip = 0 then at_ else 0
    let head := toBytes (BitVec.ofNat 32 len) 4 ++ toBytes ts 8 ++ [BitVec.ofNat 8 (b2n r.disc)] ++ [0, 0, 0]
    let s := put a (fitBytes padded (head ++ data)) s
    let s := modRtp i (fun r => { r with overflowing := false, disc := false }) s
    advanceTail i (x.tail + BitVec.ofNat 32 (skip + padded)) s

/-- The access unit in assembly ends: it is written, or discarded where data of it was lost. -/
def endAu (i : Nat) (s : State) : State :=
  let r := s.rtp i
  match r.auTs with
  | none => s
  | some t =>
    let ext := extendTs r.lastTs t
    let s := modRtp i (fun r => { r with auTs := none, au := [], auBad := false, fuOpen := false, lastTs := some ext }) s
    if r.auBad || r.fuOpen then rtpDiscard i s
    else if r.au = [] then s
    else match rtpTimestamp r ext with
      | none => rtpLate i s
      | some ts =>
        let data := if r.spropDue then r.sprop ++ r.au else r.au
        writeAu i ts data (modRtp i (fun r => { r with spropDue := false }) s)

/-- Take the next packet in order. -/
def takePkt (i : Nat) (p : RtpPkt) (s : State) : State :=
  let s := if (s.rtp i).auTs.isSome && decide ((s.rtp i).auTs ≠ some p.ts) then endAu i s else s
  let s := modRtp i (fun r => { r with auTs := some p.ts, next := some (p.seq + 1) }) s
  let h265 := (s.ses i).h265
  let s := match (if h265 then nalH265 p.payload else nalH264 p.payload) with
    | .other => rtpLate i s
    | .whole b => modRtp i (fun r => { r with au := r.au ++ b }) s
    | .first b last => modRtp i (fun r => { r with au := r.au ++ b, fuOpen := !last }) s
    | .next b last =>
      if (s.rtp i).fuOpen then modRtp i (fun r => { r with au := r.au ++ b, fuOpen := !last }) s
      else modRtp i (fun r => { r with auBad := true }) s
    | .broken => modRtp i (fun r => { r with auBad := true }) s
  if p.marker then endAu i s else s

/-- Take held packets while the next one expected is among them. `fuel` is the number held. -/
def drainHeld : Nat → Nat → State → State
  | 0, _, s => s
  | fuel + 1, i, s =>
    match (s.rtp i).held with
    | [] => s
    | p :: ps =>
      if (s.rtp i).next = some p.seq then drainHeld fuel i (takePkt i p (modRtp i (fun r => { r with held := ps, heldAt := s.now }) s)) else s

/-- The gap before the first held packet has outlasted the hold: its packets are lost, and with them the access unit in
assembly, or the next one where none is (R387). -/
def declareLoss (i : Nat) (s : State) : State :=
  let r := s.rtp i
  match r.held, r.next with
  | p :: _, some n =>
    let s := modRtp i (fun r => { r with lost := satAdd r.lost (p.seq - n), next := some p.seq, auBad := true, disc := true }) s
    drainHeld r.held.length i s
  | _, _ => s

/-- An RTP packet (R386, R387). -/
def rtpPacket (i : Nat) (p : RtpIn) (s : State) : State :=
  if !rtpLive s i then s else
  let r := s.rtp i
  if !r.matches p.version p.pt p.ssrc then rtpLate i s
  else
    let s := modRtp i (fun r => { r with ssrc := some p.ssrc }) s
    let n := r.next.getD p.seq.toNat
    let d := (p.seq - BitVec.ofNat 16 n).toNat
    let k : RtpPkt := { seq := n + d, ts := p.ts, marker := p.marker, payload := p.payload }
    if 2 ^ 15 ≤ d then rtpLate i s
    else if d = 0 then drainHeld r.held.length i (takePkt i k s)
    else if r.held.any (fun h => decide (h.seq = k.seq)) then rtpLate i s
    else
      let s := modRtp i (fun r => { r with
        held := insertBy (·.seq) k r.held, heldAt := if r.held = [] then s.now else r.heldAt, next := some n }) s
      if 64 < (s.rtp i).held.length then declareLoss i s else s

/-- A sender report for the session's SSRC (R388). -/
def senderReport (i : Nat) (ssrc : Word) (ntp : DWord) (ts : Word) (s : State) : State :=
  let r := s.rtp i
  let mine := if r.ssrcReq ≠ 0 then some r.ssrcReq else r.ssrc
  if rtpLive s i && decide (mine = some ssrc) then
    modRtp i (fun r => { r with sr := some (ntp.toNat, extendTs r.lastTs ts) }) s
  else s

/-! ### RTSP (R390) -/

/-- A reply, or the loss of the connection. -/
def rtspReply (i : Nat) (ok : Bool) (pt : Nat) (sprop : List Byte) (s : State) : State :=
  let r := s.rtp i
  if !rtpLive s i then s
  else if r.rtsp = 0 ∨ r.rtsp = 4 then s
  else if !ok then modRtp i (fun r => { r with rtsp := 4 }) s
  else if r.rtsp = 1 then rtspSend i .setup (modRtp i (fun r => { r with rtsp := 2, pt := some pt, sprop := sprop }) s)
  else if r.rtsp = 2 then rtspSend i .play (modRtp i (fun r => { r with rtsp := 3, spropDue := decide (r.sprop ≠ []) }) s)
  else s

/-- 2 s after a failure: DESCRIBE again. -/
def rtspRetry (i : Nat) (s : State) : State :=
  if rtpLive s i && decide ((s.rtp i).rtsp = 4) then rtspSend i .describe (modRtp i (fun r => { r with rtsp := 1 }) s) else s

/-- GET_PARAMETER. -/
def rtspKeepalive (i : Nat) (s : State) : State :=
  if rtpLive s i && decide ((s.rtp i).rtsp = 3) then rtspSend i .getParameter s else s

/-- A receiver report every 5 s, while the session's link is UP (R384, R388). -/
def receiverReport (i : Nat) (s : State) : State :=
  let l := bits (s.rtp i).cfg 29 27
  if rtpLive s i && linkRuns s l then emit (.rtcp l i) (modLink l (fun x => { x with txFrames := satAdd x.txFrames 1 }) s) else s

end Sys2Proof.Machine
end

