-- ==== Sys2Proof/Machine/OpsJoin.lean ====
section
/-! DEFINITION. Join membership, and the classification of received datagrams (R381, R383, R385, R391, R396–R398). -/

namespace Sys2Proof.Machine
open Sys2Proof

/-! ### Members (R396–R398) -/

/-- Bit m set for each member UP. -/
def upMask (s : State) : Nat := ((upTo 8).map (fun m => if (s.member m).state = .up then 2 ^ m else 0)).foldl (· + ·) 0

/-- MEMBERS of a HELLO: every member enabled, this device included. -/
def membersMask (s : State) : Nat :=
  ((upTo 8).map (fun m => if memberOn s m || decide (m = joinSelf s) then 2 ^ m else 0)).foldl (· + ·) 0

/-- GLB_ID and GLB_REV. -/
def glbId : Word := 0x4F5A3216
def glbRev : Word := Config.romVer ++ (0x0010 : Half)

/-- STC_IMAGE_VERSION: the applied image's version, 0 for none. -/
def imageVersion (s : State) : Word := s.image.version

/-- A HELLO or LEAVE to a member. -/
def sendMember (m type : Nat) (payload : List Byte) (s : State) : State :=
  let l := bits (s.member m).cfg 29 27
  let head := dgramHeader type s.ether.joinId.toNat (joinSelf s) m 0 0 0 0 0 payload.length (joinEpoch s)
  if linkRuns s l then
    sendOn (some l) (netAddr s (peerOff m + 4) (bit (s.member m).cfg 30), bits s.ether.joinCfg 15 0) (head ++ payload) s
  else s

def sendHello (m : Nat) (s : State) : State :=
  sendMember m 3 (toBytes (BitVec.ofNat 32 (membersMask s)) 4 ++ toBytes glbId 4 ++ toBytes (imageVersion s) 4 ++ [0, 0, 0, 0]) s

/-- The join-change message (R398). -/
def joinChange (m : Nat) (s : State) : Entry32 :=
  let x := s.member m
  entry32 [(0, 0x0009), (4, m), (5, x.state.code), (6, x.reason.toNat), (8, upMask s), (12, x.epoch.toNat)]

/-- An adaptation job's LEAD; 0xFF for a single device. -/
def Adapt.lead (a : Adapt) : Nat := fieldAt a.params 7 1

/-- The job exchanges tensors with member `m`: the lead with every member, a member with its lead (R400). -/
def exchangesWith (s : State) (m : Nat) (b : Job) : Bool :=
  match b.adapt with
  | none => false
  | some a => decide (a.lead ≠ 0xFF) && (decide (a.lead = m) || decide (a.lead = joinSelf s))

/-- Fault every job that exchanges tensors with the member (R397). -/
def faultJoined (m : Nat) (s : State) : State :=
  forEach ((liveJobs s).filter (fun p => exchangesWith s m p.2)) (fun p s => jobFault p.1 0x0A02 0 false s) s

/-- A member changes state: the join-change message, its record, and what leaving UP discards (R397). -/
def memberTo (m : Nat) (st : MemberState) (reason : Nat) (s : State) : State :=
  let old := (s.member m).state
  let stop := fun (x : Flow) => { x with unacked := [], queue := [] }
  let s := modMember m (fun x => { x with
    state := st, reason := BitVec.ofNat 8 reason
    tensor := if old = .up then stop x.tensor else x.tensor, image := if old = .up then stop x.image else x.image }) s
  let s := if old = .up then
      faultJoined m (modEther (fun e => { e with tensorIn := e.tensorIn.filter (fun u => decide (u.member ≠ m)) }) s)
    else s
  record 0x0B03 0 m (pack 64 [(0, st.code), (8, reason)]) (postMsg (eventQp s) .droppable (joinChange m s) s)

/-- Entering UP: the HELLO's epoch, every flow at sequence 0. -/
def memberUp (m : Nat) (epoch : Word) (s : State) : State :=
  let s := modMember m (fun x => { x with epoch := epoch, tensor := { Flow.dflt with limit := 64 }, image := { Flow.dflt with limit := 4 } }) s
  memberTo m .up 0 s

/-- UP to LOST: the status is posted. -/
def memberLost (m : Nat) (s : State) : State := postStatus { status := 0x0A02 } (memberTo m .lost 0 s)

/-- What a HELLO fails, 0 for a valid one (R396). -/
def helloReason (s : State) (m : Nat) (h : HelloIn) : Nat :=
  if h.joinId ≠ s.ether.joinId then 1
  else if h.src.toNat ≠ m then 2
  else if !bit h.members (joinSelf s) then 3
  else if h.glbId ≠ glbId then 4 else 0

/-- A HELLO from the address configured for member `m` (Table 15.6). -/
def helloRecv (m : Nat) (h : HelloIn) (s : State) : State :=
  if s.ether.join ≠ .running ∨ memberOn s m = false then s else
  let r := helloReason s m h
  match (s.member m).state with
  | .down => s
  | .up => if h.epoch ≠ (s.member m).epoch then memberLost m s else s
  | .probing =>
    if r = 0 then sendHello m (memberUp m h.epoch s)
    else postStatus { status := 0x0A01, detail := r } (memberTo m .refused r s)
  | .lost => if r = 0 then sendHello m (memberUp m h.epoch s) else s
  | .refused => if r = 0 then memberUp m h.epoch s else s

/-- A LEAVE: UP to PROBING. -/
def leaveRecv (m : Nat) (s : State) : State :=
  if s.ether.join = .running ∧ (s.member m).state = .up then memberTo m .probing 0 s else s

/-- The join enters RUNNING: its registers are sampled, and its members begin PROBING. -/
def joinStart (s : State) : State :=
  let s := modEther (fun e => { e with
    join := .running, joinCfg := cfgGet s joinOff, joinId := cfgGet s (joinOff + 0xC), joinEntries := e.joinEntries + 1 }) s
  let s := forEach (upTo 8) (fun m s => modMember m (fun x => { x with cfg := cfgGet s (peerOff m), leaveSent := false }) s) s
  forEach ((upTo 8).filter (memberOn s)) (fun m s => memberTo m .probing 0 s) s

/-- The join leaves RUNNING: LEAVE to the members that are UP, and every member DOWN. -/
def joinStop (s : State) : State :=
  let s := modEther (fun e => { e with join := .stopping }) s
  forEach ((upTo 8).filter (memberOn s)) (fun m s =>
    let s := if (s.member m).state = .up then modMember m (fun x => { x with leaveSent := true }) (sendMember m 5 [] s) else s
    memberTo m .down 0 s) s

/-! ### Ports (R382, R383) -/

def portOff (p : Nat) : Nat := ethBase + 0x40 * p

/-- A port enters RUNNING with ETH_PORT_CFG sampled; its links train. -/
def portStart (p : Nat) (s : State) : State :=
  modPort p (fun x => { x with state := .running, cfg := cfgGet s (portOff p) }) s

/-- A link changes: recorded, and what waited for it is sent (R384). -/
def linkTo (l : Nat) (up : Bool) (speed : Nat) (fec : Bool) (s : State) : State :=
  let s := modLink l (fun x => { x with up := up, speed := speed, fecLock := fec, paused := 0 }) s
  let s := record 0x0B01 0 l (BitVec.ofNat 64 (b2n up)) s
  if up then pumpAll s else s

/-! ### Receive classification (R385) -/

/-- A discarded frame is counted. -/
def rxDropped (l : Nat) (s : State) : State := modLink l (fun x => { x with rxDrop := satAdd x.rxDrop 1 }) s

/-- The datagram is addressed to the link's own IPv4 or IPv6 address. -/
def ownAddr (s : State) (l : Nat) (dst : List Byte) : Bool :=
  dst.any (· ≠ 0) && (decide (dst = netAddr s (linkBase l + 0x10) false) || decide (dst = netAddr s (linkBase l + 0x14) true))

/-- The enabled control destination of a source address and port. -/
def destFrom (s : State) (l : Nat) (src : List Byte) (port : Nat) : Option (Fin 16) :=
  (List.finRange 16).find? (fun d => destOn s d && decide (bits (destCfg s d) 29 27 = l ∧ bits (destCfg s d) 15 0 = port ∧
    src = netAddr s (ccOff d + 4) (bit (destCfg s d) 30)))

/-- The enabled member of a source address. -/
def memberFrom (s : State) (l : Nat) (src : List Byte) : Option (Fin 8) :=
  (List.finRange 8).find? (fun m => memberOn s m && decide (bits (s.member m).cfg 29 27 = l ∧
    src = netAddr s (peerOff m + 4) (bit (s.member m).cfg 30)))

/-- A header that R391 accepts. -/
def headerOk (p : List Byte) : Bool :=
  decide (32 ≤ p.length ∧ byteAt p 0 = 0x4A ∧ byteAt p 1 = 0x4E ∧ byteAt p 2 = 1 ∧ fieldAt p 24 2 + 32 ≤ p.length)
def headWord (p : List Byte) (i : Nat) : Word := BitVec.ofNat 32 (fieldAt p i 4)

/-- A datagram of the layer, its flow known: DATA or ACK. -/
def layerFrame (id : FlowId) (l : Nat) (ce : Bool) (p : List Byte) (s : State) : State :=
  let ece := bit (byteAt p 11) 1
  let t := (byteAt p 3).toNat
  if t = 1 then dataFrame id (headWord p 12) (headWord p 16) (headWord p 20) (headWord p 28) ece ce ((p.drop 32).take (fieldAt p 24 2)) s
  else if t = 2 then ackFrame id (headWord p 16) (headWord p 20) (headWord p 28) ece ce s
  else rxDropped l s

/-- A datagram from a member. -/
def memberFrame (m : Fin 8) (l : Nat) (ce : Bool) (p : List Byte) (s : State) : State :=
  let t := (byteAt p 3).toNat
  if t = 3 then
    helloRecv m { joinId := headWord p 4, src := byteAt p 8, epoch := headWord p 28, members := byteAt p 32, glbId := headWord p 36, image := headWord p 40 } s
  else if t = 5 then leaveRecv m s
  else if byteAt p 10 = 1 then layerFrame (.tensor m) l ce p s
  else if byteAt p 10 = 2 then layerFrame (.image m) l ce p s
  else rxDropped l s

/-- Big-endian field of an RTP or RTCP packet. -/
def beField (p : List Byte) (i n : Nat) : Nat := leNat ((p.drop i).take n).reverse

/-- An RTP packet without its padding, CSRC list and header extension; none where it is cut short. -/
def parseRtp (p : List Byte) : Option RtpIn :=
  let b := byteAt p 0
  let csrc := 12 + 4 * (b.toNat % 16)
  let start := if bit b 4 then csrc + 4 + 4 * beField p (csrc + 2) 2 else csrc
  let pad := if bit b 5 then (p.getLastD 0).toNat else 0
  if p.length < 12 ∨ p.length < start + pad then none
  else some
    { version := ⟨b.toNat / 64 % 4, Nat.mod_lt _ (by decide)⟩, pt := ⟨(byteAt p 1).toNat % 128, Nat.mod_lt _ (by decide)⟩
      seq := BitVec.ofNat 16 (beField p 2 2), ts := BitVec.ofNat 32 (beField p 4 4), marker := bit (byteAt p 1) 7
      ssrc := BitVec.ofNat 32 (beField p 8 4), payload := (p.drop start).take (p.length - start - pad) }

/-- RUNNING sessions fed on link `l` whose RTP port is `port`. -/
def rtpSessions (s : State) (l port : Nat) : List Nat :=
  (upTo 256).filter (fun i => rtpLive s i && decide (bits (s.rtp i).cfg 29 27 = l ∧ bits (s.rtp i).cfg 15 0 = port))

/-- RTP of a port: the session whose SSRC and payload type match, else the first of the port, which counts it. -/
def rtpDeliver (l : Nat) (is : List Nat) (payload : List Byte) (s : State) : State :=
  match parseRtp payload with
  | none => rxDropped l s
  | some k => rtpPacket ((is.find? (fun i => (s.rtp i).matches k.version k.pt k.ssrc)).getD (is.headD 0)) k s

/-- RTCP of a session's port: sender reports are used. -/
def rtcpDeliver (is : List Nat) (p : List Byte) (s : State) : State :=
  if 28 ≤ p.length ∧ byteAt p 1 = 200 then
    forEach is (fun i s => senderReport i (BitVec.ofNat 32 (beField p 4 4)) (BitVec.ofNat 64 (beField p 8 8)) (BitVec.ofNat 32 (beField p 16 4)) s) s
  else s

/-- A datagram for the link's own address, by the rows of Table 15.3 in order. -/
def classify (l : Nat) (src : List Byte) (srcPort dstPort : Half) (ce : Bool) (payload : List Byte) (s : State) : State :=
  let port := dstPort.toNat
  if port = bits (cfgGet s (ethBase + 0x3000)) 15 0 then
    match destFrom s l src srcPort.toNat with
    | some d => if headerOk payload && decide (byteAt payload 10 = 0) then layerFrame (.control d) l ce payload s else rxDropped l s
    | none => rxDropped l s
  else if port = bits (cfgGet s joinOff) 15 0 then
    match memberFrom s l src with
    | some m => if s.ether.join = .running ∧ headerOk payload = true then memberFrame m l ce payload s else rxDropped l s
    | none => rxDropped l s
  else match rtpSessions s l port, rtpSessions s l (port - 1) with
    | i :: is, _ => rtpDeliver l (i :: is) payload s
    | [], i :: is => if port = 0 then rxDropped l s else rtcpDeliver (i :: is) payload s
    | [], [] => rxDropped l s

/-- A frame arrives on a link that runs: it is counted with its FEC codewords. -/
def rxCount (l : Nat) (fec : Nat × Nat) (s : State) : State :=
  modLink l (fun x => { x with
    rxFrames := satAdd x.rxFrames 1, fecCorr := satAdd x.fecCorr fec.1, fecUncorr := satAdd x.fecUncorr fec.2 }) s

/-- A datagram that arrives in a row of its own comes on its flow's, member's or session's link: while the link is down, or
its port does not run, nothing is received (R383, R384); else the frame is counted. The service port is no link of
Table 15.8. -/
def heard (l : Option Nat) (f : State → State) (s : State) : State :=
  match l with
  | none => f s
  | some l => if linkRuns s l then f (rxCount l (0, 0) s) else s

/-- The link that feeds a session, and the one that reaches a member. -/
def rtpLink (s : State) (i : Nat) : Option Nat := some (bits (s.rtp i).cfg 29 27)
def memberLink (s : State) (m : Nat) : Option Nat := some (bits (s.member m).cfg 29 27)

end Sys2Proof.Machine
end

