-- ==== Sys2Proof/Machine/OpsRecord.lean ====
section
/-! DEFINITION. The flash side of the event recorder: flushes, sector erases and soot checkpoints (R416, R420). -/

namespace Sys2Proof.Machine
open Sys2Proof

/-- The flash can start an operation. -/
def flashIdle (r : Recorder) : Bool := r.flushing.isNone && r.erasing.isNone && r.checkpoint.isNone

/-- The copy a checkpoint goes to: an invalid one, else the older (R420). -/
def ckptTarget (r : Recorder) : Nat :=
  match Table.get none r.copies 0, Table.get none r.copies 1 with
  | none, _ => 0
  | some _, none => 1
  | some a, some b => if a.soot.checkpoints.toNat ≤ b.soot.checkpoints.toNat then 0 else 1

/-- The image of the live totals. -/
def sootImage (r : Recorder) : SootCopy := { soot := r.soot, opSeconds := r.opSeconds, powerCycles := r.powerCycles }

/-- A soot checkpoint starts, or is due once the flash is free. From its start the copy written is invalid. -/
def startCheckpoint (r : Recorder) : Recorder :=
  if flashIdle r then
    let k := ckptTarget r
    { r with
      ckptDue := false
      copies := Table.set none r.copies k none
      checkpoint := some (k, { sootImage r with soot := { r.soot with checkpoints := satAdd r.soot.checkpoints 1 } }) }
  else { r with ckptDue := true }

/-- Start the erase at the head of the list, unless PFAIL_N is asserted. -/
def startErase (r : Recorder) : Recorder :=
  match r.eraseAgain with
  | [] => r
  | k :: ks => if flashIdle r && !r.pfail then { r with erasing := some k, eraseAgain := ks } else r

/-- What waits behind the flash when an operation ends: a flush, then an erase, then a checkpoint. -/
def serveFlash (now : Nat) (r : Recorder) : Recorder :=
  let r := if r.flushDue then startFlush now { r with flushDue := false } else r
  let r := startErase r
  if r.ckptDue then startCheckpoint r else r

/-- The first SEQ past what one flush programs: no further than the end of the write point's sector. -/
def flushEnd (r : Recorder) (upto : Word) : Word :=
  let room := sectorPlaces - r.seqFlushed.toNat % sectorPlaces
  if seqDist upto r.seqFlushed ≤ room then upto else r.seqFlushed + BitVec.ofNat 32 room

/-- A flush completes: records reach their places in SEQ order; entering the sector erased ahead starts the
erase of the next one (R416). -/
def flushComplete (now : Nat) (r : Recorder) : Recorder :=
  match r.flushing with
  | none => r
  | some upto =>
    let last := flushEnd r upto
    let n := seqDist last r.seqFlushed
    let flash := (upTo n).foldl (fun f i =>
      let q := (r.seqFlushed + BitVec.ofNat 32 i).toNat
      Table.set none f (q % flashPlaces) (Table.get none r.ring (q % ringSlots))) r.flash
    let sector := last.toNat % flashPlaces / sectorPlaces
    let crossed := n ≠ 0 ∧ last.toNat % sectorPlaces = 0
    serveFlash now { r with
      flash := flash, seqFlushed := last, flushing := none, oldestAt := now
      eraseAgain := if crossed then r.eraseAgain ++ [(sector + 1) % 64] else r.eraseAgain
      flushDue := r.flushDue || decide (last ≠ upto) || decide (seqDist r.seqNext last ≥ 64) }

/-- A sector erase completes: its places read all ones. -/
def eraseComplete (now : Nat) (r : Recorder) : Recorder :=
  match r.erasing with
  | none => r
  | some k => serveFlash now { r with
      erasing := none
      flash := Table.drop (fun p => decide (p / sectorPlaces = k)) r.flash }

/-- A checkpoint completes: its copy is valid and the live count rises (R420). -/
def checkpointComplete (now : Nat) (r : Recorder) : Recorder :=
  match r.checkpoint with
  | none => r
  | some (k, c) => serveFlash now { r with
      checkpoint := none, sootAge := 0
      copies := Table.set none r.copies k (some c)
      soot := { r.soot with checkpoints := c.soot.checkpoints } }

/-- PFAIL_N stops a checkpoint and an erase and flushes up to 128 records (R416). -/
def pfailFlash (now : Nat) (r : Recorder) : Recorder :=
  let r := { r with
    checkpoint := none, ckptDue := false, erasing := none, flushing := none, flushDue := false
    eraseAgain := match r.erasing with
      | none => r.eraseAgain
      | some k => k :: r.eraseAgain }
  let r := startFlush now r
  { r with flushing := r.flushing.map (fun e =>
      if seqDist e r.seqFlushed ≤ 128 then e else r.seqFlushed + 128) }

end Sys2Proof.Machine
end

