-- ==== Sys2Proof/Machine/OpsElec.lean ====
section
/-! DEFINITION. The power manager, the thermal levels and the sideband's registers (chapter 18). -/

namespace Sys2Proof.Machine
open Sys2Proof

def modElec (f : Elec → Elec) (s : State) : State := { s with elec := f s.elec }

/-- VDD_AON is in range: the device is not Cold. -/
def powered (s : State) : Bool := decide (s.power.state ≠ .cold)

/-! ### Temperatures (R458) -/

/-- A logic-die reading, and a DRAM die's, in 0.25 °C. -/
def logicTemp (s : State) (i : Nat) : Int := (Table.get 0 s.elec.sensors i).toInt
def dramTemp (s : State) (d : Nat) : Int := (Table.get 0 s.drams.temps d).toInt

/-- The hottest logic-die sensor, the lowest index among equals. -/
def hottest (s : State) : Nat := (upTo 20).foldl (fun a i => if logicTemp s a < logicTemp s i then i else a) 0
def logicMax (s : State) : Int := logicTemp s (hottest s)
def dramMax (s : State) : Int := (upTo 4).foldl (fun a d => max a (dramTemp s d)) (dramTemp s 0)

/-- Signed °C of a reading in 0.25 °C; fractions are dropped downwards (assumption log 40). -/
def degrees (t : Int) : Byte := BitVec.ofInt 8 (t / 4)

/-- CPM_THERM_CFG.ALERT in °C: values outside 60–105 act as 95. -/
def alertAt (s : State) : Int :=
  let a := bits (cfgGet s (cpmBase + 0x1C)) 7 0
  if 60 ≤ a ∧ a ≤ 105 then (a : Int) else 95

/-- A level holds at `logic` or `dram` °C; it is clear when both are 3 °C below. -/
def atLevel (s : State) (logic dram : Int) : Bool := decide (4 * logic ≤ logicMax s ∨ 4 * dram ≤ dramMax s)
def coolOf (s : State) (logic dram : Int) : Bool := decide (logicMax s ≤ 4 * (logic - 3) ∧ dramMax s ≤ 4 * (dram - 3))

/-- A level after one more reading, with the readings in a row at which it was clear: 100 ms are 1,000 readings. -/
def levelStep (hold : Bool) (cool : Nat) (atIt below : Bool) : Bool × Nat :=
  if atIt then (true, 0)
  else if !hold then (false, 0)
  else if !below then (true, 0)
  else if 1000 ≤ cool + 1 then (false, 0) else (true, cool + 1)

/-! ### Power classes and caps (R448, R455, R456) -/

/-- Class budget in 0.1 W (Table 18.5). -/
def classBudget : Nat → Nat
  | 0 => 400
  | 1 => 600
  | _ => 850
/-- Static caps in sixteenths (Table 18.5). -/
def classCaps : Nat → Caps
  | 0 => { array := 8, ember := 16, dram := 8, codec := 16 }
  | 1 => { array := 12, ember := 16, dram := 12, codec := 16 }
  | _ => { array := 16, ember := 16, dram := 16, codec := 16 }

/-- The class values in force: those of 40 W under AVS_FAIL. -/
def capsNow (s : State) : Caps := classCaps (if s.elec.avsFail then 0 else s.boot.fuses.cls)

/-- B and LIMITER (R455, Table 18.12). -/
def effectiveBudget (s : State) : Nat × Nat :=
  let c := classBudget s.boot.fuses.cls
  let host := min c (bits (cfgGet s (cpmBase + 4)) 15 0)
  let smb := if s.elec.smbBudget = 0xFFFF then c else min c s.elec.smbBudget.toNat
  let therm := min c (s.elec.thermBudget.getD c)
  let (b, l) := [(host, 1), (smb, 2), (therm, 3)].foldl (fun a t => if t.1 < a.1 then t else a) (c, 0)
  if b < 250 then (250, 4) else (b, l)

/-- Some cap is below its class value. -/
def throttled (s : State) : Bool :=
  let k := s.elec.caps
  let c := capsNow s
  decide (k.array < c.array ∨ k.ember < c.ember ∨ k.dram < c.dram ∨ k.codec < c.codec)

/-- Lower by 1/16 the first cap above its class value, in the order of R456 (R457). -/
def lowerToClass (c k : Caps) : Caps :=
  if c.array < k.array then { k with array := k.array - 1 }
  else if c.ember < k.ember then { k with ember := k.ember - 1 }
  else if c.dram < k.dram then { k with dram := k.dram - 1 }
  else if c.codec < k.codec then { k with codec := k.codec - 1 } else k

/-- Lower by 1/16 the first cap above 4/16: array, ember core, DRAM, codec and scaler (R456). -/
def lowerCap (k : Caps) : Caps :=
  if 4 < k.array then { k with array := k.array - 1 }
  else if 4 < k.ember then { k with ember := k.ember - 1 }
  else if 4 < k.dram then { k with dram := k.dram - 1 }
  else if 4 < k.codec then { k with codec := k.codec - 1 } else k

/-- Raise by 1/16 the first cap below its class value, in the reverse order (R456). -/
def raiseCap (c k : Caps) : Caps :=
  if k.codec < c.codec then { k with codec := k.codec + 1 }
  else if k.dram < c.dram then { k with dram := k.dram + 1 }
  else if k.ember < c.ember then { k with ember := k.ember + 1 }
  else if k.array < c.array then { k with array := k.array + 1 } else k

def Caps.above (k c : Caps) : Bool := decide (c.array < k.array ∨ c.ember < k.ember ∨ c.dram < k.dram ∨ c.codec < k.codec)
def Caps.floor (k : Caps) : Bool := decide (k.array ≤ 4 ∧ k.ember ≤ 4 ∧ k.dram ≤ 4 ∧ k.codec ≤ 4)

/-- The 1 ms average of the estimates. -/
def powerAverage (e : Elec) : Nat := e.samples.foldl (· + ·) 0 / max e.samples.length 1

/-- A higher class raises its caps at once (R457). -/
def raiseToClass (c k : Caps) : Caps :=
  { array := max k.array c.array, ember := max k.ember c.ember, dram := max k.dram c.dram, codec := max k.codec c.codec }

/-- One step of the power manager on a draw of `p` × 0.1 W (R455, R456). -/
def powerStep (p : Nat) (s : State) : State :=
  let (b, l) := effectiveBudget s
  let c := capsNow s
  let k := s.elec.caps
  let below := if p + 20 < b then s.elec.belowSteps + 1 else 0
  let exceeds := k.above c
  let raise := !exceeds && decide (p ≤ b ∧ 50 ≤ below ∧ 50 ≤ s.elec.sinceRaise + 1)
  let k' := if exceeds then lowerToClass c k else if b < p then lowerCap k else if raise then raiseCap c k else k
  let samples := (p :: s.elec.samples).take 50
  let e := { s.elec with samples := samples }
  modElec (fun x => { x with
    power := p, samples := samples, peak := max x.peak (powerAverage e), budget := b, limiter := l
    throttleUs := if throttled s then satAdd x.throttleUs 20 else x.throttleUs
    caps := k', floor := k'.floor && decide (b < p), belowSteps := below
    sinceRaise := if raise then 0 else x.sinceRaise + 1 }) s

/-! ### Registers (Tables 18.11, 18.12) -/

def throttling (s : State) : Bool := s.elec.throttleLevel || s.elec.thermBudget.isSome
/-- THERM_N is asserted (R458). -/
def thermAsserted (s : State) : Bool := s.elec.alertLevel || throttling s || s.elec.tripped

def thermStatus (s : State) : Word :=
  pack 32 [(31, b2n s.elec.tripped), (30, b2n (throttling s)), (29, b2n s.elec.alertLevel), (16, (degrees (dramMax s)).toNat),
    (8, (degrees (logicMax s)).toNat), (0, hottest s)]
def railStatus (s : State) : Word :=
  pack 32 [(31, b2n s.elec.avsFail), (30, b2n s.recorder.pfail), (29, b2n s.elec.inhibit), (0, s.elec.low.toNat)]
def classStatus (s : State) : Word :=
  pack 32 [(30, s.boot.fuses.cls), (29, b2n s.elec.floor), (26, s.elec.limiter), (0, s.elec.budget)]
def cpmPower (s : State) : Word := pack 32 [(16, min s.elec.peak 65535), (0, min (powerAverage s.elec) 65535)]
def cpmThrottle (s : State) : Word :=
  let k := s.elec.caps
  pack 32 [(12, k.codec - 1), (8, k.dram - 1), (4, k.ember - 1), (0, k.array - 1)]

/-- CPM_PSTATE_STATUS (Table 1.8) -/
def pstateStatus (s : State) : Word :=
  pack 32 [(16, s.power.wakeCause), (8, s.power.lastResult), (4, s.power.pending), (0, s.power.state.code)]

/-- CPM_GPIO_IN: the pins, outputs at their driven levels (R469). -/
def gpioIn (s : State) : Byte :=
  let d := (cfgGet s (cpmBase + 0x200)).setWidth 8
  (s.elec.gpioPins &&& ~~~d) ||| ((cfgGet s (cpmBase + 0x204)).setWidth 8 &&& d)

/-! ### SMB_ALERT_N (R461) -/

/-- The conditions that assert SMB_ALERT_N: THERM_N, AVS_FAIL, each LOW bit. -/
def alertConds (s : State) : BitVec 9 :=
  BitVec.ofNat 9 (s.elec.low.toNat + 128 * b2n s.elec.avsFail + 256 * b2n (thermAsserted s))

/-- Do `f`: a condition that arises asserts the line, and none left releases it. -/
def withAlert (f : State → State) (s : State) : State :=
  let t := f s
  let was := alertConds s
  let is := alertConds t
  if is = 0 then modElec (fun e => { e with smbAlert := false }) t
  else if is &&& ~~~was ≠ 0 then modElec (fun e => { e with smbAlert := true }) t
  else t

/-- The JTAG instruction in force: five act only while PERST_N is asserted, and as BYPASS at any other time (R463). -/
def jtagInForce (s : State) : JtagIr := match s.elec.jtag with
  | .bypass => .bypass
  | .idcode => .idcode
  | .sample => .sample
  | .extest => if s.elec.perst then .extest else .bypass
  | .extestPulse => if s.elec.perst then .extestPulse else .bypass
  | .extestTrain => if s.elec.perst then .extestTrain else .bypass
  | .clamp => if s.elec.perst then .clamp else .bypass
  | .highz => if s.elec.perst then .highz else .bypass

end Sys2Proof.Machine
end

