-- ==== Sys2Proof/Machine/OpsPower.lean ====
section
/-! DEFINITION. Power-state requests (R33–R36, Tables 1.5–1.8). -/

namespace Sys2Proof.Machine
open Sys2Proof

def modPower (f : Power → Power) (s : State) : State := { s with power := f s.power }

/-- The power-state message (Table 14.6). -/
def postPower (s : State) : State :=
  let p := s.power
  postMsg (eventQp s) .droppable (entry32 [(0, 0x0003), (4, p.state.code), (5, p.pending), (6, p.lastResult), (7, p.wakeCause)]) s

/-- A change of power state: recorded, and the message posted (R38, Table 16.5). -/
def changePower (st : PState) (s : State) : State :=
  let s := modPower (fun p => { p with state := st }) s
  postPower (record 0x0204 0 0 ((pstateStatus s).setWidth 64) s)

/-- Slot 0 is A, slot 1 B. -/
def Boot.slot (b : Boot) (k : Nat) : Slot := if k = 0 then b.slotA else b.slotB
/-- The running slot is on trial. -/
def onTrial (s : State) : Bool := decide ((s.boot.slot s.boot.active).state = .trial)
/-- A firmware update is in progress, for R34 (R435). -/
def updateBusy (s : State) : Bool := decide (s.boot.update.state ≠ .idle) || onTrial s

/-- LAST_RESULT of a Banked request: 0 accepted; 1 a job exists or is open; 2 a session is open; 3 an update is in
progress (R34, Table 1.8). -/
def bankedResult (s : State) : Nat :=
  if liveJobs s ≠ [] ∨ (s.qps.any (fun q => q.2.openJob.isSome)) = true then 1
  else if (s.media.sessions.any (fun x => decide (x.2.state ≠ .closed))) = true then 2
  else if updateBusy s then 3 else 0

/-- A march test runs in some hearth (R150). -/
def marching (s : State) : Bool := s.hearths.any (fun h => h.2.march.running)

/-- The device enters ENTERING_BANKED; soot is checkpointed (R420). -/
def enterBanked (s : State) : State := changePower .enteringBanked (modRec startCheckpoint (modPower (fun p => { p with bankedWaits := false }) s))

/-- A Banked request in Lit is accepted or refused (R34); it waits for a running march (R150). -/
def askBanked (s : State) : State :=
  let r := bankedResult s
  let s := modPower (fun p => { p with lastResult := r }) s
  if r ≠ 0 then s
  else if marching s then modPower (fun p => { p with bankedWaits := true }) s
  else enterBanked s

/-- A channel in self-refresh retrains in full on wake (Table 8.5). -/
def wakeChannel (now : Nat) (k : Channel) : Channel :=
  if k.state = .selfRefresh then { k with state := .fullRetrain, attempt := 1, since := now, winCorr := 0, due := false, armed := false, reads := k.reads.map (fun r => { r with sawRetrain := true }), writes := k.writes.map (fun r => { r with sawRetrain := true }) } else k

/-- Retained banks are READY with contents and tags, and working banks wake (Table 5.3). -/
def wakeBank (b : Bank) : Bank :=
  if b.state = .retained then { b with state := .ready }
  else if b.state = .off ∧ b.cls = .working then { b with state := .waking } else b

/-- The device leaves Banked for a wake cause: 1 host, 2 GPIO, 3 SMBus, 4 FLR (Table 1.5). -/
def wake (cause : Nat) (s : State) : State :=
  let s := modPower (fun p => { p with wakeCause := cause }) s
  changePower .exitingBanked { s with
    channels := Table.modAll Channel.dflt s.channels (upTo 32) (fun _ => wakeChannel s.now)
    hearths := Table.remap Hearth.dflt (fun _ x => { x with banks := Table.remap Bank.dflt (fun _ => wakeBank) x.banks }) s.hearths }

/-- A power-state request: 1 Banked, 2 Lit. In a transition it is latched, the last write winning (R35). -/
def powerRequest (req : Nat) (s : State) : State :=
  match s.power.state with
  | .enteringBanked => modPower (fun p => { p with pending := req }) s
  | .exitingBanked => modPower (fun p => { p with pending := req }) s
  | .lit =>
    if s.power.bankedWaits then modPower (fun p => { p with pending := req }) s
    else if req = 1 then askBanked s else s
  | .banked => if req = 2 then wake 1 s else s
  | .cold => s
  | .booting => s
  | .recovery => s

/-- A transition to `target` (1 Banked, 2 Lit) is complete: the latched request is acted on, or discarded where it asks
for the state reached (R35). -/
def actOnPending (target : Nat) (s : State) : State :=
  let req := s.power.pending
  let s := modPower (fun p => { p with pending := 0 }) s
  if req = 0 ∨ req = target then s else powerRequest req s

/-- A march has ended: a Banked request that waited is judged again, so that no job is lost to it (R34, R150), and a
request latched meanwhile is acted on where it was refused (R35). -/
def marchEnded (s : State) : State :=
  if s.power.bankedWaits = true ∧ marching s = false then
    let s := askBanked (modPower (fun p => { p with bankedWaits := false }) s)
    if s.power.state = .lit then actOnPending 2 s else s
  else s

def pstateCtrlOff : Nat := cpmBase + 0x100

/-- A write of CPM_PSTATE_CTRL; REQ = 0b00 and 0b11 are discarded and recorded (Table 1.7). -/
def writePstate (v : Word) (s : State) : State :=
  let req := bits v 1 0
  if req = 1 ∨ req = 2 then powerRequest req (cfgSet pstateCtrlOff (BitVec.ofNat 32 req) s)
  else recordWrite pstateCtrlOff v s

end Sys2Proof.Machine
end

