-- ==== Sys2Proof/Machine/Sched.lean ====
section
/-! DEFINITION. The scheduler's rows: dispatch, switches, kills, teardowns, the cave loader, clears (R332–R343,
R350–R352). -/

namespace Sys2Proof.Machine
open Sys2Proof

/-- JOB_DISPATCH (R332) -/
def execJobDispatch (vat : Fin 32) (s : State) : Res := rooted s (dispatchVat vat s)

/-- SEM_HOLD_LIMIT_EXPIRE: 2 ms after the deferral the job still holds a semaphore the pre-emptor declares (R336). -/
def execSemHoldLimitExpire (vat : Fin 32) (s : State) : Res :=
  rooted s (match activeJob s vat, (s.vat vat).deferral with
    | some (j, b), some d =>
      let mask := ((s.job d.preemptor.toNat).map (·.semMask)).getD 0
      if b.state = .running ∧ (heldSems s j).any (fun i => bit mask i) = true then
        jobFault j 0x0105 0 true (postJobStatus j 0x0105 0 0 (modVat vat (fun x => { x with deferral := none }) s))
      else s
    | _, _ => s)

/-- No pass of the vat is in flight and no drain row is open (R334 step 1). -/
def arraysStopped (s : State) (v : Nat) : Bool :=
  (vatHearths s v).all (fun h => (s.hearth h).arrs.all (fun a => decide (a.2.flight = [])))

/-- The waits of a switch, each engine's under preempt (R89, R334 step 1). -/
def switchWaits (v : Nat) (ws : List PreemptWait) (s : State) : State :=
  forEach (ws.filter (fun w => decide (w.hearth.val ∈ vatHearths s v))) (fun w s =>
    let s := if w.arrays = 0 then s else stallArr w.hearth 10 w.arrays s
    if w.cores = 0 then s else stallEmb w.hearth 10 w.cores s) s

/-- SWITCH_OUT_COMPLETE: stores land, flues drain, the job's state is saved and cleared, and the pre-emptor starts
(R334). -/
def execSwitchOutComplete (vat : SwitchTurn) (s : State) : Res :=
  rooted s (let v := vat.vat.val
    match activeJob s v with
    | none => s
    | some (j, b) =>
      if b.state ≠ .switchingOut ∨ arraysStopped s v = false then s else
      let s := switchWaits v vat.waits (flushFlues v (landStores v s))
      let saved := (vatHearths s v).map (saveHearth s)
      let slot := freeSlot s v
      let s := modJob j (fun b => { b with state := .suspended, saved := saved, saveSlot := some slot }) s
      let s := forEach (vatHearths s v) clearSaved s
      let us := us16 (s.vat v).switchAt s.now
      acceptAll (dispatchVat v (modVat v (fun x => { x with
        switches := satAdd x.switches 1, switchLast := pack 32 [(16, us)] }) s)))

/-- SWITCH_IN_COMPLETE: the job is restored and runs again (R334). -/
def execSwitchInComplete (vat : SwitchTurn) (s : State) : Res :=
  rooted s (let v := vat.vat.val
    match activeJob s v with
    | none => s
    | some (j, b) =>
      if b.state ≠ .switchingIn then s else
      let s := switchWaits v vat.waits (forEach b.saved restoreHearth s)
      let s := modJob j (fun b => { b with state := .running, saved := [], saveSlot := none }) s
      let us := us16 (s.vat v).switchAt s.now
      let s := modVat v (fun x => { x with switchLast := setBits x.switchLast 15 0 us }) s
      considerSwitch v (forEach (upTo 32) grantSem s))

def killResult (job : Half) (r : Nat) (s : State) : State := { s with killStatus := pack 32 [(16, job.toNat), (0, r)] }

/-- A write of SCH_KILL (R338, Tables 13.1 and 13.8). -/
def killJob (job : Half) (s : State) : State :=
  match s.job job.toNat with
  | none => recordWrite (schBase + 0x400) (job.setWidth 32) (killResult job 2 s)
  | some b =>
    if publishing b then killResult job 3 (modJob job.toNat (fun b => { b with killLatched := true }) s)
    else match b.state with
      | .queued => dropPassive job.toNat 0x0103 (killResult job 1 s)
      | .suspended => dropPassive job.toNat 0x0103 (killResult job 1 s)
      | .tearingDown => killResult job 1 s
      | .running => jobFault job.toNat 0x0103 0 false (killResult job 1 s)
      | .switchingOut => jobFault job.toNat 0x0103 0 false (killResult job 1 s)
      | .switchingIn => jobFault job.toNat 0x0103 0 false (killResult job 1 s)

/-- JOB_KILL -/
def execJobKill (job : Half) (s : State) : Res := .next (guard (schBase + 0x400) (killJob job) s)

/-- TEARDOWN_COMPLETE (R338): engines have stopped and the job's state is freed, and the row comes again once the banks
are scrubbed; then the status is posted and the job is GONE. -/
def execTeardownComplete (job : Half) (s : State) : Res :=
  rooted s (match s.job job.toNat with
    | none => s
    | some b => if b.state = .tearingDown then acceptAll (teardownTurn job.toNat b s) else s)

/-- The bytes of a placed piece are copied into its banks, outside the checks of a job's stores (R129, R339). -/
def landPiece (w : Version) (p : CavePiece) (s : State) : State :=
  spmWrite p.hearth p.addr .unchecked (dramRead s (w.addr p.offset) p.len) s

/-- CAVE_TENSOR_LANDED: the last bank of a tensor lands (R341, Table 13.2). -/
def execCaveTensorLanded (vat : Fin 32) (model : Half) (version : Word) (tensor : Nat) (s : State) : Res :=
  rooted s (match (s.vat vat).cave.find? (fun e => decide (e.model = model ∧ e.version = version)), findVersion s model version with
    | some e, some w =>
      if e.state ≠ .loading then s else
      let ps := e.pieces.filter (fun p => decide (p.tensor = tensor) && !p.landed)
      let s := forEach ps (landPiece w) s
      settleEntry vat model version (modVat vat (fun x => { x with
        cave := x.cave.map (fun y => if y.model = model ∧ y.version = version then
          { y with pieces := y.pieces.map (fun p => if p.tensor = tensor then { p with landed := true } else p) } else y) }) s)
    | _, _ => s)

/-- SCH_CLEAR_CAVE (R352) -/
def clearSchCave (s : State) : State :=
  { s with vats := Table.remap Vat.dflt (fun _ x => { x with evictions := 0, spilledCount := 0 }) s.vats }
def execSchClearCave (s : State) : Res := .next (guard (schBase + 0x600) clearSchCave s)
/-- SCH_CLEAR_VAT (R352) -/
def clearSchVat (s : State) : State :=
  { s with vats := Table.remap Vat.dflt (fun _ x => { x with switches := 0, deferrals := 0 }) s.vats }
def execSchClearVat (s : State) : Res := .next (guard (schBase + 0x600) clearSchVat s)

end Sys2Proof.Machine
end

