-- ==== Sys2Proof/Machine/OpsHostQ.lean ====
section
/-! DEFINITION. Queue pairs: opening and stopping, posting to response rings and control destinations, MSI-X, command
reads (R359–R372). -/

namespace Sys2Proof.Machine
open Sys2Proof

def qpOff (q : Nat) : Nat := hqBase + 0x40 * q

/-! ### MSI-X (R364; the table's layout is the PCIe specification's) -/

def msixOff (v : Nat) : Nat := pepBase + 0x8000 + 16 * v
def msixMasked (s : State) (v : Nat) : Bool := s.pcie.msixMask || bit (cfgGet s (msixOff v + 12)) 0

/-- Send the message of a vector, or set its pending bit while it is masked. -/
def msixFire (v : Nat) (s : State) : State :=
  if !s.pcie.msixOn then s
  else if msixMasked s v then modPcie (fun p => { p with pba := p.pba ||| BitVec.ofNat 64 (2 ^ v) }) s
  else emit (.msix v (cfgGet64 s (msixOff v)) (cfgGet s (msixOff v + 8))) s

/-- Pending vectors that are no longer masked are sent. -/
def msixUnmasked (s : State) : State :=
  forEach (upTo 64) (fun v s =>
    if s.pcie.msixOn && bit s.pcie.pba v && !msixMasked s v then
      msixFire v (modPcie (fun p => { p with pba := p.pba &&& ~~~(BitVec.ofNat 64 (2 ^ v)) }) s)
    else s) s

/-- The vector fires for a queue pair, and P returns to 0. -/
def qpFire (q : Nat) (s : State) : State :=
  msixFire (bits (s.qp q).cfg 13 8) (modQp q (fun x => { x with posted := 0 }) s)

/-- After a message of `n` entries: COUNT or TIME_US fires the vector (R364). -/
def qpPosted (q n : Nat) (s : State) : State :=
  let mod := cfgGet s (qpOff q + 0x2C)
  let count := max 1 (bits mod 31 16)
  let us := bits mod 15 0
  let s := modQp q (fun x => { x with posted := x.posted + n, postedAt := if x.posted = 0 then s.now else x.postedAt }) s
  let x := s.qp q
  if count ≤ x.posted ∨ us = 0 ∨ x.postedAt + 1000 * us ≤ s.now then qpFire q s else s

/-! ### Posting (R363, R395) -/

/-- PHASE of sequence number `i` in a ring of `n` entries. -/
def phaseOf (n : Nat) (i : Word) : Nat := (i.toNat / n + 1) % 2

/-- An entry with PHASE and the queue pair put in. -/
def stamp (e : Entry32) (phase q : Nat) : Entry32 := setBits e 31 16 (phase * 32768 + q)

/-- Put entries in response-ring slots, with PHASE. -/
def ringPut (q : Nat) (first : Word) (es : List Entry32) (relaxed : Bool) (s : State) : State :=
  let x := s.qp q
  forEach es.zipIdx (fun e s =>
    let i := first + BitVec.ofNat 32 e.2
    emit (.hostWrite (x.rspBase.toNat + i.toNat % x.rspEntries * 32) (toBytes (stamp e.1 (phaseOf x.rspEntries i) q) 32) relaxed) s) s

/-- The ring has `n` free slots, and its queue pair may write (R359, Table 14.4). -/
def ringRoom (s : State) (q n : Nat) : Bool :=
  let x := s.qp q
  decide (x.state ≠ .disabled ∧ seqDist x.rspTail x.rspHead + n ≤ x.rspEntries)

/-- Entries per frame to a control destination (R395). -/
def ccPerFrame (s : State) (d : Nat) : Nat :=
  let h := if bit (destCfg s d) 30 then 40 else 20
  (linkMtu s (bits (destCfg s d) 29 27) - h - 40) / 32

/-- A run of entries as frames of at most `k` entries, MORE on all but the last. `fuel` bounds the frames. -/
def ccFrames : Nat → Nat → List Entry32 → List (Bool × List Byte)
  | 0, _, _ => []
  | _ + 1, _, [] => []
  | fuel + 1, k, es =>
    let rest := es.drop k
    (decide (rest ≠ []), (es.take k).flatMap (fun e => toBytes e 32)) :: ccFrames fuel k rest

/-- The destination can take a message now. -/
def ccRoom (s : State) (d : Fin 16) : Bool :=
  let x := s.dest d
  !x.stalled && decide (x.flow.queue = []) && x.flow.maySend

/-- Post one message or record whole: in the control destination's frames, or in the response ring in the order of R363;
none where its route cannot take it. -/
def postRun (q : Nat) (es : List Entry32) (s : State) : Option State :=
  match qpDest s q with
  | some d =>
    if ccRoom s d then
      some (forEach (ccFrames es.length (max 1 (ccPerFrame s d)) (es.map (fun e => stamp e 0 q))) (fun f s => flowQueue (.control d) f.1 f.2 s) s)
    else none
  | none =>
    if ringRoom s q es.length then
      let t := (s.qp q).rspTail
      let s := ringPut q (t + 1) (es.drop 1) (bit (s.qp q).cfg 17) s
      let s := ringPut q t (es.take 1) false s
      some (qpPosted q es.length (modQp q (fun x => { x with rspTail := t + BitVec.ofNat 32 es.length }) s))
    else none

/-- The store takes kept messages that waited for room (R368). -/
def refillStore (s : State) : State :=
  match s.raised with
  | m :: ms => if s.store.length < 4096 then { s with store := s.store ++ [m], raised := ms } else s
  | [] => s

/-- The list without its first element that `p` accepts. -/
def dropFirst {α : Type} (p : α → Bool) : List α → List α
  | [] => []
  | a :: as => if p a then as else a :: dropFirst p as

/-- Post the oldest stored message of a queue pair. -/
def messagePost (q : Nat) (s : State) : State :=
  match s.store.find? (fun m => m.qp = q) with
  | none => s
  | some m =>
    match postRun q [m.entry] s with
    | none => s
    | some s => refillStore { s with store := dropFirst (fun m => decide (m.qp = q)) s.store }

/-! ### Records (R322–R326) -/

/-- The route of a source's records: queue pair, or control destination's queue pair. -/
def routeTarget (s : State) (route : Half) : Nat := routeQp s route

/-- Reorder depth D of a source (R325). -/
def reorderDepth (s : State) (src : Nat) : Nat :=
  if src < 256 then
    match (s.ses src).sps with
    | none => 0
    | some p =>
      if !p.h265 && decide (p.profile = .constrainedBaseline ∨ p.profile = .baseline) then 0
      else p.reorder.getD (((classOf s (s.ses src).cls).map (·.maxRefs)).getD 0)
  else 0

/-- The source takes no more claims. -/
def sourceEnds (s : State) (src : Nat) : Bool := decide (src < 256 ∧ (s.ses src).state ≠ .running)

/-- The waiting record to post: one whose timestamp breaks the reorder depth as soon as it is filled, or the lowest
once it is filled and D later claims have come (R325). The flag says which. -/
def nextRecord (s : State) (src : Nat) : Option (WaitRec × List Entry32 × Bool) :=
  let a := s.asm src
  let broke := fun (w : WaitRec) => match a.lastTs with
    | none => false
    | some t => decide (w.ts.toNat < t.toNat)
  match a.waiting.find? (fun w => w.filled.isSome && broke w) with
  | some w => w.filled.map (fun run => (w, run, true))
  | none =>
    match (sortBy (fun w => w.ts.toNat) (a.waiting.filter (fun w => !broke w))).head? with
    | none => none
    | some w =>
      if w.claim + reorderDepth s src ≤ a.claims ∨ sourceEnds s src = true then w.filled.map (fun run => (w, run, false)) else none

/-- What the assembler keeps of a picture as it posts its frame record. -/
def postedOf (frame : Half) (w : WaitRec) : PostedRec :=
  { ts := w.ts, frame := frame, concealed := w.concealed, poisoned := w.poisoned, estimated := w.estimated }

/-- A side record's head: FRAME and the picture's own flags of its frame record (R322). A record of a picture that the
assembler no longer knows goes out as written. -/
def finishSide (known : List PostedRec) (run : List Entry32) : List Entry32 :=
  match run with
  | [] => []
  | h :: t =>
    match known.find? (fun p => decide (p.ts = BitVec.ofNat 64 (bits h 127 64))) with
    | none => run
    | some p =>
      setBits (setBits h 63 56 (bits h 63 56 / 8 * 8 + b2n p.concealed + 2 * b2n p.poisoned + 4 * b2n p.estimated)) 191 176 p.frame.toNat :: t

/-- FRAME, LATENCY and the picture's own flags written into the head (R322, Table 12.3). -/
def finishHead (frame : Half) (now : Nat) (w : WaitRec) (late : Bool) (h : Entry32) : Entry32 :=
  let f := bits h 63 56 / 8 * 8 % 64 + bits h 63 56 / 128 * 128 + b2n w.concealed + 2 * b2n w.poisoned + 4 * b2n w.estimated + 64 * b2n late
  let h := setBits h 63 56 f
  let h := setBits h 191 176 frame.toNat
  let h := setBits h 239 224 (min 65535 ((now - w.at_) / 1000))
  if late then setBits h 143 128 0x0704 else h

/-- Post the source's next run: a side record whose turn it is, or the next frame record with its side records behind
it. The route that a record carries is the source's from that record onward (R322). -/
def recordPost (src : Nat) (s : State) : State :=
  let a := s.asm src
  match a.outbox with
  | (r, run) :: rest =>
    (match postRun (routeTarget s r) (finishSide a.posted run) s with
    | none => s
    | some s => modAsm src (fun a => { a with outbox := rest, route := r }) s)
  | [] =>
    match nextRecord s src with
    | none => s
    | some (w, run, late) =>
      let run := match run with
        | [] => []
        | h :: t => finishHead a.frame s.now w late h :: t
      let r := w.route.getD a.route
      match postRun (routeTarget s r) run s with
      | none => s
      | some s => modAsm src (fun a => { a with
          waiting := dropFirst (fun x => decide (x.claim = w.claim)) a.waiting, frame := a.frame + 1, route := r
          lastTs := some (match a.lastTs with
            | none => w.ts
            | some t => if t.toNat < w.ts.toNat then w.ts else t)
          posted := (postedOf a.frame w :: a.posted).take 256
          outbox := (a.sides.filter (fun x => x.1 = w.ts)).map (·.2), sides := a.sides.filter (fun x => x.1 ≠ w.ts) }) s

/-! ### States (Table 14.4) -/

/-- The first failed check of Table 14.5; 0 when all pass. -/
def qpCheck (s : State) (q : Nat) : Nat :=
  let cfg := cfgGet s (qpOff q + 0x10)
  if (cfgGet64 s (qpOff q)).toNat % 4096 ≠ 0 ∨ (cfgGet64 s (qpOff q + 8)).toNat % 4096 ≠ 0 then 1
  else if bits cfg 3 0 > 12 ∨ bits cfg 7 4 > 8 then 2
  else if bit cfg 18 && decide ((cfgGet64 s (qpOff q + 0x30)).toNat % 8 ≠ 0) then 3 else 0

/-- ENABLE in DISABLED: ENABLED with both rings at 0 and the registers sampled, or REASON and a record. -/
def qpOpen (q : Nat) (s : State) : State :=
  match qpCheck s q with
  | 0 =>
    let s := modQp q (fun x => { Qp.dflt with
      state := .running, cmdBase := cfgGet64 s (qpOff q), rspBase := cfgGet64 s (qpOff q + 8), headwbAddr := cfgGet64 s (qpOff q + 0x30)
      cfg := cfgGet s (qpOff q + 0x10), torn := x.torn }) s
    match qpDest s q with
    | some d => takeControl d s
    | none => s
  | r => recordOther 7 q (BitVec.ofNat 64 r) (modQp q (fun x => { x with state := .disabled, reason := BitVec.ofNat 8 r }) s)

/-- Kill a job whose queue pair stops (R338, Table 14.4): one in PUBLISHING completes first. -/
def stopJob (j : Nat) (s : State) : State :=
  match s.job j with
  | none => s
  | some b =>
    if publishing b then modJob j (fun b => { b with killLatched := true }) s
    else match b.state with
      | .queued => dropPassive j 0x0103 s
      | .suspended => dropPassive j 0x0103 s
      | .tearingDown => s
      | .running => jobFault j 0x0103 0 false s
      | .switchingOut => jobFault j 0x0103 0 false s
      | .switchingIn => jobFault j 0x0103 0 false s

/-- ENABLED to STOPPING: fetching stops, its jobs are killed, its snapshots and clips stop as by CLIP_STOP. -/
def qpStop (q reason : Nat) (s : State) : State :=
  let s := modQp q (fun x => { x with state := .stopping, reason := BitVec.ofNat 8 reason, fetchBuf := [] }) s
  let s := forEach ((liveJobs s).filter (fun p => decide (p.2.qp = q))) (fun p s => stopJob p.1 s) s
  forEach (s.media.requests.filter (fun (r : MediaReq) => decide (routeQp s r.route = q ∧ r.state ≠ .finishing))) (fun r s => reqStop r false s) s

/-- The conditions of the STOPPING row: jobs GONE, their messages and the requests' media-done entries posted, no
command read outstanding. -/
def qpStopped (s : State) (q : Nat) : Bool :=
  !(liveJobs s).any (fun p => decide (p.2.qp = q)) &&
  !(s.store ++ s.raised).any (fun m => decide (m.qp = q) && decide (bits m.entry 15 0 = 1 ∨ bits m.entry 15 0 = 6 ∨
    (bits m.entry 15 0 = 2 ∧ bits m.entry 63 48 ≠ 0xFFFF))) &&
  !s.media.requests.any (fun r => decide (routeQp s r.route = q)) &&
  !s.pcie.tags.any (fun t => (t.2.map (fun x => decide (x.qp = q) && !x.quarantined)).getD false)

/-! ### Command reads (R361, R370–R372) -/

def tagOf (s : State) (t : Nat) : Option Tag := Table.get none s.pcie.tags t
def setTag (t : Nat) (x : Option Tag) (s : State) : State := modPcie (fun p => { p with tags := Table.set none p.tags t x }) s
def outstanding (s : State) : Nat := (s.pcie.tags.filter (fun t => (t.2.map (fun x => !x.quarantined)).getD false)).length
def quarantined (s : State) : Nat := (s.pcie.tags.filter (fun t => (t.2.map (·.quarantined)).getD false)).length

/-- A free tag, from the next in turn. -/
def freeTag (s : State) : Option Nat :=
  ((upTo 1024).map (fun k => (s.pcie.nextTag + k) % 1024)).find? (fun t => (tagOf s t).isNone)

/-- Entries one read may cover: room in the fetch buffer, entries pending, to the end of the ring, Max Read Request
Size. -/
def fetchCount (s : State) (q : Nat) : Nat :=
  let x := s.qp q
  let ahead := seqDist x.fetchPos x.cmdHead
  min (min (64 - ahead) (seqDist x.cmdTail x.fetchPos)) (min (x.cmdEntries - x.fetchPos.toNat % x.cmdEntries) (s.pcie.mrrs / 64))

/-- Issue a read of `n` entries from ring position `pos` under a free tag. -/
def issueRead (q : Nat) (pos : Word) (n : Nat) (reissue : Bool) (s : State) : State :=
  match freeTag s with
  | none => s
  | some t =>
    if 512 ≤ outstanding s then s else
    let x := s.qp q
    let s := setTag t (some { qp := q, pos := pos, count := n, reissue := reissue, quarantined := false }) s
    let s := modPcie (fun p => { p with nextTag := (t + 1) % 1024 }) s
    emit (.hostRead t (x.cmdBase.toNat + pos.toNat % x.cmdEntries * 64) (64 * n) (bit x.cfg 16)) s

/-- A read can be issued now. -/
def readCan (s : State) : Bool := (freeTag s).isSome && decide (outstanding s < 512)

/-- A command read has failed (R372): its status with KIND 7, then STOPPING; none of its entries is accepted. -/
def readFailed (q status reason : Nat) (s : State) : State :=
  let s := postStatusTo q { status := status, kind := 7, id := q } s
  if (s.qp q).state = .running then qpStop q reason s else s

/-- Entries read, put at their places in the fetch buffer. -/
def landEntries (q : Nat) (pos : Word) (es : List Entry64) (s : State) : State :=
  modQp q (fun x => { x with
    fetchBuf := sortBy (fun e => seqDist e.1 x.cmdHead) (x.fetchBuf ++ es.zipIdx.map (fun e => (pos + BitVec.ofNat 32 e.2, e.1))) }) s

end Sys2Proof.Machine
end

