-- ==== Sys2Proof/Machine/HostQ.lean ====
section
/-! DEFINITION. The host queue rows: doorbells, queue pairs, command reads, messages, records (R359–R372, R322–R326). -/

namespace Sys2Proof.Machine
open Sys2Proof

/-- A doorbell discarded: counted and recorded (R360). -/
def doorbellDiscard (q : Nat) (v : Word) (s : State) : State :=
  record 0x0A02 7 q (v.setWidth 64) (modPcie (fun p => { p with doorbellDiscard := satAdd p.doorbellDiscard 1 }) s)

/-- A write of HQ_CMD_TAIL (R360, R365, R394). -/
def writeCmdTail (q : Nat) (t : Word) (s : State) : State :=
  let x := s.qp q
  if x.state = .running ∧ (qpDest s q).isNone = true ∧ seqDist t x.cmdHead ≤ x.cmdEntries ∧ seqDist t x.cmdTail ≤ x.cmdEntries then
    modQp q (fun x => { x with cmdTail := t }) s
  else doorbellDiscard q t s
def execCmdTailDoorbell (q : Fin 64) (t : Word) (s : State) : Res := .next (guard (qpOff q + 0x1C) (writeCmdTail q t) s)

/-- A write of HQ_RSP_HEAD (R360, R365). -/
def writeRspHead (q : Nat) (h : Word) (s : State) : State :=
  let x := s.qp q
  if x.state ≠ .disabled ∧ seqDist h x.rspHead ≤ seqDist x.rspTail x.rspHead then modQp q (fun x => { x with rspHead := h }) s
  else doorbellDiscard q h s
def execRspHeadDoorbell (q : Fin 64) (head : Word) (s : State) : Res := .next (guard (qpOff q + 0x24) (writeRspHead q head) s)

/-- QP_ENABLE (Table 14.4) -/
def qpEnable (q : Nat) (s : State) : State :=
  match (s.qp q).state with
  | .disabled => qpOpen q s
  | .stopping => modQp q (fun x => { x with state := .stoppingPendingEnable }) s
  | .running | .stoppingPendingEnable => s
def execQpEnable (q : Fin 64) (s : State) : Res := .next (guard (qpOff q + 0x14) (qpEnable q) s)

/-- QP_DISABLE (Table 14.4) -/
def qpDisable (q : Nat) (s : State) : State :=
  match (s.qp q).state with
  | .running => qpStop q 0x10 s
  | .stoppingPendingEnable => modQp q (fun x => { x with state := .stopping }) s
  | .disabled | .stopping => s
def execQpDisable (q : Fin 64) (s : State) : Res := .next (guard (qpOff q + 0x14) (qpDisable q) s)

/-- QP_STOP_COMPLETE (Table 14.4) -/
def execQpStopComplete (q : Fin 64) (s : State) : Res :=
  rooted s (if qpStopped s q = false then s
    else match (s.qp q).state with
      | .stopping => modQp q (fun x => { x with state := .disabled }) s
      | .stoppingPendingEnable => qpOpen q s
      | .disabled | .running => s)

/-- COMMAND_FETCH (R361, R370) -/
def execCommandFetch (q : Fin 64) (s : State) : Res :=
  rooted s (let x := s.qp q
    let n := fetchCount s q
    if x.state = .running ∧ (qpDest s q).isNone = true ∧ 0 < n ∧ readCan s = true then
      issueRead q x.fetchPos n false (modQp q (fun x => { x with fetchPos := x.fetchPos + BitVec.ofNat 32 n }) s)
    else s)

/-- A completion for a tag that is quarantined, or neither outstanding nor quarantined, is discarded and counted (R371). -/
def strayCompletion (tag : Nat) (s : State) : State :=
  match tagOf s tag with
  | none => emit (.aer .unexpectedCompletion) (modPcie (fun p => { p with unexpCpl := satAdd p.unexpCpl 1 }) s)
  | some t => if t.quarantined then setTag tag none (modPcie (fun p => { p with lateCpl := satAdd p.lateCpl 1 }) s) else s

/-- The read outstanding under a tag. -/
def readOf (s : State) (tag : Nat) : Option Tag := (tagOf s tag).filter (fun t => !t.quarantined)

/-- COMMAND_READ_COMPLETE: the tag is free, and the entries are dispatched in ring order (R361, R370). -/
def execCommandReadComplete (tag : Fin 1024) (entries : List Entry64) (s : State) : Res :=
  rooted s (match readOf s tag with
    | none => strayCompletion tag s
    | some t =>
      let s := setTag tag none s
      if (s.qp t.qp).state = .running then acceptLoop t.qp (landEntries t.qp t.pos (entries.take t.count) s) else s)

/-- COMPLETION_TIMEOUT (R371): quarantine and one reissue, or the read has failed. -/
def execCompletionTimeout (tag : Fin 1024) (s : State) : Res :=
  rooted s (match tagOf s tag with
    | none => s
    | some t =>
      if t.quarantined then s else
      let s := emit (.aer .completionTimeout) (modPcie (fun p => { p with cplTimeout := satAdd p.cplTimeout 1 }) s)
      let s := setTag tag (some { t with quarantined := true }) s
      if t.reissue then readFailed t.qp 0x0106 0x11 s
      else if (s.qp t.qp).state = .running then issueRead t.qp t.pos t.count true s
      else s)

/-- LATE_COMPLETION (R371) -/
def execLateCompletion (tag : Fin 1024) (s : State) : Res := rooted s (strayCompletion tag s)

/-- UNEXPECTED_COMPLETION (R371) -/
def execUnexpectedCompletion (tag : Fin 1024) (s : State) : Res := rooted s (strayCompletion tag s)

/-- QUARANTINE_EXPIRE (R371) -/
def execQuarantineExpire (tag : Fin 1024) (s : State) : Res :=
  rooted s (match tagOf s tag with
    | none => s
    | some t => if t.quarantined then setTag tag none s else s)

/-- COMPLETION_ERROR_STATUS (R372, Table 14.9): the read is not reissued. -/
def execCompletionErrorStatus (tag : Fin 1024) (err : CplError) (s : State) : Res :=
  rooted s (match readOf s tag with
    | none => strayCompletion tag s
    | some t =>
      let s := match err with
        | .poisoned => poisonedTlp s
        | .ecrc => emit (.aer .ecrc) s
        | .unsupported | .abort => s
      readFailed t.qp 0x0107 0x12 (setTag tag none s))

/-- MESSAGE_POST (R363, R367, R368) -/
def execMessagePost (q : Fin 64) (s : State) : Res := rooted s (messagePost q s)

/-- IRQ_TIMER (R364) -/
def execIrqTimer (q : Fin 64) (s : State) : Res := rooted s (if 0 < (s.qp q).posted then qpFire q s else s)

/-- RECORD_POST (R322, R325, R326) -/
def execRecordPost (source : Fin 272) (s : State) : Res := rooted s (recordPost source s)

/-- HQ_COUNT_CLEAR (R380) -/
def hqClearOff : Nat := hqBase + 0x1010
def clearHqHwm (s : State) : State := modPcie (fun p => { p with msgHwm := 0 }) s
def clearHqCounts (s : State) : State := modPcie (fun p => { p with msgDropped := 0, doorbellDiscard := 0 }) s
def execHqClearHwm (s : State) : Res := .next (guard hqClearOff clearHqHwm s)
def execHqClearCounts (s : State) : Res := .next (guard hqClearOff clearHqCounts s)

end Sys2Proof.Machine
end

