-- ==== Sys2Proof/Machine/OpsTrain.lean ====
section
/-! DEFINITION. The work of an adaptation step: crops and batches, gradients and their norm, and what joined devices send
each other (R110–R114, R116, R399, R400). -/

namespace Sys2Proof.Machine
open Sys2Proof

/-! ### Crops (R111, R116, Table 4.6) -/

/-- A curd of a crop set: its address and the numbers of its first crop and of its slots. -/
structure CropCurd where
  addr : Nat
  first : Nat
  slots : Nat
  deriving DecidableEq, Repr

/-- The curds that hold the crops from `first` to `count` and stand one after another from `addr`, and the address after
the last (Table 11.2). `fuel` bounds the curds by the crops. -/
def cropCurds (s : State) (count : Nat) : Nat → Nat → Nat → List CropCurd × Nat
  | 0, _, addr => ([], addr)
  | fuel + 1, first, addr =>
    if count ≤ first then ([], addr) else
    let head := dramBytesAt s addr 24
    let slots := max (fieldAt head 5 1) 1
    let (cs, last) := cropCurds s count fuel (first + slots) (addr + max (fieldAt head 20 4) 4096)
    ({ addr := addr, first := first, slots := slots } :: cs, last)

/-- Crop `i` of a set counts: its slot is VALID and its label has a weight other than 0. -/
def cropValid (s : State) (set : List CropCurd × Nat) (i : Nat) : Bool :=
  match set.1.find? (fun c => decide (c.first ≤ i ∧ i < c.first + c.slots)) with
  | none => false
  | some c =>
    bit (BitVec.ofNat 64 (fieldAt (dramBytesAt s (c.addr + 8) 8) 0 8)) (i - c.first) &&
    decide (fieldAt (dramBytesAt s (set.2 + 16 * i + 10) 2) 0 2 % 32768 ≠ 0)

def Adapt.batch (a : Adapt) : Nat := fieldAt a.params 16 2
def Adapt.crops (a : Adapt) : Nat := fieldAt a.params 60 4
def Adapt.dataAddr (a : Adapt) : Nat := fieldAt a.params 48 8

/-- For each place of step `t`'s batch, whether its crop counts. Batches run in crop order and wrap at CROP_COUNT. -/
def batchValid (s : State) (v : Nat) (a : Adapt) (t : Nat) : List Bool :=
  let set := cropCurds s a.crops a.crops 0 (vatDramBase s v + a.dataAddr)
  (upTo a.batch).map (fun i => cropValid s set (((t - 1) * a.batch + i) % max a.crops 1))

/-! ### Gradients (R111, R112, R114) -/

/-- Gradients a crop does not carry are zero. -/
def gradOf (grads : List Grad) (num : Nat) : List Word :=
  ((grads.find? (fun g => decide (g.num.val = num))).map (·.w)).getD []

/-- The batch mean over the crops that count, summed in crop order; zero where none does. -/
def meanGrad (grads : List (List Grad)) (valid : List Bool) (t : TensorRec) (num : Nat) : List Word :=
  let gs := ((grads.zip valid).filter (·.2)).map (fun p => gradOf p.1 num)
  (upTo (t.k * t.n)).map (fun i =>
    if gs = [] then 0 else f32div (gs.foldl (fun a g => f32add a (g.getD i 0)) 0) (f32ofInt gs.length))

/-- The gradient of each scale: the sum over its group's rows of level × gradient of the decoded weight, in row order. -/
def scaleGrad (levels : List Half) (t : TensorRec) (q : Quant) (gw : List Word) : List Word :=
  (upTo (t.groups * t.n)).map (fun i =>
    (upTo (min t.groupLen (t.k - i / t.n * t.groupLen))).foldl (fun a r =>
      let k := (i / t.n * t.groupLen + r) * t.n + i % t.n
      f32add a (f32mul (f32ofInt (levels.getD (q.codes.getD k 0) 0).toInt) (gw.getD k 0))) 0)

/-- The norm of the decoded weight gradients: squares summed in FP32 within runs of the given lengths, the rest as the last
run, and the runs' sums in order. -/
def gradNorm : List Nat → List Word → Word → Word
  | [], gs, acc => f32sqrt (f32add acc (gs.foldl (fun a g => f32add a (f32mul g g)) 0))
  | n :: ns, gs, acc => gradNorm ns (gs.drop n) (f32add acc ((gs.take n).foldl (fun a g => f32add a (f32mul g g)) 0))

/-- A gradient that the step uses is poisoned (R410). -/
def gradsPoisoned (grads : List (List Grad)) (valid : List Bool) (nums : List Nat) : Bool :=
  (grads.zip valid).any (fun p => p.2 && p.1.any (fun g => g.poisoned && decide (g.num.val ∈ nums)))

/-- The gradients of one trained tensor at a step. -/
structure StepGrad where
  num : Nat
  w : List Word
  scales : List Word
  deriving DecidableEq, Repr

/-- Tensors that the job trains, with their bit numbers. -/
def trained (base : Version) (a : Adapt) : List (Nat × TensorRec) :=
  base.tensors.filterMap (fun t => t.train.bind (fun n => if bit (BitVec.ofNat 32 a.trainMask) n then some (n, t) else none))

/-- Levels of a grid slot of a version. -/
def versionLevels (v : Version) (slot : Nat) : List Half :=
  if slot = 0 then bellDefault.map halfOfInt
  else ((v.grids.find? (fun g => decide (g.1 = slot))).map (·.2)).getD ((upTo 16).map (Config.unsetGrid slot))

/-! ### What joined devices exchange (R399, R400) -/

/-- TRANSFER of what step `t` sends of tensor `n` (32 above it for scales): the model's own numbering (assumption log 75). -/
def stepTransfer (a : Adapt) (t n : Nat) : Word := BitVec.ofNat 32 (a.newVersion.toNat % 64 * 2 ^ 26 + t * 64 + n)

/-- Bytes of whole units that one frame to the member carries. -/
def tensorRoom (s : State) (m : Nat) : Nat :=
  linkMtu s (bits (s.member m).cfg 29 27) - (if bit (s.member m).cfg 30 then 40 else 20) - 8 - 32 - 16

/-- Send units from number `first` on; `fuel` is their number. -/
def sendUnitsFuel : Nat → Nat → Word → Nat → Nat → Nat → List (List Byte) → State → State
  | 0, _, _, _, _, _, _, s => s
  | fuel + 1, m, transfer, enc, g, first, units, s =>
    if units = [] then s else
    let n := max 1 (tensorRoom s m / wireUnitBytes enc g)
    let us := units.take n
    let frame := tensorHeader transfer first us.length enc g ++ us.flatMap id
    sendUnitsFuel fuel m transfer enc g (first + us.length) (units.drop n)
      (if h : m < 8 then flowQueue (.tensor ⟨m, h⟩) false frame s else s)
def sendUnits (m : Nat) (transfer : Word) (enc g : Nat) (units : List (List Byte)) (s : State) : State :=
  sendUnitsFuel units.length m transfer enc g 0 units s

/-- Q8G64 units of a gradient; the codes of a last group that its tensor does not fill are 0. -/
def q8Units (u : Nat → Word) (xs : List Word) : List (List Byte) :=
  (upTo (cdiv xs.length 64)).map (fun g =>
    let x := encodeInt8 (fun i => u (64 * g + i)) ((xs.drop (64 * g)).take 64)
    toBytes (BitVec.ofNat 16 x.scale) 2 ++ fitBytes 64 (x.codes.map (BitVec.ofInt 8)))

/-- A tensor of `n` elements from its Q8G64 units. -/
def q8Tensor (n : Nat) (units : Nat → List Byte) : List Word :=
  (upTo n).map (fun i =>
    let b := units (i / 64)
    let g : Group8 := { scale := fieldAt b 0 2, codes := [(byteAt b (2 + i % 64)).toInt] }
    g.decode.headD 0)

/-- BELL units of a tensor: unit q + n × ⌈K / G⌉ holds group q of column n. -/
def bellUnits (t : TensorRec) (x : Quant) : List (List Byte) :=
  (upTo (t.groups * t.n)).map (fun i =>
    let n := i / t.groups
    let q := i % t.groups
    let code := fun r => if q * t.groupLen + r < t.k then x.codes.getD ((q * t.groupLen + r) * t.n + n) 0 else 0
    toBytes (BitVec.ofNat 16 (x.scales.getD (q * t.n + n) 0)) 2 ++
      (upTo (t.groupLen / 2)).map (fun r => BitVec.ofNat 8 (code (2 * r) + 16 * code (2 * r + 1))))

/-- Codes and scales from BELL units. -/
def bellTensor (t : TensorRec) (units : Nat → List Byte) : Quant :=
  { scales := (upTo (t.groups * t.n)).map (fun i => fieldAt (units (i % t.n * t.groups + i / t.n)) 0 2)
    codes := (upTo (t.k * t.n)).map (fun i =>
      let r := i / t.n % t.groupLen
      let b := (byteAt (units (i % t.n * t.groups + i / t.n / t.groupLen)) (2 + r / 2)).toNat
      if r % 2 = 0 then b % 16 else b / 16) }

/-- Units received from member `m` in a transfer, by number. -/
def unitsFrom (s : State) (m : Nat) (transfer : Word) : List TensorUnit :=
  s.ether.tensorIn.filter (fun u => decide (u.member = m ∧ u.transfer = transfer))
/-- All `n` units of a transfer are here. -/
def unitsWhole (us : List TensorUnit) (n : Nat) : Bool := (upTo n).all (fun i => us.any (fun u => decide (u.index = i)))
def unitBytesOf (us : List TensorUnit) (i : Nat) : List Byte := ((us.find? (fun u => decide (u.index = i))).map (·.bytes)).getD []

/-- Order in which the last unit of a member's transfer arrived: its place among everything received. -/
def arrivedAt (s : State) (m : Nat) (transfer : Word) : Nat :=
  (s.ether.tensorIn.zipIdx.filter (fun p => decide (p.1.member = m ∧ p.1.transfer = transfer))).foldl (fun a p => max a p.2) 0

/-- What has been received in the transfers of step `t` is used up. -/
def dropStep (a : Adapt) (t : Nat) (s : State) : State :=
  let lo := (stepTransfer a t 0).toNat
  modEther (fun e => { e with tensorIn := e.tensorIn.filter (fun u => decide ¬(lo ≤ u.transfer.toNat ∧ u.transfer.toNat < lo + 64)) }) s

/-- Members UP. -/
def upMembers (s : State) : List Nat := (upTo 8).filter (fun m => decide ((s.member m).state = .up))

/-- Everything that step `t` of the job needs from member `m` has arrived at the lead. -/
def gradsHere (s : State) (a : Adapt) (ts : List (Nat × TensorRec)) (t m : Nat) : Bool :=
  ts.all (fun p => unitsWhole (unitsFrom s m (stepTransfer a t p.1)) (cdiv (p.2.k * p.2.n) 64) &&
    unitsWhole (unitsFrom s m (stepTransfer a t (p.1 + 32))) (cdiv (p.2.groups * p.2.n) 64))

/-- The lead's sum for tensor `n`, or its scales: its own gradient first, then the members' in arrival order (chapter 4). -/
def sumGrads (s : State) (a : Adapt) (t n : Nat) (own : List Word) : List Word :=
  let tr := stepTransfer a t n
  (sortBy (fun m => arrivedAt s m tr) (upMembers s)).foldl (fun acc m =>
    let g := q8Tensor own.length (unitBytesOf (unitsFrom s m tr))
    acc.zipIdx.map (fun p => f32add p.1 (g.getD p.2 0))) own

/-- The lead's codes and scales after step `t` are here for every trained tensor. -/
def codesHere (s : State) (a : Adapt) (ts : List (Nat × TensorRec)) (t : Nat) : Bool :=
  ts.all (fun p => unitsWhole (unitsFrom s a.lead (stepTransfer a t p.1)) (p.2.groups * p.2.n))

/-- Codes and scales of a trained tensor on a member after `t` steps: the base version's before the first, else the lead's. -/
def memberQuant (s : State) (a : Adapt) (t : Nat) (p : Nat × TensorRec) : Quant :=
  if t = 0 then quantIn p.2 (dramBytesAt s p.2.store p.2.len)
  else bellTensor p.2 (unitBytesOf (unitsFrom s a.lead (stepTransfer a t p.1)))

/-- A device applies the job's updates: it runs alone or is the lead (Table 4.5, LEAD). -/
def isLead (s : State) (a : Adapt) : Bool := decide (a.lead = 0xFF) || decide (a.lead = joinSelf s)

/-- Codes and scales in use on this device after `t` steps (R111). -/
def stepQuant (s : State) (base : Version) (a : Adapt) (t : Nat) (p : Nat × TensorRec) : Quant :=
  if isLead s a then
    match a.tensors.find? (fun x => decide (x.1.num = p.1)) with
    | none => quantIn p.2 (dramBytesAt s p.2.store p.2.len)
    | some x => quantOf (versionLevels base p.2.grid) p.2 x.1
  else memberQuant s a t p

/-- This device's own gradients of a step. -/
def ownGrads (s : State) (v : Nat) (base : Version) (a : Adapt) (t : Nat) (grads : List (List Grad)) : List StepGrad :=
  let valid := batchValid s v a t
  (trained base a).map (fun p =>
    let gw := meanGrad grads valid p.2 p.1
    { num := p.1, w := gw, scales := scaleGrad (versionLevels base p.2.grid) p.2 (stepQuant s base a (t - 1) p) gw })

/-- A member sends the step's gradients to the lead as Q8G64, whatever the scope (Table 4.4). -/
def sendGrads (a : Adapt) (t : Nat) (gs : List StepGrad) (s : State) : State :=
  forEach gs (fun g s =>
    sendUnits a.lead (stepTransfer a t (g.num + 32)) 3 0 (q8Units (noise a.seed t (g.num + 32) 0) g.scales)
      (sendUnits a.lead (stepTransfer a t g.num) 3 0 (q8Units (noise a.seed t g.num 0) g.w) s)) s

/-- The lead sends codes and scales to every member that is UP as BELL. -/
def sendCodes (base : Version) (a : Adapt) (t : Nat) (s : State) : State :=
  forEach (upMembers s) (fun m s => forEach (trained base a) (fun p s =>
    sendUnits m (stepTransfer a t p.1) 4 p.2.groupLen (bellUnits p.2 (stepQuant s base a t p)) s) s) s

/-- The weight gradient as the scope stores it (Table 4.4). -/
def storedGrad (a : Adapt) (t : Nat) (g : StepGrad) : StepGrad :=
  if a.exchange then g else { g with w := inGroups narrowInt8 (noise a.seed t g.num 0) g.w }

/-- Apply step `t` with decoded gradients (R114). -/
def applyStep (a : Adapt) (t : Nat) (runs : List Nat) (gs : List StepGrad) : List (Masters × Moments) :=
  let gnorm := gradNorm runs (gs.flatMap (·.w)) 0
  a.tensors.map (fun x => match gs.find? (fun g => decide (g.num = x.1.num)) with
    | none => x
    | some g => stepTensor a t gnorm g.w g.scales x)

end Sys2Proof.Machine
end

