-- ==== Sys2Proof/Machine/Models.lean ====
section
/-! DEFINITION. Adaptation steps, quantising, publishing and deleting model versions (R98, R110–R121). -/

namespace Sys2Proof.Machine
open Sys2Proof

/-- The masters that a job trains, copied from BASE_VERSION, with zero moments. -/
def copyMasters (s : State) (a : Adapt) : List (Masters × Moments) :=
  match findVersion s a.model a.baseVersion with
  | none => []
  | some v => (v.masters.filter (fun m => decide (a.trainMask / 2 ^ m.num % 2 = 1))).map (fun m =>
      let z : List Word := m.w.map (fun _ => 0)
      let zs : List Word := m.scales.map (fun _ => 0)
      (m, { m := z, v := z, ms := zs, vs := zs }))

/-- PREPARING ends: masters are copied (Table 4.7). -/
def enterStepping (s : State) (a : Adapt) : Adapt :=
  if a.state = .preparing then { a with state := .stepping, steps := 0, tensors := if isLead s a then copyMasters s a else [] } else a

/-- Step `t` of a job, or none while what a joined device must have received has not arrived. -/
def adaptStep (v : Nat) (base : Version) (a : Adapt) (runs : List Nat) (grads : List (List Grad)) (s : State) : Option (Adapt × State) :=
  let t := a.steps + 1
  let ts := trained base a
  let a' := { a with steps := t, state := if a.stepsWanted ≤ t then .quantising else .stepping }
  if isLead s a then
    let joined := if a.lead = 0xFF then [] else upMembers s
    if joined.all (gradsHere s a ts t) = false then none else
    let own := (ownGrads s v base a t grads).map (storedGrad a t)
    if joined = [] ∧ (batchValid s v a t).all (fun b => !b) = true then some (a', s)
    else
      let gs := if joined = [] then own else
        own.map (fun g => { g with w := sumGrads s a t g.num g.w, scales := sumGrads s a t (g.num + 32) g.scales })
      let a' := { a' with tensors := applyStep a t runs gs }
      some (a', if joined = [] then s else sendCodes base a' t (dropStep a t s))
  else if (s.member a.lead).state ≠ .up ∨ (a.steps ≠ 0 ∧ codesHere s a ts a.steps = false) then none
  else some (a', dropStep a a.steps (sendGrads a t (ownGrads s v base a t grads) s))

/-- ADAPT_STEP_COMPLETE: one step, with the gradients that the package's kernels computed for each crop of the batch and the
rows that the forward pass saved. The cores and the join's sender take no poisoned gradient: the job is faulted and nothing
is sent (Table 16.2). -/
def execAdaptStepComplete (job : Half) (runs : List Nat) (grads : List (List Grad)) (acts : List (List Word)) (s : State) : Res :=
  rooted s (match s.job job.toNat with
    | none => s
    | some b => match b.adapt with
      | none => s
      | some a =>
        let a := enterStepping s a
        if b.state ≠ .running ∨ b.begun = false ∨ a.state ≠ .stepping then s else
        match findVersion s a.model a.baseVersion with
        | none => s
        | some base =>
          if gradsPoisoned grads (batchValid s b.vat a (a.steps + 1)) ((trained base a).map (·.1)) then jobFault job.toNat 0x0102 4 false s
          else match adaptStep b.vat base a runs grads s with
          | none => s
          | some (a', s) =>
            modJob job.toNat (fun b => { b with adapt := some { a' with acts := acts.map (saveRow a.exchange) } }) s)

/-- A trained tensor of the new version: its bytes go to their own place. -/
def writeTensor (place : Nat) (base : Version) (a : Adapt) (p : Nat × TensorRec) (s : State) : State :=
  dramPut (place + p.2.offset)
    (putQuant p.2 (stepQuant s base a a.steps p) (dramBytesAt s p.2.store p.2.len)) s

/-- The new version's record: trained tensors at `place`, the others shared with the base (Table 4.8, R120). The base's
masters go with it for tensors that the job does not train; a member that is not the lead holds none of the others. -/
def newVersionOf (place : Nat) (base : Version) (a : Adapt) : Version :=
  let trains := fun (n : Nat) => bit (BitVec.ofNat 32 a.trainMask) n
  { base with
    version := a.newVersion, state := .staged, base := place
    tensors := base.tensors.map (fun t => if (t.train.map trains).getD false then { t with store := place + t.offset } else t)
    masters := base.masters.filterMap (fun m =>
      if trains m.num then (a.tensors.find? (fun x => decide (x.1.num = m.num))).map (·.1) else some m) }

/-- QUANTISE_COMPLETE: the new version is STAGED at `place`; on a member its codes and scales are those that the lead sent
after the last step. -/
def execQuantiseComplete (job : Half) (place : BitVec 34) (touch : Touch) (s : State) : Res :=
  rooted s (match s.job job.toNat with
    | none => s
    | some b => match b.adapt with
      | none => s
      | some a =>
        if b.state ≠ .running ∨ a.state ≠ .quantising then s else
        match findVersion s a.model a.baseVersion with
        | none => s
        | some base =>
          if isLead s a = false ∧ codesHere s a (trained base a) a.steps = false then s else
          let s := touchErrs 0 touch (touchMeet touch s)
          let s := forEach (trained base a) (writeTensor place.toNat base a) s
          let s := dropStep a a.steps { s with versions := s.versions ++ [newVersionOf place.toNat base a] }
          modJob job.toNat (fun b => { b with adapt := some { a with
            tensors := [], acts := [], state := if a.publish then .publishing else .done } }) s)

/-! ### Packages and publishing -/

/-- A learned grid of R98: 16 strictly ascending levels of −127 to 127. -/
def gridOk (g : List Byte) : Bool :=
  let v := g.map (fun b => b.toInt)
  decide (g.length = 16) && v.all (fun x => decide (-127 ≤ x)) && (v.zip (v.drop 1)).all (fun p => decide (p.1 < p.2))

/-- A package as a held version. -/
def versionOf (m : Half) (ver : Word) (p : Package) : Version :=
  { model := m, version := ver, state := .staged, base := p.base.toNat, len := p.len,
    tensors := p.tensors.map (fun t =>
      { offset := t.offset, len := t.len, blocks := t.blocks, store := p.base.toNat + t.offset, k := t.k, n := t.n,
        group := t.group, grid := t.grid, train := t.train.map (·.val) }),
    grids := p.grids.map (fun g => (g.1.val, g.2.map (fun b => halfOfInt b.toInt))),
    masters := p.masters.map (fun x => { num := x.num, w := x.w, scales := x.scales }) }

/-- A package is held: its grids are checked (R98). -/
def loadPackage (m : Half) (ver : Word) (p : Package) (s : State) : State :=
  if (findVersion s m ver).isSome then s
  else if p.grids.all (fun g => gridOk g.2 && decide (g.1.val ≠ 0)) then { s with versions := s.versions ++ [versionOf m ver p] }
  else postStatus { status := 0x0201, id := m.toNat } s

/-- The adaptation job in PUBLISHING that made a version. -/
def publisher (s : State) (m : Half) (ver : Word) : Option (Nat × Adapt) :=
  firstSome (fun k => match (liveJobs s)[k]? with
    | none => none
    | some p => p.2.adapt.bind (fun a =>
      if a.state = .publishing ∧ a.model = m ∧ a.newVersion = ver then some (p.1, a) else none)) (upTo (liveJobs s).length)

/-- Publish a held version: by the host, or for its adaptation job, whose BASE_VERSION must still be CURRENT. -/
def publishHeld (m : Half) (ver : Word) (s : State) : State :=
  match findVersion s m ver with
  | none => recordOther 0 m.toNat (ver.setWidth 64) s
  | some v =>
    let done := fun (j : Nat) (s : State) =>
      considerSwitch (jobVat s j) (modJob j (fun b => { b with adapt := b.adapt.map (fun a => { a with state := .done }) }) s)
    match publisher s m ver with
    | some (j, a) =>
      if (currentVersion s m).map (·.version) = some a.baseVersion then done j (publishVersion m ver s)
      else done j (postJobStatus j 0x0203 0 0 s)
    | none =>
      if v.state = .staged ∨ v.state = .idle then publishVersion m ver s else s

/-- MODEL_PUBLISH (R118): of a package that the host loads, or of a held version. -/
def execModelPublish (model : Half) (version : Word) (package : Option Package) (s : State) : Res :=
  rooted s (publishHeld model version (match package with
    | none => s
    | some p => loadPackage model version p s))

/-- VERSION_DELETE (R119): a STAGED or IDLE version is freed and leaves every cave. -/
def execVersionDelete (model : Half) (version : Word) (s : State) : Res :=
  rooted s (match findVersion s model version with
    | none => s
    | some v =>
      if v.state = .staged ∨ v.state = .idle then
        let s := forEach (upTo 32) (fun k s => dropCave k model version s) s
        { s with versions := s.versions.filter (fun x => decide ¬(x.model = model ∧ x.version = version)) }
      else recordOther 0 model.toNat (version.setWidth 64) s)

end Sys2Proof.Machine
end

