-- ==== Sys2Proof/Machine/OpsVat.lean ====
section
/-! DEFINITION. Vats and regions: forming a region from its image, leaving HOLDING, closing a changed group
(R204–R211). -/

namespace Sys2Proof.Machine
open Sys2Proof

/-! ### Hearths and banks (R127, Tables 2.10 and 5.3) -/

def classCode : Nat → BankClass
  | 1 => .working
  | 2 => .resident
  | _ => .off

/-- What becomes of a bank that the image classes `c`; the scrubs are started apart. -/
def reclass (c : BankClass) (k : Bank) : Bank := match k.state with
  | .failed => { k with cls := c, tag := none }
  | .off => if c = .off then k else { k with cls := c, state := .waking, tag := none, offAfter := false }
  | .waking => if c = .off then { Bank.dflt with lastA := false } else { k with cls := c }
  | .scrubbing => { k with cls := c, offAfter := decide (c = .off) }
  | .ready =>
    if c = k.cls then k
    else if c ≠ .off then { k with cls := c, tag := none }
    else if k.cls = .working then { k with cls := c, offAfter := true }
    else { Bank.dflt with lastA := false }
  | .retained => { k with cls := c }
  | .testing => { k with cls := c }

/-- A hearth's banks take the classes of `map`. READY banks that change class are scrubbed, and so are, under a vat reset,
the working ones (R127, R209). -/
def classBanks (h map : Nat) (vatReset : Bool) (s : State) : State :=
  let x := s.hearth h
  let c := fun (b : Nat) => classCode (mapClass map b)
  let ready := (upTo 32).filter (fun b => decide ((x.bank b).state = .ready))
  let scrub := ready.filter (fun b => if c b = .off then decide ((x.bank b).cls = .working)
    else decide (c b ≠ (x.bank b).cls) || (vatReset && decide (c b = .working)))
  let lost := ready.filter (fun b => decide (c b = .off ∧ (x.bank b).cls = .resident))
  let s := modHearth h (fun x => lost.foldl (fun x b => clearBank b x)
    { x with banks := Table.modAll Bank.dflt x.banks (upTo 32) (fun b k => reclass (c b) k) }) s
  scrubBanks h scrub s

/-- The class map that a region gives hearth `h`. -/
def regionMap (r : Region) (h : Nat) : Nat := ((r.banks.find? (fun b => b.1 = h)).map (·.2)).getD 0

/-- A named hearth joins: UNASSIGNED to ACTIVE with its banks classed; a FAULTED one stays (R204, R205). -/
def joinHearth (r : Region) (vatReset : Bool) (h : Nat) (s : State) : State :=
  match (s.hearth h).state with
  | .unassigned => classBanks h (regionMap r h) vatReset (modHearth h (fun x => { x with state := .active, beatAt := s.now }) s)
  | .active => classBanks h (regionMap r h) vatReset s
  | .removing | .stoppingPendingEnable | .faulted | .testing => s

/-- Engine state that a vat reset clears (Table 0.5, R471). -/
def resetHearth (h : Nat) (s : State) : State :=
  clearAcc h (modHearth h (fun x => { x with
    cores := [], ladles := [], ctrs := [], written := 0, hoops := Table.drop (fun k => decide (16 ≤ k)) x.hoops }) (abandonArrays h s))

/-- A hearth leaves its vat: UNASSIGNED, its working banks scrubbed and its banks off (Table 2.10). -/
def leaveHearth (h : Nat) (s : State) : State :=
  match (s.hearth h).state with
  | .active => classBanks h 0 false (modHearth h (fun x => { x with state := .unassigned }) (resetHearth h s))
  | .unassigned | .removing | .stoppingPendingEnable | .faulted | .testing => s

/-! ### Flues (R200, R205, R209, Table 2.8) -/

/-- A flue is bound: OPEN with its depth in credits and its receive hoop empty; BROKEN where an end is not ACTIVE. -/
def bindFlue (f : FlueRec) (s : State) : State :=
  let st : FlueState := if (s.hearth f.src).state = .active ∧ (s.hearth f.dst).state = .active then .openF else .broken
  let p := { FluePort.dflt with valid := true, state := st, width := f.width - 1, flue := f.flue, depth := f.depth }
  let s := modOut f.src f.srcPort (fun _ => { p with peer := f.dst, peerPort := f.dstPort, credits := f.depth }) s
  let s := modIn f.dst f.dstPort (fun _ => { p with peer := f.src, peerPort := f.srcPort }) s
  modHoop f.dst f.dstPort (fun _ => { Hoop.dflt with state := .bound, flue := true, base := f.rxBase, size := f.depth }) s

/-- A flue is unbound: CLOSED, its lanes free, its hoop UNBOUND. -/
def unbindFlue (f : FlueRec) (s : State) : State :=
  modHoop f.dst f.dstPort (fun _ => Hoop.dflt)
    (modIn f.dst f.dstPort (fun _ => FluePort.dflt) (modOut f.src f.srcPort (fun _ => FluePort.dflt) s))

/-! ### Groups (R202, R211) -/

/-- Bind a decode core or scaler to the group that the applied image gives it; a busy one that changes group goes after
its current work (Table 9.6). -/
def rebindState (g : Option Nat) (old : Nat) (st : CoreState) : CoreState × Bool :=
  match st, g with
  | .unbound, some _ => (.idle, false)
  | .unbound, none => (.unbound, false)
  | st, some k =>
    if k = old then (st, false)
    else if st = .idle ∨ st = .disabled then (.idle, false) else (st, true)
  | st, none => if st = .idle ∨ st = .disabled then (.unbound, false) else (st, true)

def rebindDecoder (d : Nat) (s : State) : State :=
  let g := groupOfDecoder s d
  modDec d (fun x =>
    let (st, leaving) := rebindState g x.group x.state
    { x with state := st, leaving := leaving, group := if leaving then x.group else g.getD 0 }) s
def rebindScaler (k : Nat) (s : State) : State :=
  let g := groupOfScaler s k
  modScl k (fun x =>
    let (st, leaving) := rebindState g x.group x.state
    { x with state := st, leaving := leaving, group := if leaving then x.group else g.getD 0 }) s
def rebindGroups (s : State) : State := forEach (upTo 8) rebindScaler (forEach (upTo 16) rebindDecoder s)

/-- Every placeholder of a source that waits unfilled takes a status. -/
def fillOpen (src status : Nat) (s : State) : State :=
  modAsm src (fun a => { a with waiting := a.waiting.map (fun w =>
    if w.filled.isNone then { w with filled := some (deviceRecord src w.ts status) } else w) }) s

/-- A reload closes a session: ST_VAT_RELOADED for each access unit past step 1 (R211). -/
def sesReload (i : Nat) (s : State) : State :=
  let x := s.ses i
  if x.state = .closed then s else
  let s := modSes i (fun x => { x with state := .stopping, aus := [] }) s
  let s := forEach x.aus (fun a s => if x.quiet then s else lostRec i a.ts a.at_ 0x0305 s) s
  let s := rtpStop i (stopSessionReqs i (fillOpen i 0x0305 s))
  if (s.ses i).pic.isNone then sesFinish i s else s

/-- A sensor source goes to DISABLED at once (R309). -/
def sensorClose (i : Nat) (s : State) : State :=
  modMedia (fun m => { m with holds := m.holds.filter (fun h => h.1 ≠ 256 + i) })
    (modSns i (fun x => { x with state := .disabled, incoming := none, frames := [] }) (fillOpen (256 + i) 0x0305 s))

/-- A bucket goes to DISABLED at once and its curds are discarded (R309, R211). -/
def bucketClose (b status : Nat) (s : State) : State :=
  let s := forEach (s.bkt b).curds (fun c s => fillCurd c status s) s
  let s := match setOf s b with
    | some a => modSet a (fun x => { x with on := false, open_ := [] }) s
    | none => s
  modBkt b (fun k => { k with state := .disabled, curds := [] }) s

/-- The record of group `g` changes or goes (R211). -/
def closeGroup (g : Nat) (s : State) : State :=
  let s := forEach (upTo 256) (fun i s => if (s.ses i).state ≠ .closed ∧ (s.ses i).group = g then sesReload i s else s) s
  let s := forEach (upTo 16) (fun i s => if (s.sns i).state ≠ .disabled ∧ (s.sns i).group = g then sensorClose i s else s) s
  let s := forEach (upTo 16) (fun b s => if (s.bkt b).state ≠ .disabled ∧ (s.bkt b).group = g then bucketClose b 0x0305 s else s) s
  modGrp g (fun x => { x with ready := [] }) (forEach (s.grp g).ready (fun j s => releasePix j s) s)

/-! ### Regions -/

/-- Form a region of the applied image: its hearths, banks and flues (R204). -/
def formRegion (r : Region) (vatReset : Bool) (s : State) : State :=
  forEach r.flues bindFlue (forEach r.hearths (joinHearth r vatReset) s)

/-- The vat runs, with nothing latched. -/
def vatRun (v : Nat) (s : State) : State :=
  modVat v (fun x => { x with state := .running, latch := .none, wasStopped := false, deferral := none }) s

/-- The image becomes the applied image, and every region is formed in increasing order (R204). -/
def applyImage (i : Image) (s : State) : State :=
  let s := rebindGroups { s with image := i }
  forEach i.regions (fun r s => vatRun r.region (formRegion r false s)) s

/-- Cave entries that have lost a bank are ABSENT (Table 13.2). -/
def settleCave (v : Nat) (s : State) : State :=
  let hs := vatHearths s v
  let bad := (s.vat v).cave.filter (fun e => e.pieces.any (fun p =>
    decide (p.hearth ∉ hs) || decide (((s.hearth p.hearth).bank (p.addr / 0x20000)).cls ≠ .resident)))
  forEach bad (fun e s => dropCave v e.model e.version s) s

/-- A region's flues, hearths and group records in an image. -/
def imageFlues (i : Image) (v : Nat) : List FlueRec := ((regionOf i v).map (·.flues)).getD []
def imageHearths (i : Image) (v : Nat) : List Nat := ((regionOf i v).map (·.hearths)).getD []

/-- Flues that the region keeps through a reload: in both images, and OPEN. -/
def keptFlues (s : State) (i : Image) (v : Nat) : List FlueRec :=
  (imageFlues s.image v).filter (fun f => decide (f ∈ imageFlues i v ∧ ((s.hearth f.src).outPort f.srcPort).state = .openF))

/-- Steps 1 to 4 of R209: flues drained and those given up CLOSED, hearths out and in, banks to their new classes. Banks wake
and are scrubbed while the reload is APPLYING. -/
def reshapeRegion (i : Image) (v : Nat) (s : State) : State :=
  let olds := imageHearths s.image v
  let news := imageHearths i v
  let s := flushFlues v s
  let kept := keptFlues s i v
  let s := forEach ((imageFlues s.image v).filter (fun f => decide (f ∉ kept))) unbindFlue s
  let s := forEach (olds.filter (fun h => decide (h ∉ news))) leaveHearth s
  let s := forEach (olds.filter (fun h => decide (h ∈ news))) (fun h s => if (s.hearth h).state = .active then resetHearth h s else s) s
  match regionOf i v with
  | some r => forEach r.hearths (fun h s => joinHearth r (decide (h ∈ olds)) h s) s
  | none => s

/-- Step 4 is over: no bank of the region's hearths, old or new, wakes or is scrubbed. -/
def regionSettled (s : State) (i : Image) (v : Nat) : Bool :=
  (imageHearths s.image v ++ imageHearths i v).all (fun h =>
    !(s.hearth h).banks.any (fun b => decide (b.2.state = .waking ∨ b.2.state = .scrubbing)))

/-- A reload that changes a vat's partition resets the trackers in it, whose bytes become zeros in the partition it now has. -/
def resetTrackers (i : Image) (v : Nat) (s : State) : State :=
  let part := fun (m : Image) => (regionOf m v).map (fun r => (r.dramBase, r.dramUnits))
  if part s.image = part i then s else
  let base := ((regionOf i v).map (fun r => r.dramBase * unitBytes)).getD 0
  modVat v (fun x => { x with trackers := [] }) (forEach (s.vat v).trackers (fun a s => dramZero (base + a) 16384 s) s)

/-- Steps 5 to 7 of R209: new flues are bound, groups rebound, and the staged image is the applied one. -/
def applyRegion (i : Image) (v : Nat) (s : State) : State :=
  let kept := keptFlues s i v
  let s := forEach ((imageFlues i v).filter (fun f => decide (f ∉ kept))) bindFlue s
  let oldGroups := recordsOf s.image.raw 0x13 v
  let newGroups := recordsOf i.raw 0x13 v
  let s := forEach (oldGroups.filter (fun (g : List Byte) => decide (g ∉ newGroups))) (fun g s => closeGroup (parseGroup g).group s) s
  forEach (upTo 256) sesAbandon (settleCave v (rebindGroups { resetTrackers i v s with image := i }))

/-! ### The reload engine (R207–R212) -/

def modReload (f : Reload → Reload) (s : State) : State := { s with reload := f s.reload }

/-- Device address of the staging area, unit 15 (R197). -/
def stagingBase : Nat := 0x0F000000

/-- The staged image's bytes, as many as its header says and the area holds. -/
def stagedBytes (s : State) : List Byte := dramBytesAt s stagingBase (max 64 (min (imgBytes (dramBytesAt s stagingBase 64)) 0x1000000))

/-- STC_RELOAD_TIME -/
def reloadTime (s : State) : Word := pack 32 [(16, s.reload.verifyUs), (0, s.reload.quiesceUs)]

/-- The reload-result message (Table 14.6). -/
def postReload (s : State) : State :=
  postMsg (eventQp s) .droppable
    (entry32 [(0, 0x0004), (4, s.reload.region), (5, s.reload.result), (6, s.reload.detail), (8, (reloadTime s).toNat)]) s

/-- The vat leaves HOLDING when its reload ends without applying (Table 7.11), and pre-emption may follow (R333). -/
def leaveHolding (v : Nat) (s : State) : State :=
  match (s.vat v).state with
  | .holding =>
    considerSwitch v (modVat v (fun x => { x with
      state := if x.latch = .disable then .stopped else .running, latch := .none }) s)
  | .unformed | .running | .stopping | .stoppingPendingEnable | .stopped | .reloading => s

/-- A reload ends in IDLE without applying. -/
def endReload (result detail : Nat) (s : State) : State :=
  let v := s.reload.region
  let s := leaveHolding v (modReload (fun r => { r with state := .idle, result := result, detail := detail }) s)
  acceptAll (postReload s)

/-- A job of the vat is torn down for a reload with MODE = KILL; one in PUBLISHING publishes first (R208, R118). -/
def reloadKill (j : Nat) (s : State) : State :=
  match s.job j with
  | none => s
  | some b =>
    let s := match b.adapt with
      | some a => if a.state = .publishing then publishHeld a.model a.newVersion s else s
      | none => s
    match b.state with
    | .queued => s
    | .tearingDown => s
    | .suspended => dropPassive j 0x0305 s
    | .running => jobFault j 0x0305 0 false s
    | .switchingOut => jobFault j 0x0305 0 false s
    | .switchingIn => jobFault j 0x0305 0 false s

end Sys2Proof.Machine
end

