-- ==== Sys2Proof/Machine/OpsBoot.lean ====
section
/-! DEFINITION. Firmware slots and packages, update events and transfers, orders and attestation (chapter 17). -/

namespace Sys2Proof.Machine
open Sys2Proof

def modBoot (f : Boot → Boot) (s : State) : State := { s with boot := f s.boot }

/-! ### Slots (R422, R436) -/

def modFwSlot (k : Nat) (f : Slot → Slot) (s : State) : State :=
  modBoot (fun b => if k = 0 then { b with slotA := f b.slotA } else { b with slotB := f b.slotB }) s
def slotTo (k : Nat) (st : SlotState) (s : State) : State := modFwSlot k (fun x => { x with state := st }) s
/-- A slot becomes EMPTY. -/
def slotEmpty (k : Nat) (s : State) : State := modFwSlot k (fun _ => Slot.dflt) s

/-- The slot in a state, A before B. -/
def slotIn (b : Boot) (st : SlotState) : Option Nat := [0, 1].find? (fun k => decide ((b.slot k).state = st))

/-- A supply is below its limit, or PFAIL_N is asserted (R433, Table 17.8). -/
def lowPower (s : State) : Bool := decide (s.elec.low ≠ 0) || s.recorder.pfail

/-! ### Packages (Table 17.2, R423) -/

def pkgBytes (d : List Byte) : Nat := fieldAt d 8 4
def pkgFormat (d : List Byte) : Half := BitVec.ofNat 16 (fieldAt d 6 2)
def pkgFwVersion (d : List Byte) : Word := BitVec.ofNat 32 (fieldAt d 12 4)
def pkgRollback (d : List Byte) : Nat := fieldAt d 16 4
def pkgFirmware (d : List Byte) : List Byte := (d.drop 576).take (fieldAt d 20 4)
def pkgImage (d : List Byte) : List Byte := (d.drop (fieldAt d 24 4)).take (fieldAt d 28 4)

/-- The header is within Table 17.2. -/
def pkgHeaderOk (d : List Byte) : Bool :=
  decide (d.take 4 = [0x4F, 0x5A, 0x55, 0x50] ∧ fieldAt d 4 2 = 1 ∧ 576 ≤ d.length) && decide (pkgBytes d ≤ 58720256) && decide (pkgRollback d ≤ 96) &&
  within (fieldAt d 20 4) 4096 8388608 && decide (fieldAt d 28 4 ≤ 16777216) && decide (fieldAt d 36 4 ≤ 33554432)

/-- The package signature is valid: it covers the header and the firmware section. -/
def pkgSigned (b : Boot) (d : List Byte) : Bool := sigValid b (d.take 64 ++ pkgFirmware d) ((d.drop 64).take 512)

/-- The ROM's checks of a slot (R424 step 3). -/
def slotOk (b : Boot) (d : List Byte) : Bool :=
  pkgHeaderOk d && decide (fieldAt d 40 4 ≤ Config.romVer.toNat) && decide (b.fuses.rollback ≤ pkgRollback d) && pkgSigned b d

/-! ### Registers that other parts of the chapter read -/

/-- SVC_STATUS (Table 17.14) -/
def svcStatus (s : State) : Word :=
  let b := s.boot
  let tries := match slotIn b .trial with
    | some k => (b.slot k).attempts
    | none => 0
  pack 32 [(31, b2n (decide (s.power.state = .recovery))), (30, b2n b.degraded), (24, b.update.state.code), (16, tries), (8, b.slotB.state.code),
    (4, b.slotA.state.code), (0, b.active)]

def svcFwVersion (s : State) : Word := pkgFwVersion (s.boot.slot s.boot.active).data

/-- LCS_ registers (Table 17.12). -/
def lcsPowerClass (f : Fuses) : Word := pack 32 [(8, f.clsLeft), (0, f.cls)]
def lcsOwner (f : Fuses) : Word := pack 32 [(8, f.ownerLeft), (0, b2n f.owner)]
def lcsRollback (f : Fuses) : Word := pack 32 [(8, f.rollbackLeft), (0, f.rollback)]
def lcsKeys (f : Fuses) : Word := pack 32 [(8, f.revokedLeft), (0, f.revoked.toNat)]
/-- Changes left for a region's lock, of 8. -/
def lockLeft (f : Fuses) (r : Nat) : Nat := 8 - Table.get 0 f.lockUsed r

/-! ### Update events (R442) -/

/-- The update-progress message, and record 0x0C01 unless the event is 0x03, for a transfer and its bytes. -/
def updEventFor (rx pkg : Nat) (transfer : Word) (event slot member detail status : Nat) (s : State) : State :=
  let s := postMsg (eventQp s) .droppable
    (entry32 [(0, 0x0008), (4, event), (5, slot), (6, member), (7, detail), (8, status), (12, rx), (16, pkg), (20, transfer.toNat)]) s
  if event = 3 then s else record 0x0C01 0 0 (pack 64 [(0, event), (8, detail), (16, status), (32, slot)]) s

/-- The same for the current transfer. -/
def updEvent (event slot member detail status : Nat) (s : State) : State :=
  let u := s.boot.update
  updEventFor u.rxBytes u.pkgBytes u.transfer event slot member detail status s

/-- SVC_UPDATE_STATUS -/
def setUpdStatus (status detail source : Nat) (s : State) : State :=
  modBoot (fun b => { b with updStatus := pack 32 [(16, status), (8, detail), (0, source)] }) s

/-! ### Transfers (R434, R435, R441) -/

/-- SOURCE of an update by its flow. -/
def updSource : FlowId → Nat
  | .service => 0
  | .image _ => 1
  | .tensor _ => 1
  | .control _ => 1

/-- Send one operation: its 16-byte subheader and payload. -/
def sendUpd (id : FlowId) (op : Nat) (transfer : Word) (offset len : Nat) (payload : List Byte) (s : State) : State :=
  flowQueue id false ([BitVec.ofNat 8 op, 0, 0, 0] ++ toBytes transfer 4 ++ toBytes (BitVec.ofNat 32 offset) 4 ++ toBytes (BitVec.ofNat 32 len) 4 ++ payload) s

/-- RESULT to the sender of a transfer. -/
def sendResult (id : FlowId) (transfer : Word) (status : Nat) (s : State) : State := sendUpd id 4 transfer 0 status [] s

/-- The next operation of a flow, when it is `op`, taken out of its frame buffer: TRANSFER, OFFSET, LENGTH, payload. -/
def takeOp (id : FlowId) (op : Nat) (s : State) : Option ((Word × Nat × Nat × List Byte) × State) :=
  match (s.flow id).rx with
  | [] => none
  | p :: rest =>
    if fieldAt p 0 1 = op then
      some ((BitVec.ofNat 32 (fieldAt p 4 4), fieldAt p 8 4, fieldAt p 12 4, p.drop 16),
        modFlow id (fun x => { x with rx := rest }) s)
    else none

/-- Packages are taken from the service peer, and from member SELF − 1 while CHAIN_EN is 1 (R434). -/
def updFrom (s : State) (id : FlowId) : Bool := match id with
  | .service => true
  | .image m => bit (cfgGet s (svcBase + 0x24)) 0 && decide (m.val + 1 = joinSelf s)
  | .tensor _ => false
  | .control _ => false

/-- The update under way is that of this flow and TRANSFER. -/
def updIs (s : State) (id : FlowId) (transfer : Word) (st : UpdState) : Bool :=
  decide (s.boot.update.state = st ∧ s.boot.update.flow = id ∧ s.boot.update.transfer = transfer)

/-- An update ends without a package: its slot is EMPTY (R435, Table 17.9). -/
def updAbort (status : Nat) (s : State) : State :=
  let u := s.boot.update
  if u.state = .idle then s else
  let s := slotEmpty u.slot (setUpdStatus status 0 (updSource u.flow) s)
  let s := updEvent 2 u.slot 0xFF 0 status s
  modBoot (fun b => { b with update := { b.update with state := .idle } }) s

/-- The device aborts the update it receives, and tells the sender. -/
def updFail (status : Nat) (s : State) : State :=
  let u := s.boot.update
  if u.state = .idle then s else sendResult u.flow u.transfer status (updAbort status s)

/-- The status an OFFER is refused with, 0 to accept it (Table 17.8). `bytes` is its LENGTH. -/
def offerStatus (s : State) (bytes : Nat) (head : List Byte) : Nat :=
  let other := (s.boot.slot (1 - s.boot.active)).state
  if updateBusy s = true ∨ (other ≠ .empty ∧ other ≠ .old ∧ other ≠ .failed) then 0x0906
  else if s.boot.fuses.owner then 0x0903
  else if s.elec.inhibit then 0x0901
  else if lowPower s then 0x0902
  else if !pkgHeaderOk head || decide (bytes ≠ pkgBytes head) then 0x0904
  else if pkgRollback head < s.boot.fuses.rollback then 0x0905 else 0

/-- The slot that holds a package to be passed along: PENDING and not running. -/
def pendingSlot (s : State) : Option Nat := slotIn s.boot .pending

/-- Offer the PENDING package to member SELF + 1 (R441). TRANSFER is the offerer's choice: a free value. -/
def forwardOffer (s : State) : State :=
  let m := joinSelf s + 1
  match pendingSlot s with
  | none => s
  | some k =>
    if h : m < 8 then
      if bit (cfgGet s (svcBase + 0x24)) 0 && decide ((s.member m).state = .up) then
        let d := (s.boot.slot k).data
        let (t, s) := draw 32 s
        sendUpd (.image ⟨m, h⟩) 1 t 0 (pkgBytes d) (d.take 576)
          (modBoot (fun b => { b with forward := some { member := m, transfer := t, accepted := false } }) s)
      else s
    else s

/-- The forwarder's slot has left PENDING, or its host ends the transfer: ABORT (R434, R441). -/
def forwardAbort (s : State) : State :=
  match s.boot.forward with
  | none => s
  | some f =>
    let s := modBoot (fun b => { b with forward := none }) s
    if h : f.member < 8 then sendUpd (.image ⟨f.member, h⟩) 5 f.transfer 0 0 [] s else s

/-- The package's CHUNKs of 1,024 bytes from byte 576 on, and END. -/
def forwardData (m : Fin 8) (transfer : Word) (d : List Byte) (s : State) : State :=
  let n := cdiv (d.length - 576) 1024
  let s := forEach (upTo n) (fun i s =>
    let c := (d.drop (576 + 1024 * i)).take 1024
    sendUpd (.image m) 2 transfer (576 + 1024 * i) c.length c s) s
  sendUpd (.image m) 3 transfer 0 0 [] s

/-- A RESULT for the package being passed along (R441). -/
def forwardResult (transfer : Word) (status : Nat) (s : State) : State :=
  match s.boot.forward with
  | none => s
  | some f =>
    if f.transfer ≠ transfer then s
    else if h : f.member < 8 then
      if status = 0 ∧ f.accepted = false then
        match pendingSlot s with
        | none => s
        | some k =>
          forwardData ⟨f.member, h⟩ transfer (s.boot.slot k).data
            (modBoot (fun b => { b with forward := some { f with accepted := true } }) s)
      else updEvent 0x0C ((pendingSlot s).getD s.boot.active) f.member 0 status (modBoot (fun b => { b with forward := none }) s)
    else s

/-! ### Confirmation (R438, R439) -/

/-- Advance the anti-rollback counter to `target`, a step at a time, as far as steps are left; an OLD slot below it
becomes FAILED (R436, R439). -/
def rollbackAdvance (target : Nat) (s : State) : State :=
  let s := modBoot (fun b =>
    let n := min (target - b.fuses.rollback) b.fuses.rollbackLeft
    { b with fuses := { b.fuses with rollback := b.fuses.rollback + n, rollbackLeft := b.fuses.rollbackLeft - n } }) s
  match slotIn s.boot .old with
  | none => s
  | some k => if pkgRollback (s.boot.slot k).data < s.boot.fuses.rollback then slotTo k .failed s else s

/-- The ROLLBACK values of a slot's package and of its structure image, the higher. -/
def slotRollback (x : Slot) : Nat := max (pkgRollback x.data) (imgRollback (pkgImage x.data))

/-- The confirmation timer runs. -/
def confirming (s : State) : Bool := s.boot.confirmAt.isSome && onTrial s

/-- A write of CONFIRM = 1, or a CONFIRM operation (R438, R439). -/
def confirm (s : State) : State :=
  if !confirming s then recordWrite (svcBase + 0x10) 1 s else
  let k := s.boot.active
  let s := match slotIn s.boot .confirmed with
    | some o => slotTo o .old s
    | none => s
  let s := slotTo k .confirmed s
  let s := modBoot (fun b => { b with
    confirmAt := none, formats := [pkgFormat (b.slot k).data], lastFailed := b.startFailed, lastFaulted := b.startFaulted }) s
  let s := rollbackAdvance (slotRollback (s.boot.slot k)) s
  updEvent 7 k 0xFF 0 0 s

/-! ### Orders (R432, R433) -/

/-- The order window's 640 bytes. -/
def orderBytes (s : State) : List Byte := (upTo 160).flatMap (fun i => toBytes (cfgGet s (lcsBase + 0x1000 + 4 * i)) 4)

def orderSetting (o : List Byte) : Nat := fieldAt o 6 1
def orderValue (o : List Byte) : Nat := fieldAt o 7 1
def orderRegion (o : List Byte) : Nat := fieldAt o 8 1
def orderDigest (o : List Byte) : BitVec 256 := ofBytes 256 ((o.drop 48).take 32)

/-- SETTING, VALUE and REGION are codes of Table 17.7. -/
def orderCodes (o : List Byte) : Bool := match orderSetting o with
  | 1 => decide (orderValue o ≤ 2)
  | 2 => decide (orderValue o ≤ 1)
  | 3 => decide (orderValue o ≤ 1 ∧ orderRegion o < 32)
  | 4 => decide (orderValue o ≤ 3)
  | _ => false

/-- Changes left of the order's setting. -/
def orderLeft (f : Fuses) (o : List Byte) : Nat := match orderSetting o with
  | 1 => f.clsLeft
  | 2 => f.ownerLeft
  | 3 => lockLeft f (orderRegion o)
  | _ => f.revokedLeft

/-- The order sets the present value. -/
def orderPresent (f : Fuses) (o : List Byte) : Bool := match orderSetting o with
  | 1 => decide (f.cls = orderValue o)
  | 2 => decide (b2n f.owner = orderValue o)
  | 3 => if orderValue o = 1 then bit f.locked (orderRegion o) && decide (Table.get 0 f.digests (orderRegion o) = orderDigest o) else !bit f.locked (orderRegion o)
  | _ => bit f.revoked (orderValue o)

/-- The status an order is refused with, 0 when it passes (R433). -/
def orderStatusOf (s : State) (o : List Byte) : Nat :=
  let f := s.boot.fuses
  let block := (o.drop 128).take 512
  if lowPower s then 0x0902
  else if o.take 4 ≠ [0x4F, 0x5A, 0x4C, 0x43] ∨ fieldAt o 4 2 ≠ 1 ∨ orderCodes o = false ∨ sigValid s.boot (o.take 128) block = false ∨
      (o.drop 16).take 16 ≠ toBytes s.boot.identity.serial 16 ∨ (o.drop 32).take 16 ≠ toBytes s.boot.nonce 16 ∨
      (orderSetting o = 4 ∧ fieldAt block 0 1 = orderValue o) then 0x0904
  else if orderSetting o = 3 ∧ orderValue o = 1 ∧ orderDigest o ≠ regionDigest s.image.raw (orderRegion o) then 0x0302
  else if (orderSetting o = 4 ∧ (f.revoked ||| BitVec.ofNat 4 (2 ^ orderValue o)) = BitVec.allOnes 4) ∨ orderLeft f o = 0 then 0x0908
  else 0

/-- The fuses once an order is applied; `n` changes are burned. -/
def Fuses.apply (o : List Byte) (n : Nat) (f : Fuses) : Fuses := match orderSetting o with
  | 1 => { f with cls := orderValue o, clsLeft := f.clsLeft - n }
  | 2 => { f with owner := decide (orderValue o = 1), ownerLeft := f.ownerLeft - n }
  | 3 =>
    let r := orderRegion o
    let on := decide (orderValue o = 1)
    { f with
      locked := setBits f.locked r r (b2n on)
      digests := if on then Table.set 0 f.digests r (orderDigest o) else f.digests
      lockUsed := Table.mod 0 f.lockUsed r (· + n) }
  | _ => { f with revoked := f.revoked ||| BitVec.ofNat 4 (2 ^ orderValue o), revokedLeft := f.revokedLeft - n }

/-- LCS_ORDER_STATUS -/
def orderWord (status setting : Nat) (applied busy : Bool) : Word :=
  pack 32 [(16, status), (8, setting), (1, b2n applied), (0, b2n busy)]

/-- An order takes effect: the setting changes and what R433 and R457 tie to it happens. -/
def applyOrder (o : List Byte) (n : Nat) (s : State) : State :=
  let old := s.boot.fuses.cls
  let s := modBoot (fun b => { b with
    fuses := b.fuses.apply o n, order := none, orderStatus := orderWord 0 (orderSetting o) true false }) s
  let s := if orderSetting o = 1 ∧ old < orderValue o then modElec (fun e => { e with caps := raiseToClass (capsNow s) e.caps }) s else s
  let s := if orderSetting o = 2 ∧ orderValue o = 1 then
      let s := updFail 0x0903 s
      match pendingSlot s with
      | some k => forwardAbort (slotEmpty k s)
      | none => s
    else s
  updEvent 9 s.boot.active 0xFF 0 0 s

/-! ### Attestation (R430) -/

/-- Bytes 0–255 of the report (Table 17.5). -/
def attestReport (s : State) : List Byte :=
  let b := s.boot
  let w := fun (x : Word) => toBytes x 4
  fitBytes 256 ([0x4F, 0x5A, 0x41, 0x54] ++ w glbId ++ w glbRev ++ toBytes b.identity.serial 16 ++
    (upTo 8).flatMap (fun i => w (cfgGet s (svcBase + 0x100 + 4 * i))) ++ toBytes (sha256 (pkgFirmware (b.slot b.active).data)) 32 ++
    toBytes (sha256 s.image.raw) 32 ++ w (svcFwVersion s) ++ w (svcStatus s) ++ w (lcsPowerClass b.fuses) ++ w (lcsOwner b.fuses) ++
    w (lcsRollback b.fuses) ++ w (lcsKeys b.fuses) ++ w b.fuses.locked ++ w s.recorder.opSeconds ++ w s.recorder.powerCycles)

end Sys2Proof.Machine
end

