-- ==== Sys2Proof/Machine/Spm.lean ====
section
/-! DEFINITION. The scratchpad's own events: power, scrub, march tests, counters and hoops by store, ECC
write-back, clears, and BAR4 (chapter 5). -/

namespace Sys2Proof.Machine
open Sys2Proof

/-- BANK_POWER_SETTLED: WAKING to SCRUBBING (Table 5.3). -/
def execBankPowerSettled (h : Fin 32) (bank : Fin 32) (s : State) : Res :=
  rooted s (if ((s.hearth h).bank bank).state = .waking then scrubBanks h [bank.val] s else s)

/-- SCRUB_BANK_COMPLETE: the bank under way reads zero without poison and becomes READY, a resident one without
tag (R131, Table 5.3); a bank whose hearth left its vat turns off. -/
def execScrubBankComplete (h : Fin 32) (s : State) : Res :=
  rooted s (match (s.hearth h).scrubLeft with
    | [] => s
    | b :: rest => if s.power.state = .banked then s else modHearth h (fun x => { (clearBank b x) with
        scrubLeft := rest
        banks := Table.mod Bank.dflt x.banks b (fun k =>
          if k.offAfter then { Bank.dflt with lastA := false }
          else { k with state := .ready, tag := none, lastA := false }) }) s)

/-- What a bump or an advance at hearth `h` waits for: the earlier stores of the core that sends it, to that hearth (R138). -/
def landSource (h : Nat) (src : Option BumpSource) (s : State) : State :=
  match src with
  | none => s
  | some b => match b.core with
    | none => s
    | some c => landEarlier b.hearth c h s

def srcHearth (src : Option BumpSource) : Option Nat := src.map (·.hearth.val)

/-- COUNTER_ADD (R139): poisoned data is discarded and counted (R137). An ADD in one cycle with the update before it
leaves TAG at the worse cause of the cycle (R140; the updates of one cycle come in the order in which the unit applies
them, assumption log 74). -/
def execCounterAdd (h : Fin 32) (ctr : Fin 64) (v : Word) (src : Option BumpSource) (tag : BumpTag) (poison : Bool) (s : State) : Res :=
  rooted s (let s := landSource h src s
    let w := if tag.together then worseTag ((s.hearth h).ctr ctr).tag tag.tag else tag.tag
    ctlStore h (0xFFC00 + 8 * ctr.val) (toBytes v 4) poison (srcHearth src) w s)

/-- COUNTER_SET (R139). -/
def execCounterSet (h : Fin 32) (ctr : Fin 64) (v : Word) (poison : Bool) (s : State) : Res :=
  rooted s (ctlStore h (0xFFC04 + 8 * ctr.val) (toBytes v 4) poison none 15 s)

/-- HOOP_HEAD_ADVANCE (R138, R145–R147). -/
def execHoopHeadAdvance (h : Fin 32) (hoop : Fin 32) (n : Word) (src : Option BumpSource) (tag : Fin 16) (poison : Bool) (s : State) : Res :=
  rooted s (ctlStore h (0xFFE00 + 16 * hoop.val) (toBytes n 4) poison (srcHearth src) tag (landSource h src s))

/-- HOOP_TAIL_ADVANCE (R138, R145, R146); a flue hoop's TAIL takes no store (R147). -/
def execHoopTailAdvance (h : Fin 32) (hoop : Fin 32) (n : Word) (src : Option BumpSource) (tag : Fin 16) (poison : Bool) (s : State) : Res :=
  rooted s (ctlStore h (0xFFE04 + 16 * hoop.val) (toBytes n 4) poison (srcHearth src) tag (landSource h src s))

/-- SPM_ECC_WRITEBACK: the corrected granule is stored; the data a read sees is unchanged (R125). -/
def execSpmEccWriteback (h : Fin 32) (granule : Nat) (s : State) : Res :=
  rooted s (modHearth h (fun x => { x with eccPending := x.eccPending.filter (· ≠ granule) }) s)

/-! ### March tests (R149–R152) -/

/-- The register offsets of hearth `h`'s march controls. -/
def marchCtrlOff (h : Nat) : Nat := hearthBase h + 0x20040
def marchMaskOff (h : Nat) : Nat := hearthBase h + 0x20044

/-- Banks whose bit is set in a mask, in increasing order. -/
def maskBanks (m : Word) : List Nat := (upTo 32).filter (bit m)

/-- Start a march with the MODE now in SPM_MARCH_CTRL (R150, R151). -/
def startMarch (h : Nat) (preserving : Bool) (s : State) : State :=
  let x := s.hearth h
  if x.march.running then s
  else if preserving then
    let bs := maskBanks (cfgGet s (marchMaskOff h))
    if !(bs.all (fun b => decide ((x.bank b).state = .ready))) || decide (x.state = .removing) then
      modHearth h (fun x => { x with march := { x.march with result := 3 } }) s
    else match bs with
      | [] => modHearth h (fun x => { x with march := { March.dflt with preserving := true, result := 1 } }) s
      | b :: rest => modHearth h (fun x => { x with
          march := { March.dflt with running := true, preserving := true, bank := b, left := rest }
          banks := Table.mod Bank.dflt x.banks b (fun k => { k with state := .testing }) }) s
  else if x.state = .unassigned ∨ x.state = .faulted ∨ x.state = .testing then
    modHearth h (fun x => { x with
      march := { March.dflt with running := true }
      scrubLeft := []
      banks := Table.modAll Bank.dflt x.banks (upTo 32) (fun _ k => { k with state := .testing }) }) s
  else modHearth h (fun x => { x with march := { x.march with result := 3 } }) s

/-- A write of SPM_MARCH_CTRL; MODE is stored, START acts under R150. -/
def writeMarchCtrl (h : Nat) (ctrl : Word) (s : State) : State :=
  if (s.hearth h).march.running && bit ctrl 31 then s
  else
    let s := cfgSet (marchCtrlOff h) (ctrl &&& 1#32) s
    if bit ctrl 31 then startMarch h (bit ctrl 0) s else s

/-- MARCH_START -/
def execMarchStart (h : Fin 32) (ctrl : Word) (s : State) : Res :=
  .next (guard (marchCtrlOff h) (writeMarchCtrl h ctrl) s)

/-- MARCH_BANK_COMPLETE: a preserving march's bank passes and the next one starts, or fails and the march ends;
a failure in an ACTIVE hearth is a hearth fault (R151, R152). -/
def execMarchBankComplete (h : Fin 32) (pass : Bool) (s : State) : Res :=
  rooted s (let m := (s.hearth h).march
    if m.running = false ∨ m.preserving = false then s
    else if pass then
      let s := modBank h m.bank (fun k => { k with state := .ready, lastA := false }) s
      match m.left with
      | [] => marchEnded (modHearth h (fun x => { x with march := { m with running := false, bank := 0, result := 1 } }) s)
      | b :: rest => modHearth h (fun x => { x with
          march := { m with bank := b, left := rest }
          banks := Table.mod Bank.dflt x.banks b (fun k => { k with state := .testing }) }) s
    else
      let s := modHearth h (fun x => failBank m.bank { x with
        march := { m with running := false, bank := 0, left := [], result := 2, fail := BitVec.ofNat 32 (2 ^ m.bank)
                          failAddr := pack 32 [(28, 15), (7, m.bank * 1024)] } }) s
      marchEnded (hearthFault h 2 s))

/-- MARCH_COMPLETE: a destructive march ends. Passing banks are READY, zero and clear of poison; mismatching
ones FAILED and set in SPM_MARCH_FAIL; the first mismatch is in SPM_MARCH_FAIL_ADDR (R149, R151, R152). -/
def execMarchComplete (h : Fin 32) (fail : Word) (element : Fin 12) (word : Fin 32768) (s : State) : Res :=
  rooted s (let m := (s.hearth h).march
    if m.running = false ∨ m.preserving = true then s else
    marchEnded (modHearth h (fun x =>
      let x := (upTo 32).foldl (fun x b =>
        if bit fail b then failBank b (clearBank b x)
        else { (clearBank b x) with banks := Table.mod Bank.dflt x.banks b (fun k => { k with state := .ready, lastA := false, tag := none }) }) x
      { x with march := { March.dflt with
          result := if fail = 0 then 1 else 2, fail := fail
          failAddr := if fail = 0 then 0 else pack 32 [(28, element.val), (7, word.val)] } }) s))

def clearBankConflict (h : Nat) : State → State := modCounts h (fun c => { c with bankConflict := [] })
def clearConflict (h : Nat) : State → State := modCounts h (fun c => { c with conflict := [] })
def clearSpmEcc (h : Nat) : State → State := modCounts h (fun c => { c with eccCorr := 0, eccUncorr := 0, eccLast := 0 })
def clearSpmAccess (h : Nat) : State → State :=
  modCounts h (fun c => { c with offAccess := 0, resDenied := 0, ctlDiscard := 0, bar4Discard := 0 })

/-- SPM_CLEAR_BANK_CONFLICT -/
def execSpmClearBankConflict (h : Fin 32) (s : State) : Res :=
  .next (guard (hearthBase h + 0x20C00) (clearBankConflict h) s)

/-- SPM_CLEAR_MASTER_CONFLICT -/
def execSpmClearMasterConflict (h : Fin 32) (s : State) : Res :=
  .next (guard (hearthBase h + 0x20C00) (clearConflict h) s)

/-- SPM_CLEAR_ECC; soot keeps its totals (R156). -/
def execSpmClearEcc (h : Fin 32) (s : State) : Res :=
  .next (guard (hearthBase h + 0x20C00) (clearSpmEcc h) s)

/-- SPM_CLEAR_ACCESS -/
def execSpmClearAccess (h : Fin 32) (s : State) : Res :=
  .next (guard (hearthBase h + 0x20C00) (clearSpmAccess h) s)

/-! ### BAR4 (R33, R153, R154, R373, R374, R377) -/

/-- BAR2 and BAR4 are served: Lit and past the boot or FLR. -/
def memServed (s : State) : Bool := decide (s.power.state = .lit) && !s.pcie.notReady

/-- SPM_BAR4_JOB names a live job of the hearth's vat; the agent BAR4 reads resident banks for. -/
def bar4Agent (s : State) (h : Nat) : Agent :=
  let j := bits (cfgGet s (hearthBase h + 0x2002C)) 15 0
  match s.job j with
  | none => .job none
  | some b => if some b.vat = vatOf s h ∧ b.begun = true then .job (some j) else .job none

/-- The data of a BAR4 read of `len` bytes at local address `a` (Table 5.12). -/
def bar4Data (h a len : Nat) (errs : List SpmErr) (s : State) : List (Byte × Bool) × State :=
  let x := s.hearth h
  if x.state ≠ .active then (List.replicate len (0, false), s)
  else if isControl a then ctlLoad h a len s
  else
    let b := x.bank (bankOf a)
    if b.state ≠ .ready then (List.replicate len (0, false), s)
    else if readAccess s h a (bar4Agent s h) = .denied then
      (List.replicate len (0, false), modCounts h (fun c => { c with resDenied := satAdd c.resDenied 1 }) s)
    else
      localRead h 11 a len (bar4Agent s h) errs s

/-- BAR4_READ (R153): Completer Abort in Banked and while not ready (R33, R377); a poisoned granule makes the
completion poisoned (R374). -/
def execBar4Read (offset : BitVec 27) (len : Fin 4097) (errs : List SpmErr) (rivals : Rivals) (s : State) : Res :=
  rooted s (if memServed s = false then
      abortRead 4 offset.toNat (recordBar offset.toNat s)
    else
      let h := offset.toNat / 0x400000
      let a := offset.toNat % 0x400000
      let x := s.hearth h
      let quiet := isControl a || decide (x.state ≠ .active ∨ (x.bank (bankOf a)).state ≠ .ready) || (bankWords s h 11 a len (bar4Agent s h)).isEmpty
      let s := if quiet then s else (arbitrate h (bankOf a) (engineReq 11 false) rivals s).2
      let (bs, s) := bar4Data h a len errs s
      let p := bs.any (·.2)
      let s := if p then modPcie (fun c => { c with poisonTx := satAdd c.poisonTx 1 }) s else s
      emit (.barRead 4 offset.toNat (bs.map (·.1)) p .success) s)

/-- BAR4_WRITE (R153, R373): data to READY working banks, ADD, SET or advance at control words; everything else
is discarded and counted. A poisoned TLP poisons the granules it touches, and no control word takes it. -/
def execBar4Write (offset : BitVec 27) (data : List Byte) (poisoned : Bool) (rivals : Rivals) (s : State) : Res :=
  rooted s (if memServed s = false then recordBar offset.toNat s
    else
      let h := offset.toNat / 0x400000
      let a := offset.toNat % 0x400000
      let s := if poisoned then poisonedTlp s else s
      let x := s.hearth h
      let discard := modCounts h (fun c => { c with bar4Discard := satAdd c.bar4Discard 1 }) s
      if x.state ≠ .active then discard
      else if isControl a then ctlStore h a data poisoned none 15 s
      else
        let b := x.bank (bankOf a)
        if b.state ≠ .ready ∨ b.cls ≠ .working then discard
        else
          let s := (arbitrate h (bankOf a) (engineReq 11 (partStore a data.length)) rivals s).2
          localWrite h a .unchecked none 15 (data.map (fun b => (b, poisoned))) s)

end Sys2Proof.Machine
end

