-- ==== Sys2Proof/Machine/Pcie.lean ====
section
/-! DEFINITION. The PCIe endpoint's rows: DRAM windows, BAR2, errors, configuration requests, the link (R353–R358,
R373–R375, R377, R379). -/

namespace Sys2Proof.Machine
open Sys2Proof

/-! ### Windows (R356–R358) -/

def winOff (w : Nat) : Nat := pepBase + 0x100 + 0x20 * w
def winCommitOff : Nat := pepBase + 4
def State.window (s : State) (w : Nat) : Window := Table.get { base := 0, cfg := 0 } s.pcie.windows w

/-- The staged values of a window. -/
def staged (s : State) (w : Nat) : Window := { base := cfgGet64 s (winOff w), cfg := cfgGet s (winOff w + 8) }

/-- BASE: bits [33:21] of the register. -/
def Window.addr (x : Window) : Nat := x.base.toNat % 2 ^ 34 / 2 ^ 21 * 2 ^ 21
def Window.bytes (x : Window) : Nat := bits x.cfg 8 0 * 0x200000

/-- Why a staged window would refuse its commit (R358); 0 when it does not. -/
def winDetail (x : Window) : Nat :=
  if !bit x.cfg 31 then 0
  else if bits x.cfg 8 0 = 0 ∨ 256 < bits x.cfg 8 0 then 1
  else if dramBytes < x.addr + x.bytes then 2
  else if x.addr < 0x0F000000 then 3 else 0

/-- A write of PEP_WIN_COMMIT: applied whole or refused whole (R357, R358). -/
def winCommit (mask : Byte) (s : State) : State :=
  let ws := (upTo 8).filter (fun w => bit mask w)
  let bad := ws.filter (fun w => decide (winDetail (staged s w) ≠ 0))
  match bad with
  | [] =>
    let t := ws.foldl (fun t w => Table.set { base := 0, cfg := 0 } t w (staged s w)) s.pcie.windows
    modPcie (fun p => { p with windows := t, commitStatus := pack 32 [(8, 1), (0, mask.toNat)] }) s
  | b :: bs =>
    let d := (bs.map (fun w => winDetail (staged s w))).foldl min (winDetail (staged s b))
    let failed := (bad.map (fun w => 2 ^ w)).foldl (· + ·) 0
    recordWrite winCommitOff (mask.setWidth 32) (modPcie (fun p => { p with commitStatus := pack 32 [(16, d), (8, 2), (0, failed)] }) s)

/-- WINDOW_COMMIT -/
def execWindowCommit (mask : Byte) (s : State) : Res := .next (guard winCommitOff (winCommit mask) s)

/-- The device address of a BAR2 request; none for a miss (R356). -/
def winMap (s : State) (offset : Word) (len : Nat) (write : Bool) : Option Nat :=
  let x := s.window (offset.toNat / 0x20000000)
  let o := offset.toNat % 0x20000000
  if bit x.cfg 31 && bit x.cfg (if write then 30 else 29) && decide (o + len ≤ x.bytes) then some (x.addr + o) else none

/-- A miss is counted and recorded. -/
def winMiss (offset : Word) (s : State) : State :=
  record 0x0A01 0 0 (offset.setWidth 64) (modPcie (fun p => { p with winMiss := satAdd p.winMiss 1 }) s)

/-- BAR2_READ (R356, R374): data of DRAM, poisoned where a beat it touches is; a miss completes with Completer Abort. -/
def execBar2Read (offset : Word) (len : Fin 4097) (s : State) : Res :=
  rooted s (if memServed s = false then abortRead 2 offset.toNat (recordBar offset.toNat s)
    else match winMap s offset len false with
      | none => abortRead 2 offset.toNat (winMiss offset s)
      | some a =>
        let d := dramRead s a len
        let p := d.any (·.2)
        let s := if p then modPcie (fun c => { c with poisonTx := satAdd c.poisonTx 1 }) s else s
        emit (.barRead 2 offset.toNat (d.map (·.1)) p .success) s)

/-- BAR2_WRITE (R356, R373): a poisoned TLP stores poison. -/
def execBar2Write (offset : Word) (data : List Byte) (poisoned : Bool) (s : State) : Res :=
  rooted s (if memServed s = false then recordBar offset.toNat s
    else
      let s := if poisoned then poisonedTlp s else s
      match winMap s offset data.length true with
      | none => winMiss offset s
      | some a => dramWrite a (data.map (fun b => (b, poisoned))) s)

/-! ### Errors (Table 14.9) -/

/-- ECRC_REQUEST_ERROR: the TLP is discarded and gets no completion. -/
def execEcrcRequestError (s : State) : Res := rooted s (emit (.aer .ecrc) s)

/-- NO_BAR_REQUEST: Unsupported Request. -/
def execNoBarRequest (s : State) : Res := rooted s (emit (.aer .unsupportedRequest) (emit .unsupportedRequest s))

/-- The AER uncorrectable-status bit of an error, as the PCIe specification numbers them (PRESUMED). -/
def fatalBit : FatalTlp → Nat
  | .malformed => 18
  | .flowControl => 13
  | .overflow => 17

/-- FATAL_TLP_ERROR: discarded and recorded. -/
def execFatalTlpError (err : FatalTlp) (s : State) : Res :=
  rooted s (emit (.aer .fatal) (record 0x0A04 0 0 (BitVec.ofNat 64 (2 ^ fatalBit err)) s))

/-- LINK_REPLAY: counted to soot (R375, R419). -/
def execLinkReplay (n : Fin 65536) (s : State) : Res :=
  rooted s (emit (.aer .correctable) (modSoot (fun t => { t with pcieReplays := satAdd t.pcieReplays n }) s))

/-! ### Configuration space (Tables 14.1–14.3) -/

/-- Bits of a base address register that software may set, and its type bits (Table 14.3; the form is the PCIe
specification's, PRESUMED). -/
def barMask : Nat → Word
  | 0 => 0xFC000000
  | 2 => 0x00000000
  | 4 => 0xF8000000
  | _ => 0xFFFFFFFF
def barType : Nat → Word
  | 0 => 0x4
  | 2 => 0xC
  | 4 => 0x4
  | _ => 0

/-- log2 of a size in units of 128 bytes. -/
def sizeCode (n : Nat) : Nat := Nat.log2 (n / 128)

/-- What a configuration read gives for the fields the manual names. -/
def configValue (s : State) : ConfigField → Option Word
  | .ids => some 0x32161F4E
  | .classRev => some 0x12000010
  | .subsystem => some (s.pcie.subsystem.getD 0x32161F4E)
  | .interruptPin => some 0
  | .bar k => some (Table.get 0 s.pcie.bars k.val ||| barType k.val)
  | .maxPayload => some (BitVec.ofNat 32 (sizeCode s.pcie.mps))
  | .maxReadRequest => some (BitVec.ofNat 32 (sizeCode s.pcie.mrrs))
  | .msixControl => some (pack 32 [(15, b2n s.pcie.msixOn), (14, b2n s.pcie.msixMask), (0, 63)])
  | .other _ => none

/-- A configuration write. -/
def configWrite (f : ConfigField) (v : Word) (s : State) : State :=
  match f with
  | .bar k => modPcie (fun p => { p with bars := Table.set 0 p.bars k.val (v &&& barMask k.val) }) s
  | .maxPayload => if v.toNat ≤ 2 then modPcie (fun p => { p with mps := 128 * 2 ^ v.toNat }) s else s
  | .maxReadRequest => if v.toNat ≤ 5 then modPcie (fun p => { p with mrrs := 128 * 2 ^ v.toNat }) s else s
  | .msixControl => msixUnmasked (modPcie (fun p => { p with msixOn := bit v 15, msixMask := bit v 14 }) s)
  | .ids | .classRev | .subsystem | .interruptPin | .other _ => s

/-- CONFIG_REQUEST (R354, R377): Retry Status while the device is not ready. -/
def execConfigRequest (field : ConfigField) (write : Option Word) (s : State) : Res :=
  rooted s (if s.pcie.notReady then emit (.config field 0 .retry) s
    else match write with
      | some v => emit (.config field 0 .success) (configWrite field v s)
      | none => match configValue s field with
        | some v => emit (.config field v .success) s
        | none =>
          let (v, s) := draw 32 s
          emit (.config field v .success) s)

/-! ### The link (Table 14.15) -/

/-- PCIE_LINK_UP (R379) -/
def execPcieLinkUp (speed : Fin 6) (width : Fin 9) (s : State) : Res :=
  .next (modPcie (fun p => { p with dlActive := true, speed := speed, width := width, pm := 0 }) s)

/-- PCIE_LINK_DOWN (R419) -/
def pcieLinkDrop (s : State) : State :=
  if s.pcie.dlActive then
    modSoot (fun t => { t with pcieLinkDown := satAdd t.pcieLinkDown 1 })
      (modPcie (fun p => { p with dlActive := false, speed := 0, width := 0, pm := 0 }) s)
  else s
def execPcieLinkDown (s : State) : Res := .next (pcieLinkDrop s)

/-- ASPM_L1_ENTRY (R353) -/
def execAspmL1Entry (l11 : Bool) (s : State) : Res :=
  .next (if s.pcie.dlActive then modPcie (fun p => { p with pm := if l11 then 2 else 1 }) s else s)

/-- ASPM_L1_EXIT -/
def execAspmL1Exit (s : State) : Res := .next (modPcie (fun p => { p with pm := 0 }) s)

/-- PEP_COUNT_CLEAR (R380) -/
def clearPep (s : State) : State :=
  modPcie (fun p => { p with cplTimeout := 0, lateCpl := 0, unexpCpl := 0, poisonRx := 0, poisonTx := 0, winMiss := 0 }) s
def execPepClear (s : State) : Res := .next (guard (pepBase + 0x28) clearPep s)

end Sys2Proof.Machine
end

