-- ==== Sys2Proof/Machine/Vats.lean ====
section
/-! DEFINITION. Vats enabled and disabled, and region reloads (R206–R212). -/

namespace Sys2Proof.Machine
open Sys2Proof

def vatCtrlOff (v : Nat) : Nat := stcBase + 0x108 + 0x10 * v
def reloadCtrlOff : Nat := stcBase + 0x10

/-- ENABLE (Table 7.11). -/
def vatEnable (v : Nat) (s : State) : State :=
  match (s.vat v).state with
  | .stopping => modVat v (fun x => { x with state := .stoppingPendingEnable }) s
  | .stopped => acceptAll (modVat v (fun x => { x with state := intoRunning s v }) s)
  | .holding => modVat v (fun x => { x with latch := .enable }) s
  | .reloading => modVat v (fun x => { x with latch := .enable }) s
  | .unformed => s
  | .running => s
  | .stoppingPendingEnable => s

/-- DISABLE (Table 7.11). -/
def vatDisable (v : Nat) (s : State) : State :=
  match (s.vat v).state with
  | .running => considerSwitch v (modVat v (fun x => { x with state := if hasLive s v then .stopping else .stopped }) s)
  | .stoppingPendingEnable => modVat v (fun x => { x with state := .stopping }) s
  | .holding => modVat v (fun x => { x with latch := .disable }) s
  | .reloading => modVat v (fun x => { x with latch := .disable }) s
  | .unformed => s
  | .stopping => s
  | .stopped => s

/-- VAT_ENABLE (R206) -/
def execVatEnable (vat : Fin 32) (s : State) : Res := .next (guard (vatCtrlOff vat) (vatEnable vat) s)
/-- VAT_DISABLE (R206) -/
def execVatDisable (vat : Fin 32) (s : State) : Res := .next (guard (vatCtrlOff vat) (vatDisable vat) s)

/-- A hearth that the region names, in the applied or the staged image, is on its way out or under test (R207). -/
def reloadBlocked (s : State) (r : Nat) : Bool :=
  (vatHearths s r ++ (parseRegion (stagedBytes s) r).hearths).any (fun h =>
    decide ((s.hearth h).state = .removing ∨ (s.hearth h).state = .stoppingPendingEnable ∨ (s.hearth h).state = .testing))

/-- A write of START = 1 (R207). -/
def startReload (r : Nat) (kill : Bool) (s : State) : State :=
  if s.reload.state ≠ .idle ∨ reloadBlocked s r = true then postStatus { status := 0x0304, kind := 2, id := r } s
  else if bit s.boot.fuses.locked r then
    postStatus { status := 0x0303, detail := 0x0C, kind := 2, id := r }
      (modReload (fun x => { x with region := r, result := 4, detail := 0x0C }) s)
  else
    let s := modReload (fun x => { x with state := .verifying, region := r, kill := kill, result := 0, detail := 0, startedAt := s.now }) s
    if (s.vat r).state = .running then considerSwitch r (modVat r (fun x => { x with state := .holding, latch := .none }) s) else s

/-- A write of CANCEL = 1: it acts in VERIFYING and WAITING_IDLE only (R212). -/
def cancelReload (s : State) : State :=
  if s.reload.state = .verifying ∨ s.reload.state = .waitingIdle then endReload 6 0 s else s

/-- A write of STC_RELOAD_CTRL: MODE and REGION are stored, then CANCEL and START act (Table 7.14). -/
def writeReloadCtrl (v : Word) (s : State) : State :=
  let s := cfgSet reloadCtrlOff (v &&& 0x11F#32) s
  let s := if bit v 30 then cancelReload s else s
  if bit v 31 then startReload (bits v 4 0) (bit v 8) s else s

/-- RELOAD_START (R207) -/
def execReloadStart (region : Fin 32) (kill : Bool) (s : State) : Res :=
  .next (guard reloadCtrlOff (writeReloadCtrl (pack 32 [(31, 1), (8, b2n kill), (0, region.val)])) s)

/-- RELOAD_CANCEL (R212): the fields MODE and REGION are written with it. -/
def execReloadCancel (region : Fin 32) (kill : Bool) (s : State) : Res :=
  .next (guard reloadCtrlOff (writeReloadCtrl (pack 32 [(30, 1), (8, b2n kill), (0, region.val)])) s)

/-- RELOAD_VERIFY_COMPLETE (R203, R208) -/
def execReloadVerifyComplete (s : State) : Res :=
  rooted s (if s.reload.state ≠ .verifying then s else
    let r := s.reload.region
    let bs := stagedBytes s
    let d := imageCheck s.boot s.image.raw bs (some r)
    if d ≠ 0 then
      let s := record 0x0701 2 r (BitVec.ofNat 64 d) s
      let s := postStatus { status := imageStatus d, detail := d, kind := 2, id := r } s
      endReload (if d = 0x0B then 3 else if d = 0x0C then 4 else 2) d s
    else
      let s := modReload (fun x => { x with staged := parseImage bs, verifiedAt := s.now }) s
      if !hasLive s r then enterQuiesce s
      else if s.reload.kill then
        let s := enterQuiesce s
        forEach ((liveJobs s).filter (fun p => decide (p.2.vat = r))) (fun p s => reloadKill p.1 s) s
      else modReload (fun x => { x with state := .waitingIdle }) s)

/-- RELOAD_QUIESCE_COMPLETE: teardowns and flue drains are complete (Table 7.12), and the region is reshaped. -/
def execReloadQuiesceComplete (s : State) : Res :=
  rooted s (let r := s.reload.region
    if s.reload.state ≠ .quiescing ∨ (liveJobs s).any (fun p => decide (p.2.vat = r ∧ p.2.state ≠ .queued)) = true then s
    else modReload (fun x => { x with state := .applying }) (reshapeRegion s.reload.staged r s))

/-- The state of a vat once its reload is applied (Table 7.11). -/
def appliedState (x : Vat) (formed : Bool) : VatState :=
  if !formed then .unformed
  else match x.latch with
    | .disable => .stopped
    | .enable => .running
    | .none => if x.wasStopped then .stopped else .running

/-- RELOAD_APPLY_COMPLETE: R209 is done, the staged image is the applied image, the result message is posted (R212). -/
def reloadApplied (s : State) : State :=
  let v := s.reload.region
  let i := s.reload.staged
  let s := applyRegion i v s
  let formed := (regionOf i v).isSome
  let s := modVat v (fun x => { x with state := appliedState x formed, latch := .none, wasStopped := false }) s
  let s := modReload (fun x => { x with
    state := .idle, result := 1, detail := 0, count := satAdd x.count 1, staged := Image.empty
    verifyUs := us16 x.startedAt x.verifiedAt, quiesceUs := us16 x.quiesceAt s.now }) s
  acceptAll (postReload s)

end Sys2Proof.Machine
end

