-- ==== Sys2Proof/Machine/OpsReset.lean ====
section
/-! DEFINITION. Resets and starts: power-on and fundamental reset, the boot ROM's choice of a slot, Cold, and the function
level reset (R29, R36, R376, R377, R415, R424–R426, R449). -/

namespace Sys2Proof.Machine
open Sys2Proof

def stateReset : State := State.reset

/-! ### Fundamental reset (Table 0.5, R29, R36) -/

/-- RW registers that keep their values through a fundamental reset: CPM_BUDGET, CPM_THERM_CFG and CPM_GPIO_OUT
(Table 18.11; the pins are inputs after every reset, R462). -/
def keptCfg : List Nat := [cpmBase + 4, cpmBase + 0x1C, cpmBase + 0x204]

/-- CPM_THROTTLE_TIME: the one 64-bit register that a fundamental reset keeps, with its read holding register (R11,
Table 18.11). -/
def throttleTimeOff : Nat := cpmBase + 0x10

/-- A WRITING slot becomes EMPTY at a start (Table 17.9). -/
def Slot.atStart (x : Slot) : Slot := if x.state = .writing then Slot.dflt else x

/-- What of the boot state outlives a fundamental reset: flash, fuses and an order that is burning. -/
def Boot.atStart (b : Boot) (nonce : BitVec 128) : Boot :=
  { Boot.reset with
    phase := .relock, slotA := b.slotA.atStart, slotB := b.slotB.atStart, active := b.active, lastFailed := b.lastFailed, lastFaulted := b.lastFaulted
    settings := b.settings, formats := b.formats, fuses := b.fuses, identity := b.identity, nonce := nonce
    orderStatus := if b.order.isSome then b.orderStatus else 0
    order := b.order }

/-- A channel that trains for the first time since the reset (Table 8.5). -/
def Channel.atStart (now : Nat) : Channel := { Channel.dflt with state := .training, attempt := 1, since := now }

/-- Everything outside the always-on island returns to its reset value; DRAM contents are lost (R36). -/
def fundamentalReset (s : State) : State :=
  let (nonce, s) := draw 128 s
  { stateReset with
    pending := s.pending, now := s.now, fresh := s.fresh, out := s.out
    cfg := Table.drop (fun o => decide (o ∉ keptCfg)) s.cfg
    readHold := Table.drop (fun o => decide (o ≠ throttleTimeOff)) s.readHold
    recorder := { s.recorder with loading := false }
    power := { Power.reset with bankedCount := s.power.bankedCount }
    ether := { stateReset.ether with joinEntries := s.ether.joinEntries }
    channels := Table.modAll Channel.dflt [] (upTo 32) (fun _ _ => Channel.atStart s.now)
    drams := { DramShared.dflt with temps := s.drams.temps }
    boot := s.boot.atStart nonce
    elec := { s.elec with pllLocked := false } }

/-- The device stops serving: BOOTING, the link down, a confirmation timer ended (R29, R438). -/
def toBooting (s : State) : State :=
  let was := s.power.state
  let s := pcieLinkDrop s
  let s := modPower (fun p => { p with state := .booting }) s
  let s := modPcie (fun p => { p with notReady := true }) s
  let s := modBoot (fun b => { b with confirmAt := none }) s
  if was = .booting then s else record 0x0204 0 0 ((pstateStatus s).setWidth 64) s

/-- Root-derived logic is held in reset without lock, so that nothing outside the island acts (R29). -/
def holdReset (phase : BootPhase) (s : State) : State := modBoot (fun b => { b with phase := phase }) (fundamentalReset s)

/-- Every root-derived clock is gated until the PLL locks again; a fundamental reset follows (R29, R460). -/
def gateClocks (s : State) : State := holdReset (if s.boot.phase = .held then .held else .gated) (toBooting s)

/-- The root PLL has lost lock (R29). -/
def lockLost (s : State) : State := if s.elec.pllLocked then gateClocks (record 0x0201 0 0 0 s) else s

/-- The device restarts itself as at PERST_N release; SVC_UPDATE_STATUS survives (R426, R438). -/
def restart (s : State) : State :=
  let u := s.boot.updStatus
  modBoot (fun b => { b with updStatus := u }) (fundamentalReset (toBooting s))

/-! ### The boot ROM (R424–R426) -/

/-- A slot is loaded and its firmware starts. -/
def runSlot (k : Nat) (degraded : Bool) (s : State) : State :=
  modBoot (fun b => { b with active := k, degraded := degraded, phase := .loaded }) s

/-- Recovery: four blocks are served, and the ROM trains the link (R426). -/
def enterRecovery (s : State) : State :=
  let s := modPcie (fun p => { p with notReady := false }) (modPower (fun p => { p with state := .recovery }) s)
  updEvent 0x0B s.boot.active 0xFF 0 0 (modBoot (fun b => { b with recNext := 0 }) s)

/-- The OLD slot takes over where it passes (Table 17.3). -/
def runOld (s : State) : State :=
  match slotIn s.boot .old with
  | some k => if slotOk s.boot (s.boot.slot k).data then runSlot k true (slotTo k .confirmed s) else enterRecovery s
  | none => enterRecovery s

/-- A slot fails at start: FAILED, and recorded (R425). -/
def slotFails (k : Nat) (s : State) : State := updEvent 8 k 0xFF 0 0 (slotTo k .failed s)

/-- The ROM runs the CONFIRMED slot. -/
def runConfirmed (s : State) : State :=
  match slotIn s.boot .confirmed with
  | some k => if slotOk s.boot (s.boot.slot k).data then runSlot k false s else runOld (slotFails k s)
  | none => runOld s

/-- A TRIAL slot that has had three starts fails (Table 17.9). -/
def endTrials (s : State) : State :=
  forEach [0, 1] (fun k s => if (s.boot.slot k).state = .trial ∧ 3 ≤ (s.boot.slot k).attempts then slotFails k s else s) s

/-- The slot that the ROM would try: PENDING or TRIAL with attempts left, the line and PFAIL_N deasserted (R424). -/
def trialSlot (s : State) : Option Nat :=
  if s.elec.inhibit || s.recorder.pfail then none
  else [0, 1].find? (fun k => decide (((s.boot.slot k).state = .pending ∨ (s.boot.slot k).state = .trial) ∧ (s.boot.slot k).attempts < 3))

/-- Steps 1 to 4 of R424. -/
def chooseSlot (s : State) : State :=
  let s := endTrials s
  match trialSlot s with
  | some k =>
    let s := modFwSlot k (fun x => { x with state := .trial, attempts := x.attempts + 1 }) s
    let s := updEvent 5 k 0xFF 0 0 s
    if slotOk s.boot (s.boot.slot k).data then runSlot k false s else runConfirmed (slotFails k s)
  | none => runConfirmed s

/-- The root PLL locks: logic leaves reset, and the ROM runs (R29, R424, R460). -/
def pllLocks (s : State) : State :=
  if powered s && s.elec.sysclk && !s.elec.perst && !s.elec.tripWait && decide (s.boot.phase = .relock ∨ s.boot.phase = .gated) then
    let s := if s.boot.phase = .gated then fundamentalReset s else s
    chooseSlot (modElec (fun e => { e with pllLocked := true }) s)
  else s

/-! ### Cold and power-on (R415, R420, R449, R450) -/

/-- What a flush had programmed when the supplies fell: a free number of its records, the next perhaps torn (R421,
assumption log 57). -/
def cutFlush (n : Nat) (torn : Bool) (r : Recorder) : Table (Option EvRec) :=
  match r.flushing with
  | none => r.flash
  | some upto =>
    let total := seqDist (flushEnd r upto) r.seqFlushed
    let m := n % (total + 1)
    let place := fun (i : Nat) (cut : Bool) (f : Table (Option EvRec)) =>
      let q := (r.seqFlushed + BitVec.ofNat 32 i).toNat
      let e : Option EvRec := Table.get none r.ring (q % ringSlots)
      Table.set none f (q % flashPlaces) (if cut then e.map (fun x => { x with seqEnd := 0xFFFFFFFF }) else e)
    let f := (upTo m).foldl (fun f i => place i false f) r.flash
    if torn ∧ m < total then place m true f else f

/-- The recorder in Cold: the flash log and the checkpoint copies. A sector under erase is erased again. -/
def Recorder.cold (n : Nat) (torn : Bool) (r : Recorder) : Recorder :=
  { stateReset.recorder with
    flash := cutFlush n torn r, copies := r.copies, powerCycles := 0, ckptDue := false
    eraseAgain := match r.erasing with
      | some k => k :: r.eraseAgain
      | none => r.eraseAgain }

/-- The supplies fall: flash and fuses remain. A burn that has started completes (R433, R450). -/
def goCold (s : State) : State :=
  let s := match s.boot.order with
    | some o => applyOrder o 1 s
    | none => s
  let (n, s) := draw 32 s
  let (torn, s) := draw 1 s
  let b := s.boot
  { stateReset with
    pending := s.pending, now := s.now, fresh := s.fresh, out := s.out
    recorder := s.recorder.cold n.toNat (decide (torn = 1))
    power := { Power.reset with state := .cold }
    boot := { b.atStart 0 with phase := .held, orderStatus := 0, order := none } }

/-- The newest whole record of the flash log. -/
def newestRec (r : Recorder) : Option EvRec :=
  r.flash.foldl (fun a p => match a, p.2 with
    | none, some e => if e.seq = e.seqEnd then some e else none
    | some x, some e => if e.seq = e.seqEnd ∧ seqDist e.seq x.seq ≠ 0 ∧ seqDist e.seq x.seq < 2 ^ 31 then some e else some x
    | a, none => a) none

/-- The valid checkpoint copy with the higher CHECKPOINTS (R420). -/
def bestCopy (r : Recorder) : Option SootCopy :=
  match Table.get none r.copies 0, Table.get none r.copies 1 with
  | some a, some b => some (if b.soot.checkpoints.toNat ≤ a.soot.checkpoints.toNat then a else b)
  | some a, none => some a
  | none, b => b

/-- The recorder restores its counts and starts a checkpoint (R415, R420). -/
def Recorder.powerOn (now : Nat) (r : Recorder) : Recorder :=
  let e := newestRec r
  let c := bestCopy r
  let seq := (e.map (fun x => x.seq + 1)).getD 0
  let hours := max ((c.map (fun x => x.opSeconds.toNat)).getD 0) ((e.map (fun x => x.opSeconds.toNat)).getD 0)
  let cycles := max ((c.map (fun x => x.powerCycles.toNat)).getD 0) ((e.map (fun x => x.powerCycles.toNat)).getD 0)
  serveFlash now { r with
    seqNext := seq, seqFlushed := seq, opSeconds := BitVec.ofNat 32 hours, powerCycles := satAdd (BitVec.ofNat 32 cycles) 1
    soot := (c.map (fun x => x.soot)).getD {}
    ckptDue := true }

/-- Power-on reset: the whole device, with the strap sampled and the class of the fuses in force (R449, R462). -/
def powerOn (gpio : Byte) (s : State) : State :=
  let (nonce, s) := draw 128 s
  let c := s.boot.fuses.cls
  { s with
    power := Power.reset
    recorder := s.recorder.powerOn s.now
    boot := { s.boot with nonce := nonce, phase := .held }
    elec := { stateReset.elec with strap := gpio.setWidth 3, gpioPins := gpio, caps := classCaps c, budget := classBudget c } }

/-! ### Function level reset (R376, R377) -/

/-- A job is torn down without posting; one in PUBLISHING publishes first (R118, R338). -/
def flrJob (j : Nat) (s : State) : State :=
  let s := match (s.job j).bind (·.adapt) with
    | some a => if a.state = .publishing then publishHeld a.model a.newVersion s else s
    | none => s
  let s := jobFault j 0x0103 0 true s
  let s := modJob j (fun b => { b with cause := b.cause.map (fun c => (c.1, c.2.1, true)) }) s
  match s.job j with
  | some b => teardownPost j b (teardownClear j b s)
  | none => s

/-- Every vat is formed again from the applied image and RUNNING; its cave survives (R376 step 5). -/
def reformVat (r : Region) (s : State) : State :=
  let s := forEach r.hearths (fun h s => if (s.hearth h).state = .active then resetHearth h s else s) s
  let s := formRegion r true (forEach r.flues unbindFlue (flushFlues r.region s))
  modVat r.region (fun x => { x with state := .running }) s

/-- BAR0 blocks whose registers an FLR resets: HQ_, PEP_, and from SNS_ to SCH_ (R376 step 6), and GLB_SCRATCH, which
every reset sets (R13). -/
def flrReg (o : Nat) : Bool := decide (o = 8 ∨ (0x40000 ≤ o ∧ o < 0x60000) ∨ (0x70000 ≤ o ∧ o < 0xE0000))

/-- The streams' side at reset; the buffers keep their GEN and the receivers their lanes. -/
def Media.atFlr (m : Media) : Media :=
  { Media.reset with
    pools := Table.remap Pool.dflt (fun _ p => { Pool.dflt with buffers := Table.remap Buffer.dflt (fun _ b => { Buffer.dflt with gen := b.gen }) p.buffers }) m.pools
    receivers := Table.remap Receiver.dflt (fun _ x => { x with eccCorr := 0, discard := 0, crc := 0 }) m.receivers }

/-- The endpoint's registers at reset; the link and the PEP_ counters keep their values, and so does Max Payload Size
(PRESUMED, the PCIe specification's rule for an FLR). -/
def Pcie.atFlr (p : Pcie) : Pcie :=
  { Pcie.reset with
    dlActive := p.dlActive, speed := p.speed, width := p.width, pm := p.pm, cplTimeout := p.cplTimeout, lateCpl := p.lateCpl
    unexpCpl := p.unexpCpl, poisonRx := p.poisonRx, poisonTx := p.poisonTx, winMiss := p.winMiss, mps := p.mps, subsystem := p.subsystem }

/-- Steps 5 and 6 of R376, and the end of the wait of step 4. -/
def flrFinish (s : State) : State :=
  let s := { s with vats := Table.remap Vat.dflt (fun _ x => { Vat.dflt with state := x.state, cave := x.cave, trackers := x.trackers }) s.vats }
  let s := forEach s.image.regions reformVat s
  rebindGroups { s with
    cfg := Table.drop flrReg s.cfg
    readHold := Table.drop flrReg s.readHold
    writeHold := Table.drop flrReg s.writeHold
    media := s.media.atFlr
    pcie := s.pcie.atFlr
    qps := [], store := [], raised := [], dones := [], jobs := [], cmds := [], sems := [], killStatus := 0 }

/-- Steps 1 to 4 of R376; what a reload in QUIESCING or APPLYING holds up follows its end. -/
def flrRun (s : State) : State :=
  let s := { s with qps := [], store := [], raised := [] }
  let s := forEach ((liveJobs s).map (·.1)) flrJob s
  let s := forEach (upTo 256) (fun i s => if (s.ses i).state ≠ .closed then rtpStop i s else s) s
  let s := { s with store := [], raised := [] }
  match s.reload.state with
  | .idle => flrFinish s
  | .verifying => flrFinish (leaveHolding s.reload.region (modReload (fun r => { r with state := .idle, result := 6, detail := 0 }) s))
  | .waitingIdle => flrFinish (leaveHolding s.reload.region (modReload (fun r => { r with state := .idle, result := 6, detail := 0 }) s))
  | .quiescing => modPcie (fun p => { p with flrBusy := true }) s
  | .applying => modPcie (fun p => { p with flrBusy := true }) s

/-- The FLR that woke the device from Banked runs once it is Lit (Table 1.5). -/
def flrAfterWake (s : State) : State :=
  if s.power.flrAfterWake then flrRun (modPower (fun p => { p with flrAfterWake := false }) s) else s

/-- An FLR by the host (R376, R377): one that finds the device busy with a boot or an FLR is answered with Retry Status
and does nothing. -/
def flr (s : State) : State :=
  if s.pcie.notReady then s else
  let s := modSoot (fun t => { t with flrCount := satAdd t.flrCount 1 }) s
  let s := modPcie (fun p => { p with notReady := true }) s
  let later := modPower (fun p => { p with flrAfterWake := true })
  match s.power.state with
  | .banked => wake 4 (later s)
  | .enteringBanked => later s
  | .exitingBanked => later s
  | .lit => flrRun s
  | .recovery => flrRun s
  | .booting => s
  | .cold => s

end Sys2Proof.Machine
end

