-- ==== Sys2Proof/Machine/Reset.lean ====
section
/-! DEFINITION. Resets, lock, power states, warning lines and the function level reset as they arrive (R29, R33–R38,
R376, R377, R449–R454). -/

namespace Sys2Proof.Machine
open Sys2Proof

/-- POWER_ON_RESET: the supplies rise from Cold (R415, R420, R449, R462). -/
def execPowerOnReset (gpio : Byte) (s : State) : Res :=
  .next (if s.power.state = .cold then powerOn gpio s else s)

/-- PERST_N_ASSERT: the link is down, the pins are inputs and root-derived logic is held in reset; the recorder runs on and
flushes (R29, R453, R454). -/
def execPerstNAssert (s : State) : Res :=
  .next (if powered s = false ∨ s.elec.perst = true then s else
    holdReset .held (modElec (fun e => { e with perst := true }) (toBooting s)))

/-- PERST_N_RELEASE: the fundamental reset, and BOOTING from the PLL's lock on (R29, R36). -/
def execPerstNRelease (s : State) : Res :=
  .next (if powered s = false ∨ s.elec.perst = false then s
    else fundamentalReset (modElec (fun e => { e with perst := false }) s))

/-- PLL_LOCK -/
def execPllLock (s : State) : Res := .next (pllLocks s)
/-- PLL_LOCK_LOST -/
def execPllLockLost (s : State) : Res := .next (lockLost s)
/-- SYSCLK_LOSS: the PLL loses lock; the island runs from its own oscillator (R451, R452). -/
def execSysclkLoss (s : State) : Res := .next (modElec (fun e => { e with sysclk := false }) (lockLost s))
/-- SYSCLK_RETURN -/
def execSysclkReturn (s : State) : Res := .next (modElec (fun e => { e with sysclk := true }) s)

/-- SUPPLY_LOSS: Cold (Table 1.5, R450). -/
def execSupplyLoss (s : State) : Res := .next (if powered s then goCold s else s)

/-! ### Power states (Table 1.5) -/

/-- BANKED_REQUEST: a write of REQ = Banked. -/
def execBankedRequest (s : State) : Res := .next (guard pstateCtrlOff (writePstate 1) s)
/-- LIT_REQUEST: a write of REQ = Lit. -/
def execLitRequest (s : State) : Res := .next (guard pstateCtrlOff (writePstate 2) s)

/-- Some channel trains or retrains. -/
def channelsBusy (s : State) : Bool :=
  (upTo 32).any (fun c => decide ((s.chan c).state = .training ∨ (s.chan c).state = .retraining ∨ (s.chan c).state = .fullRetrain))

/-- A bank's Banked entry (Table 5.3). -/
def bankedBank (b : Bank) : Bank :=
  if b.state = .failed then b
  else if b.cls = .working then { Bank.dflt with cls := .working, lastA := b.lastA }
  else if b.state = .ready ∧ b.cls = .resident then { b with state := .retained } else b

/-- A hearth's Banked entry: its working banks lose their contents; a scrub of a resident one goes on after the wake. -/
def bankedHearth (x : Hearth) : Hearth :=
  let off := (upTo 32).filter (fun b => decide ((x.bank b).cls = .working ∧ (x.bank b).state ≠ .failed))
  let x := off.foldl (fun x b => clearBank b x) x
  { x with
    scrubLeft := x.scrubLeft.filter (fun b => decide ((x.bank b).cls = .resident)), banks := Table.remap Bank.dflt (fun _ => bankedBank) x.banks }

/-- Working banks are off, DRAM refreshes itself, ports are down and no curd is left (Tables 1.4, 5.3, 8.5). -/
def bankedEntry (s : State) : State :=
  let s := forEach (upTo 16) (fun b s => if (s.bkt b).state = .disabled then s else bucketClose b 0x0606 s) s
  let s := { s with hearths := Table.remap Hearth.dflt (fun _ => bankedHearth) s.hearths }
  let s := forEach (upTo 8) (fun l s => if (s.link l).up then linkTo l false 0 false s else s) s
  let s := modMedia (fun m => { m with receivers := Table.remap Receiver.dflt (fun _ x => { x with stop := 0, ulps := 0, hs := false }) m.receivers }) s
  let s := { s with channels := Table.modAll Channel.dflt s.channels (upTo 32) (fun _ k => if k.state = .online then { k with state := .selfRefresh } else k) }
  let s := modPcie (fun p => { p with pm := if p.dlActive then 2 else p.pm }) s
  changePower .banked (modPower (fun p => { p with bankedCount := satAdd p.bankedCount 1 }) s)

/-- BANKED_ENTRY_COMPLETE: a latched Lit request, or an FLR that came meanwhile, wakes the device again (R35). -/
def execBankedEntryComplete (s : State) : Res :=
  .next (if s.power.state ≠ .enteringBanked ∨ channelsBusy s = true then s else
    let s := actOnPending 1 (bankedEntry s)
    if s.power.state = .banked ∧ s.power.flrAfterWake = true then wake 4 s else s)

/-- Some working bank still wakes or is scrubbed. -/
def banksBusy (s : State) : Bool :=
  s.hearths.any (fun h => h.2.banks.any (fun b => decide (b.2.cls = .working ∧ (b.2.state = .waking ∨ b.2.state = .scrubbing))))

/-- BANKED_EXIT_COMPLETE: the image is applied again unchecked, faults found while Banked are contained (R408), and a
latched request or the FLR that woke the device follows (Table 1.5, R35). -/
def execBankedExitComplete (s : State) : Res :=
  .next (if s.power.state ≠ .exitingBanked ∨ channelsBusy s = true ∨ banksBusy s = true then s else
    let s := forEach s.image.regions (formRegion · false) s
    let faults := s.power.deferredFaults
    let s := modPower (fun p => { p with deferredFaults := [] }) s
    let s := forEach faults (fun f s => containHearth f.1 f.2 s) s
    flrAfterWake (actOnPending 2 (acceptAll (changePower .lit s))))

/-- GPIO_WAKE: a pin falls and stays low for 1 µs; an enabled input wakes the device from Banked (Table 1.9, R462). -/
def execGpioWake (pin : Fin 8) (s : State) : Res :=
  .next (if powered s = false then s else
    let input := !bit (cfgGet s (cpmBase + 0x200)) pin
    let s := modElec (fun e => { e with gpioPins := setBits e.gpioPins pin pin 0 }) s
    if s.power.state = .banked ∧ bit (cfgGet s (cpmBase + 0x108)) pin = true ∧ input = true then wake 2 s else s)

/-! ### Warning lines (R416, R453, R454) -/

/-- PFAIL_ASSERT: recorded and flushed; an update aborts (Table 17.8). -/
def execPfailAssert (s : State) : Res :=
  .next (if powered s = false ∨ s.recorder.pfail = true then s else
    let s := modRec (fun r => { r with pfail := true }) s
    let s := record 0x0202 0 0 0 s
    let s := modRec (pfailFlash s.now) (modSoot (fun t => { t with pfailCount := satAdd t.pfailCount 1 }) s)
    updFail 0x0902 s)

/-- PFAIL_DEASSERT_CONFIRMED: the line has been deasserted for 10 ms. -/
def execPfailDeassertConfirmed (s : State) : Res :=
  .next (if powered s = false ∨ s.recorder.pfail = false then s else
    let s := record 0x0203 0 0 0 (modRec (fun r => { r with pfail := false }) s)
    modRec (serveFlash s.now) s)

/-- UPDATE_INHIBIT_ASSERT: an update aborts (Table 17.8). -/
def execUpdateInhibitAssert (s : State) : Res :=
  .next (if powered s then updFail 0x0901 (modElec (fun e => { e with inhibit := true }) s) else s)

/-- UPDATE_INHIBIT_DEASSERT -/
def execUpdateInhibitDeassert (s : State) : Res :=
  .next (if powered s then modElec (fun e => { e with inhibit := false }) s else s)

/-! ### Function level reset -/

/-- FLR -/
def execFlr (s : State) : Res := rooted s (flr s)

/-- FLR_READY: the device answers again (R377). -/
def execFlrReady (s : State) : Res :=
  rooted s (if s.pcie.notReady = true ∧ s.pcie.flrBusy = false ∧ s.power.flrAfterWake = false ∧ s.power.state ≠ .booting ∧ s.power.state ≠ .cold
    then modPcie (fun p => { p with notReady := false }) s else s)

/-- RELOAD_APPLY_COMPLETE (R209, R212), once the region's banks are awake and scrubbed: the applied image changes; an FLR that waited for it goes on (R376). -/
def execReloadApplyComplete (s : State) : Res :=
  rooted s (if s.reload.state ≠ .applying ∨ regionSettled s s.reload.staged s.reload.region = false then s else
    let s := reloadApplied s
    if s.pcie.flrBusy then flrFinish s else s)

end Sys2Proof.Machine
end

