-- ==== Sys2Proof/Machine/Boot.lean ====
section
/-! DEFINITION. Starting, the draw check, confirmation, recovery, attestation, orders and settings (R422–R433,
R436–R440). -/

namespace Sys2Proof.Machine
open Sys2Proof

/-! ### Starting (R424, R425) -/

/-- Kept SVC_ registers (Table 17.13). -/
def keptSvc : List Nat :=
  ([0x20, 0x24] ++ (upTo 4).map (fun i => 0x40 + 4 * i) ++ (upTo 4).map (fun i => 0x50 + 4 * i) ++ [0x60]).map (svcBase + ·)

def svcMacOff : Nat := svcBase + 0x30
def linkMacOff (l : Nat) : Nat := ethBase + 0x208 + 0x40 * l

/-- A MAC address register takes its reset value: both halves, and the high half that an unprimed read returns (R11). -/
def loadMac (off : Nat) (v : DWord) (s : State) : State :=
  let s := cfgSet64 off (v &&& 0xFFFFFFFFFFFF) s
  { s with readHold := Table.set 0 s.readHold off (cfgGet s (off + 4)) }

/-- What the firmware takes from flash: the kept registers, the MAC addresses, the subsystem IDs, the settings format. -/
def loadSettings (s : State) : State :=
  let b := s.boot
  let s := forEach keptSvc (fun o s => cfgSet o (Table.get 0 b.settings o) s) s
  let s := loadMac svcMacOff (Table.get 0 b.identity.macs 8) s
  let s := forEach (upTo 8) (fun l s => loadMac (linkMacOff l) (Table.get 0 b.identity.macs l) s) s
  let s := modPcie (fun p => { p with subsystem := b.identity.subsystem, notReady := false }) s
  modBoot (fun b => { b with phase := .started, formats := dedup (b.formats ++ [pkgFormat (b.slot b.active).data]) }) s

/-- The package's structure image is checked and applied (R203, R204, Table 17.3). -/
def loadImage (s : State) : State :=
  let bs := pkgImage (s.boot.slot s.boot.active).data
  let d := imageCheck s.boot [] bs none
  if d = 0 then applyImage (parseImage bs) s
  else record 0x0701 0 0 (BitVec.ofNat 64 d) (modBoot (fun b => { b with imageBad := true }) s)

/-- A start model is loaded and current, or is left out for its signature. -/
def loadModel (m : Half) (ver : Word) (p : Package) (ok : Bool) (s : State) : State :=
  if ok then publishHeld m ver (loadPackage m ver p s)
  else recordOther 0 m.toNat (ver.setWidth 64) (modBoot (fun b => { b with modelBad := true }) s)

/-- An advance of the anti-rollback counter that was cut short goes on (R439). -/
def resumeAdvance (s : State) : State :=
  match slotIn s.boot .confirmed with
  | some k => rollbackAdvance (slotRollback (s.boot.slot k)) s
  | none => s

/-- FIRMWARE_START: `faulted` are the hearths that fail their tests, `models` the start models with what their signature
check gives. -/
def execFirmwareStart (faulted : Word) (models : List (Half × Word × Package × Bool)) (s : State) : Res :=
  rooted s (if s.boot.phase ≠ .loaded ∨ s.power.state ≠ .booting then s else
    let s := loadSettings s
    let s := forEach ((upTo 32).filter (fun h => bit faulted h)) (fun h s => modHearth h (fun x => { x with state := .faulted }) s) s
    let s := loadImage s
    let s := forEach models (fun m s => loadModel m.1 m.2.1 m.2.2.1 m.2.2.2 s) s
    resumeAdvance s)

/-- Every channel is ONLINE or FAILED. -/
def channelsUp (s : State) : Bool := (upTo 32).all (fun c => decide ((s.chan c).state = .online ∨ (s.chan c).state = .failed))
def failedChannels (s : State) : Nat := ((upTo 32).filter (fun c => decide ((s.chan c).state = .failed))).length
def faultedHearths (s : State) : Nat := ((upTo 32).filter (fun h => decide ((s.hearth h).state = .faulted))).length

/-- The firmware runs and the device is not yet Lit. -/
def starting (s : State) : Bool := decide (s.boot.phase = .started ∧ s.power.state = .booting)

/-- BOOT_COMPLETE: Lit, BAR0 served in full (R424, Table 17.4); a TRIAL start first passes its draw check. -/
def execBootComplete (s : State) : Res :=
  rooted s (if starting s = false ∨ channelsUp s = false ∨ (onTrial s = true ∧ s.boot.drawOk = false) then s else
    let f := failedChannels s
    let h := faultedHearths s
    let keep := !onTrial s
    changePower .lit (modBoot (fun b => { b with
      startFailed := f, startFaulted := h
      lastFailed := if keep then f else b.lastFailed
      lastFaulted := if keep then h else b.lastFaulted }) s))

/-! ### The draw check and fallback (R437, R438) -/

/-- DETAIL of the first item of Table 17.10 that does not hold; 0 when all do. -/
def drawDetail (s : State) (codecOk : Bool) : Nat :=
  if s.boot.lastFailed < failedChannels s then 0x11
  else if s.boot.lastFaulted < faultedHearths s then 0x12
  else if !codecOk then 0x13
  else if s.boot.imageBad then 0x14
  else if s.boot.modelBad then 0x15 else 0

/-- The TRIAL slot fails and the device restarts from the CONFIRMED one (R438). -/
def fallback (detail : Nat) (s : State) : State :=
  let k := s.boot.active
  let s := updEvent 8 k 0xFF detail 0x0907 (slotTo k .failed s)
  restart (setUpdStatus 0x0907 detail (bits s.boot.updStatus 1 0) s)

/-- DRAW_CHECK_COMPLETE: `codecOk` says that the codec's and scalers' checksums agree. A pass starts the 60 s timer. -/
def execDrawCheckComplete (codecOk : Bool) (s : State) : Res :=
  rooted s (if starting s = false ∨ onTrial s = false ∨ s.boot.drawOk = true ∨ channelsUp s = false then s else
    let d := drawDetail s codecOk
    if d = 0 then updEvent 6 s.boot.active 0xFF 0 0 (modBoot (fun b => { b with drawOk := true, confirmAt := some s.now }) s)
    else fallback d s)

def svcConfirmOff : Nat := svcBase + 0x10
/-- CONFIRM (R438, R439) -/
def execConfirm (s : State) : Res := .next (guard svcConfirmOff confirm s)

/-- CONFIRM_TIMEOUT: 60 s without a confirmation. -/
def execConfirmTimeout (s : State) : Res := rooted s (if confirming s then fallback 0x10 s else s)

/-! ### Recovery (R426) -/

def recCtrlOff : Nat := svcBase + 0x130

/-- WRITE = 1: the window's 64 KiB go to slot A at OFFSET; a piece out of order is discarded and recorded. -/
def recoveryWrite (offset : Nat) (s : State) : State :=
  if s.power.state = .recovery ∧ offset = s.boot.recNext ∧ offset < 896 then
    let piece := (upTo 65536).map (fun i => Table.get 0 s.boot.recWindow i)
    modBoot (fun b => { b with
      slotA := { state := .writing, attempts := 0, data := (if offset = 0 then [] else b.slotA.data) ++ piece }
      recNext := offset + 1 }) s
  else recordWrite recCtrlOff (pack 32 [(31, 1), (0, offset)]) s

/-- END = 1: the package in slot A is checked (R424). -/
def recoveryEnd (s : State) : State :=
  if s.power.state ≠ .recovery then recordWrite recCtrlOff 0x40000000 s else
  let d := s.boot.slotA.data.take (pkgBytes s.boot.slotA.data)
  if slotOk s.boot d then
    restart (updEvent 4 0 0xFF 0 0 (modBoot (fun b => { b with slotA := { state := .pending, attempts := 0, data := d } }) s))
  else
    let s := modBoot (fun b => { b with slotA := Slot.dflt, recNext := 0 }) s
    updEvent 2 0 0xFF 0 0x0904 (setUpdStatus 0x0904 0 2 s)

/-- A write of SVC_RECOVERY_CTRL: OFFSET is stored, then WRITE and END act. -/
def writeRecCtrl (v : Word) (s : State) : State :=
  let s := cfgSet recCtrlOff (v &&& 0x3FF#32) s
  let s := if bit v 31 then recoveryWrite (bits v 9 0) s else s
  if bit v 30 then recoveryEnd s else s

/-- RECOVERY_WRITE -/
def execRecoveryWrite (offset : Fin 1024) (s : State) : Res :=
  .next (guard recCtrlOff (writeRecCtrl (pack 32 [(31, 1), (0, offset.val)])) s)
/-- RECOVERY_END; OFFSET is written with it. -/
def execRecoveryEnd (offset : Fin 1024) (s : State) : Res :=
  .next (guard recCtrlOff (writeRecCtrl (pack 32 [(30, 1), (0, offset.val)])) s)

/-! ### Attestation (R430) -/

def attestCtrlOff : Nat := svcBase + 0x120

/-- GO: the report is built; a GO while BUSY is discarded and recorded. -/
def attestGo (s : State) : State :=
  if s.boot.attestBusy then recordWrite attestCtrlOff 1 s
  else modBoot (fun b => { b with attestBusy := true, attestReady := false, attest := attestReport s ++ b.attest.drop 256 }) s

/-- ATTEST_GO -/
def execAttestGo (s : State) : Res := .next (guard attestCtrlOff attestGo s)

/-- ATTEST_READY: bytes 256–639 are the signature of bytes 0–255. -/
def execAttestReady (s : State) : Res :=
  rooted s (if s.boot.attestBusy then
    modBoot (fun b => { b with
      attestBusy := false, attestReady := true
      attest := b.attest.take 256 ++ fitBytes 384 (Config.attestSign (b.attest.take 256)) }) s
  else s)

/-! ### Orders (R432, R433) -/

def orderCtrlOff : Nat := lcsBase + 0x50

/-- SUBMIT: the order in the window is checked and refused, applied, or put under burn; a new nonce is drawn. -/
def orderSubmit (s : State) : State :=
  if s.boot.order.isSome then recordWrite orderCtrlOff 1 s else
  let o := orderBytes s
  let st := orderStatusOf s o
  let set := orderSetting o
  let (nonce, s) := draw 128 s
  let s := modBoot (fun b => { b with nonce := nonce }) s
  if st ≠ 0 then
    let s := modBoot (fun b => { b with orderStatus := orderWord st set false false }) s
    updEvent 0x0A s.boot.active 0xFF 0 st (postStatus { status := st } s)
  else if orderPresent s.boot.fuses o then applyOrder o 0 s
  else modBoot (fun b => { b with order := some o, orderStatus := orderWord 0 set false true }) s

/-- ORDER_SUBMIT -/
def execOrderSubmit (s : State) : Res := .next (guard orderCtrlOff orderSubmit s)

/-- FUSE_BURN_COMPLETE: the order takes effect. -/
def execFuseBurnComplete (s : State) : Res :=
  .next (match s.boot.order with
    | some o => applyOrder o 1 s
    | none => s)

/-! ### Settings (R440) -/

def svcSaveOff : Nat := svcBase + 0x28

/-- The kept registers go to the settings records. -/
def saveSettings (s : State) : State :=
  modBoot (fun b => { b with settings := keptSvc.foldl (fun t o => Table.set 0 t o (cfgGet s o)) b.settings }) s

/-- SETTINGS_SAVE -/
def execSettingsSave (s : State) : Res := .next (guard svcSaveOff saveSettings s)

end Sys2Proof.Machine
end

