-- ==== Sys2Proof/Machine/OpsTile.lean ====
section
/-! DEFINITION. What an array does for a layer command: weight sets through the reserve, passes into accumulator entries,
drains to Y or to the home hearth (R178–R187). -/

namespace Sys2Proof.Machine
open Sys2Proof

/-! ### Weight sets (R187) -/

/-- The weights at `a` lie whole in resident banks of hearth `h` itself, so that its feeder reads them there (R187). -/
def ownResident (s : State) (h : Nat) (c : Cmd) (a len : Nat) : Bool :=
  decide (farSpace a = 2) && (match boundVersion s c.job.toNat c.model with
    | none => false
    | some v =>
      let ps := cavePieces s (jobVat s c.job.toNat) v c.resident
      (pieceRuns (2 * ps.length + 1) ps (farOffset a) len).all (fun r => match r.2.2 with
        | some p => decide (p.hearth = h)
        | none => false))

/-- Where hearth `h` holds the prefetched weights of address `a`. -/
def prefetched (s : State) (h : Nat) (c : Cmd) (a len : Nat) : Option Nat :=
  (c.prefetch.find? (fun p => decide (p.1 = h ∧ p.2.1 = a) &&
    (s.hearth h).reserve.any (fun r => decide (r.job = c.job.toNat ∧ r.seq = c.seq ∧ r.addr = p.2.2 ∧ r.len = len)))).map (·.2.2)

/-- The buffer of a prefetched set is free once the set is in the cells. -/
def dropPrefetched (h : Nat) (c : Cmd) (a : Nat) (s : State) : State :=
  match (c.prefetch.find? (fun p => decide (p.1 = h ∧ p.2.1 = a))).map (·.2.2) with
  | none => s
  | some addr =>
    modCmd c.job.toNat c.seq (fun c => { c with prefetch := c.prefetch.filter (fun p => decide ¬(p.1 = h ∧ p.2.1 = a)) })
      (modHearth h (fun x => { x with
        reserve := x.reserve.filter (fun r => decide ¬(r.job = c.job.toNat ∧ r.seq = c.seq ∧ r.addr = addr)) }) s)

/-- How array `b` of hearth `h` comes to read the set of `len` bytes at `a`: own resident banks, a prefetched copy, or a copy
that the fetch engine makes now. The feeder is master 2 + b (Table 5.5). -/
def setReader (h b : Nat) (c : Cmd) (a len : Nat) (t : Touch) (s : State) : (Nat → Nat → State → Marked × State) × State :=
  let j := c.job.toNat
  let own := fun (p : Nat) (o n : Nat) (s : State) => localRead h (2 + b) (p + o) n (.job (some j)) (touchAt t h) s
  if ownResident s h c a len then (fun o n s => farRead h (2 + b) c (a + o) n t s, s)
  else match prefetched s h c a len with
    | some p => (own p, s)
    | none =>
      let (d, s) := farRead h 8 c a len t s
      match reserveAt s h j len with
      | some p => (own p, spmWrite h p (.job (some j)) d s)
      | none => (fun o n s => ((d.drop o).take n, s), s)

/-- Put weight set (nb, kb) of layer `l` into the cells of array `b`, unless the pass before has left it there (R68, R73,
R179). `stage` tells the sets of a FUSED command's stages apart. -/
def ensureSet (c : Cmd) (l : Layer) (stage h b nb kb : Nat) (t : Touch) (s : State) : State :=
  let i := l.setIndex nb kb
  let id := (c.job, c.seq, stage * 2 ^ 32 + i)
  if ((s.hearth h).arr b).lastSet = some id then s else
  let a := l.w + i * l.setBytes
  let (rd, s) := setReader h b c a l.setBytes t s
  let (w, s) := feedSet l.mode l.group (l.sliceLen kb) (l.columns nb) (bellLevel s c.job.toNat c.model l.grid) rd s
  dropPrefetched h c a (modArr h b (fun x => { x with active := w, tag := !x.tag, lastSet := some id }) s)

/-! ### Passes (R78, R182) -/

/-- X of a command, brought into the reserve by the fetch engine and read there by master `m`. -/
def commandX (c : Cmd) (l : Layer) (h m : Nat) (t : Touch) : XRead := fun p b n s =>
  let (d, s) := farRead h 8 c (l.x + p * l.xPitch + b) n t s
  viaReserve h c.job.toNat m d t s

/-- A pass of rows [row, row + n) of slice `kb` through the set in the cells, into the entries from `base`. -/
def tilePass (l : Layer) (h b : Nat) (xrd : XRead) (row n kb base : Nat) (acc : Bool) (s : State) : State :=
  let (fed, s) := (upTo n).foldl (fun (q : List (Nat × List Half × Bool) × State) i =>
    let (d, s) := gather xrd (sliceRuns l (row + i) kb) q.2
    let (v, p) := vectorOf l.mode (l.sliceLen kb) d
    (q.1 ++ [(i, v, p)], s)) ([], s)
  modArr h b (fun x => { x with
    acc := writeSums x.active acc base fed x.acc, passes := satAdd x.passes 1, fed := satAdd x.fed n }) s

/-! ### Drains -/

/-- Store finished bytes at a 64-bit address: DRAM by way of the reserve, from which the fetch engine stores (R178). -/
def storeFar (h : Nat) (c : Cmd) (a : Nat) (d : Marked) (t : Touch) (s : State) : State :=
  if farSpace a = 0 then
    let (d, s) := viaReserve h c.job.toNat 8 d t s
    farWrite h c.job.toNat a d s
  else farWrite h c.job.toNat a d s

/-- The hearth where a drain towards `a` lands: for DRAM the drain's own, whose reserve takes it. -/
def landingHearth (s : State) (h a : Nat) : Nat :=
  if farSpace a = 1 then
    match decodeAddr s h (farOffset a) with
    | .remote g _ => g
    | _ => h
  else h

/-- The firmware counter that array `b`'s tile drains bump, and that of split-K parts at the home (assumption log 23). -/
def tileCtr (b : Nat) : Nat := 48 + b
def combineCtr : Nat := 50

/-- A template with its CHAIN taken out, for FP32 sums as they are (R185). -/
def endOnly : List Byte := List.replicate 24 0 ++ [0x20] ++ List.replicate 15 0 ++ toBytes (0x3F800000 : Word) 4 ++ List.replicate 20 0

/-- Drain `n` rows from entry `base` with descriptor `d`; `out` takes row number within the run and its bytes. -/
def drainTile (c : Cmd) (l : Layer) (h b : Nat) (d : List Byte) (row n nb base mt : Nat) (t : Touch)
    (out : Nat → Marked → State → State) (s : State) : State :=
  forEach (upTo n) (fun i s =>
    let e := Table.get AccRow.dflt ((s.hearth h).arr b).acc ((base + i) % 1024)
    let (bs, p, s) := finishRow h (6 + b) c.job.toNat d (l.columns nb) (row + i) (nb * 128) ((row + i) % max mt 1) e t s
    out i bs (countRow h b p s)) s

/-- FP32 lanes of a row's bytes, with the row's poison. -/
def lanesOf (d : Marked) : AccRow :=
  { v := (upTo (d.length / 4)).map (fun n => BitVec.ofNat 32 (markedNat d (4 * n) 4).1), p := d.any (·.2) }

/-- A split-K part of rows from `row` on has landed at the home, where the cores add it to its tile's sum; with the last part
they apply the template's chain and conversion and the rows go to Y (R185). A part that a re-issue runs twice is added
once. -/
def landPart (c : Cmd) (home : Nat) (p : Plan) (row nb part : Nat) (es : List AccRow) (t : Touch) (s : State) : State :=
  let l := c.layer
  let key := row * 65536 + nb
  let old : Option (Nat × List AccRow) :=
    (((findCmd s c.job.toNat c.seq).map (·.landed)).getD []).find? (fun x => decide (x.1 = key)) |>.map (·.2)
  let mask : Nat := (old.map (·.1)).getD 0
  if mask / 2 ^ part % 2 = 1 then s else
  let rows := match old with
    | none => es
    | some (0, _) => es
    | some (_, rs) => rs.zipWith (writeEntry true) es
  let full := decide (mask + 2 ^ part + 1 = 2 ^ p.s)
  let s := modCmd c.job.toNat c.seq (fun c => { c with
    landed := c.landed.filter (fun x => decide (x.1 ≠ key)) ++ [(key, mask + 2 ^ part, if full then [] else rows)] }) s
  if !full then s else
  forEach rows.zipIdx (fun e s =>
    let r := row + e.2
    let (bs, _, s) := finishRow home 0 c.job.toNat c.desc (l.columns nb) r (nb * 128) (e.2 % max p.mt1 1) e.1 t s
    storeFar home c (l.y + yOffset l (outSize (outType c.desc)) r nb) bs t s) s

/-- Drain the sums of one block of a tile: to Y, or as a part to the home's reserve. The firmware's counter is bumped when the
last row has landed (R178, R185). -/
def drainBlock (c : Cmd) (h b : Nat) (p : Plan) (row n nb part base tag : Nat) (t : Touch) (s : State) : State :=
  let l := c.layer
  if p.s ≤ 1 then
    let y := fun r => l.y + yOffset l (outSize (outType c.desc)) r nb
    let s := drainTile c l h b c.desc row n nb base p.mt1 t (fun i bs s => storeFar h c (y (row + i)) bs t s) s
    ctrAdd (landingHearth s h (y (row + n - 1))) (tileCtr b) (BitVec.ofNat 32 n) (some h) tag s
  else
    let home := homeHearth s (jobVat s c.job.toNat)
    let (es, s) := (upTo n).foldl (fun (q : List AccRow × State) i =>
      let e := Table.get AccRow.dflt ((q.2.hearth h).arr b).acc ((base + i) % 1024)
      let (bs, po, s) := finishRow h (6 + b) c.job.toNat endOnly (l.columns nb) (row + i) 0 i e t q.2
      let (d, s) := viaReserve home c.job.toNat 0 bs t (countRow h b po s)
      (q.1 ++ [lanesOf d], s)) ([], s)
    landPart c home p row nb part es t (ctrAdd home combineCtr (BitVec.ofNat 32 n) (some h) tag s)

/-! ### A tile (R179–R182) -/

/-- The half of array `b`'s entries that the next tile of an AUTO plan takes; another command starts in the first. -/
def tileHalf (s : State) (h b : Nat) (c : Cmd) : Nat :=
  match ((s.hearth h).arr b).half with
  | none => 0
  | some (j, q, k) => if j = c.job ∧ q = c.seq then k else 0

/-- Run the passes of tile `t` in order on array `b` and drain each block behind its last slice, so that no pass writes over
sums that are still to be drained (R181). -/
def runTile (c : Cmd) (p : Plan) (t : Tile) (h b tag : Nat) (touch : Touch) (s : State) : State :=
  let l := c.layer
  let half := tileHalf s h b c
  let s := forEach (tilePasses p t) (fun x s =>
    let (mi, ni, ki) := x
    let row := t.row + mi * p.mt1
    let n := min p.mt1 (t.row + t.rows - row)
    let base := (if p.auto then half * 512 else 0) + blockEntry p mi ni
    let s := ensureSet c l 0 h b (t.block + ni) (t.slice + ki) touch s
    let s := tilePass l h b (commandX c l h (4 + b) touch) row n (t.slice + ki) base (decide (ki ≠ 0)) s
    if ki + 1 = t.slices then drainBlock c h b p row n (t.block + ni) t.part base tag touch s else s) s
  modArr h b (fun x => { x with half := some (c.job, c.seq, 1 - half) }) s

end Sys2Proof.Machine
end

