-- ==== Sys2Proof/Machine/OpsStart.lean ====
section
/-! DEFINITION. Starting a command: marks and queue order, the start checks of Table 6.6, ladles and plans
(R158, R164–R168, R179–R191, R473). -/

namespace Sys2Proof.Machine
open Sys2Proof

/-! ### Ready and in order (R158, R166, R167) -/

/-- Engine class of an opcode: 0 S, 1 F, 2 X, 3 C (Table 6.3). -/
def queueClass (op : Nat) : Nat :=
  if op ∈ [opLoad, opStore, opFill, opCurdTake] then 1
  else if op ∈ [opGemm, opConv, opPool, opFused, opArrayPass, opDrain] then 2
  else if op ∈ [opBindHoop, opSetCounter, opKernel, opEmit] then 3
  else 0

def Cmd.signals (c : Cmd) (m : Nat) : Bool := bit c.entry 95 && decide (c.field 10 2 % 16 = m)
def Cmd.waits (c : Cmd) (m : Nat) : Bool := bit c.entry (64 + m)
def Cmd.started (c : Cmd) : Bool := decide (c.state = .executing ∨ c.state = .finished)

/-- `d` comes before `c` in its job. -/
def earlier (b : Job) (d c : Cmd) : Bool := decide (seqDist d.seq b.beginSeq < seqDist c.seq b.beginSeq)
/-- The commands of the same job before `c`, not retired. -/
def before (s : State) (b : Job) (c : Cmd) : List Cmd := (jobCmds s c.job.toNat).filter (fun d => earlier b d c)

/-- R166: no earlier command is listed for a mark that `c` waits on. -/
def marksReady (ds : List Cmd) (c : Cmd) : Bool :=
  (upTo 16).all (fun m => !c.waits m || ds.all (fun d => !d.signals m))
/-- The two share a queue of a hearth, or the scheduler's. -/
def shareQueue (c d : Cmd) : Bool :=
  decide (queueClass c.op = queueClass d.op) &&
    (decide (queueClass c.op = 0) || c.queues.any (fun h => decide (h ∈ d.queues)))
/-- R158: every earlier command of its queues has started. -/
def queueReady (ds : List Cmd) (c : Cmd) : Bool := ds.all (fun d => d.started || !shareQueue c d)

/-- The command may start now. -/
def startable (s : State) (b : Job) (c : Cmd) : Bool :=
  let ds := before s b c
  decide (b.state = .running ∧ b.begun = true ∧ (c.state = .waiting ∨ c.state = .starting)) &&
  marksReady ds c && queueReady ds c &&
  (decide (c.op ≠ opJobEnd) || (ds.isEmpty && (b.adapt.map (fun a => decide (a.state = .done))).getD true))

/-! ### FUSED stages (Table 6.14, R188–R191) -/

/-- The stage records of a list. -/
def stageLayers (count : Nat) (bs : List Byte) : List Layer :=
  (upTo count).map (fun i =>
    let r := (bs.drop (64 * i)).take 64
    { op := fieldAt r 0 1, e := ofBytes 512 r })
def Layer.band (l : Layer) : Nat := l.f 2 2
/-- Rows of a stage in the unit of BAND: image rows, or M rows. -/
def Layer.bandRows (l : Layer) : Nat := if l.isGemm then l.m else l.batch * l.hout
/-- Output pixels in one of those rows. -/
def Layer.rowPixels (l : Layer) : Nat := if l.isGemm then 1 else l.wout
/-- OUT_TYPE of a stage: its template's, or a POOL's TYPE. -/
def stageOut (l : Layer) (d : List Byte) : Nat := if l.isPool then l.poolType else outType d
/-- The OUT_TYPE that gives a stage's input elements; none for FP8. -/
def stageIn (l : Layer) : Option Nat :=
  if l.isPool then some l.poolType
  else if intMode l.mode then some 0 else if l.mode = 2 then some 2 else none

/-- The stage's input is the output of the one before. -/
def stageFits (p : Layer) (pd : List Byte) (l : Layer) : Bool :=
  decide (stageIn l = some (stageOut p pd)) &&
  (if l.isGemm then decide (l.m = p.m ∧ l.k = p.n)
   else if p.isGemm then decide (l.batch * l.hin * l.win = p.m ∧ l.cin = p.n)
   else decide (l.batch = p.batch ∧ l.hin = p.hout ∧ l.win = p.wout ∧ l.cin = p.n))

/-- Rows of M in one slot of the hand-over out of stage `p`: BAND rows (R189). -/
def slotRows (p : Layer) : Nat := max p.band 1 * max p.rowPixels 1
/-- Bytes between the rows of M in a slot. -/
def slotPitch (p : Layer) (pd : List Byte) : Nat := pad16 (p.n * outSize (stageOut p pd))
/-- Rows of M of stage `p` that one band of the next stage `l` reads at most. -/
def bandNeed (p l : Layer) : Nat :=
  if l.isGemm then l.band else min (p.m) (((l.band - 1) * l.sh + l.dh * (l.kh - 1) + 1) * l.win)
/-- Slots of the hand-over from `p` to `l`: as many as one band of `l` can touch, so that no band waits for a slot of its own
(assumption log 24). A band of a GEMM may also run over the ends of images. -/
def handoverSlots (p l : Layer) : Nat :=
  let need := bandNeed p l
  cdiv need (slotRows p) + 1 + (if l.isGemm && !p.isGemm then cdiv need (max (p.hout * p.wout) 1) else 0)
def handoverBytes (p : Layer) (pd : List Byte) (l : Layer) : Nat := handoverSlots p l * slotRows p * slotPitch p pd
/-- Two level-0 units of a stage: a slice of activations and a weight set (assumption log 24). -/
def levelBytes (l : Layer) : Nat :=
  if l.isPool then 0 else 2 * (min l.m 512 * min l.k 128 * l.xSize + l.setBytes)

/-- Ranges of the stages' operands in memory (R473): X of the first stage, every W, Y of the last. -/
def stagesFar (x : Ctx) (ls : List Layer) (descs : List (List Byte)) : Chk :=
  Chk.all ([(match ls.head? with
    | none => ({} : Chk)
    | some l => memRange x l.x (max l.xBytes 1) 7)] ++
  ls.map (fun l => if l.isPool then ({} : Chk) else memRange x l.w (max l.wBytes 1) 7) ++
  [(match ls.getLast? with
    | none => ({} : Chk)
    | some l => memRange x l.y (max (l.yBytes (outSize (stageOut l (descs.getD (ls.length - 1) [])))) 1) 3)])

/-- The fields of a stage record outside their ranges (Tables 6.10, 6.14, 10.7). -/
def stageFields (l : Layer) : Chk :=
  Chk.all [Chk.fail 5 (decide (l.op ≠ opGemm ∧ l.op ≠ opConv ∧ l.op ≠ opPool)), rng l.band 1 1024, layerShape l,
    (if l.isPool then {} else spAddr l.desc 1)]

/-- R191 and R288: the stages do not fit each other, their spaces or the reserve; `descs` are the stages' templates. -/
def stagesBad (fwBanks : Nat) (ls : List Layer) (descs : List (List Byte)) : Bool :=
  let desc := fun i => descs.getD i []
  ls.zipIdx.any (fun p =>
    let l := p.1
    l.global || (if p.2 = 0 then decide (farSpace l.x = 3) else decide (farSpace l.x ≠ 3)) ||
    (!l.isPool && decide (farSpace l.w = 3)) || decide (farSpace l.y = 3)) ||
  (upTo (ls.length - 1)).any (fun i => match ls[i]?, ls[i + 1]? with
    | some p, some l => !stageFits p (desc i) l
    | _, _ => false) ||
  decide (fwBanks * 0x20000 <
    ((upTo (ls.length - 1)).map (fun i => match ls[i]?, ls[i + 1]? with
      | some p, some l => handoverBytes p (desc i) l
      | _, _ => 0)).foldl (· + ·) 0 + (ls.map levelBytes).foldl max 0)

/-- What the start of a FUSED command finds in its stage list and templates (R191, R473, Table 6.6). An operand outside its
range has the reason that it has in a command of its own (assumption log 24). -/
def stageReasons (s : State) (b : Job) (c : Cmd) (ls : List Layer) (descs : List (List Byte)) : List Nat :=
  let far := stagesFar (jobCtx s b) ls descs
  let model := match far.modelEnd with
    | none => []
    | some n =>
      if c.model = 0xFFFF then [4]
      else if ((boundVersion s c.job.toNat c.model).map (·.len)).getD 0 < n then [7] else []
  (Chk.all (ls.map stageFields)).bad ++ far.bad ++ model ++
    (if (ls.zip descs).any (fun p => !p.1.isPool && descBad true p.2) then [0x0A] else []) ++
    (if stagesBad b.fwBanks ls descs then [0x0C] else [])

/-- Ladle indices of a FUSED command: bands of the final stage, within each image (R188). -/
def fusedBands (l : Layer) : Nat :=
  if l.isGemm then cdiv l.m (max l.band 1) else l.batch * cdiv l.hout (max l.band 1)

/-! ### Start checks (Table 6.6) -/

/-- What a start reads of scratchpad, and what its checks find. -/
structure StartInfo where
  reasons : List Nat
  poisoned : Bool
  desc : List Byte
  stages : List Byte
  plan : Option Plan
  deriving DecidableEq, Repr

def StartInfo.plain : StartInfo := { reasons := [], poisoned := false, desc := [], stages := [], plan := none }

/-- The hearth that reads for a command: its first ACTIVE receiver. -/
def cmdHearth (s : State) (c : Cmd) : Nat := c.hearths.headD (homeHearth s (jobVat s c.job.toNat))

/-- Read scratchpad for the tiling firmware (the HCC, master 1). -/
def fwRead (c : Cmd) (a len : Nat) (t : Touch) (s : State) : Marked × State := spRead (cmdHearth s c) 1 c.job.toNat a len t s

/-- A plan of `u` equal indices. -/
def flatPlan (u v stealMax : Nat) (stealEn : Bool) : Plan :=
  { mt := 0, nt := 0, kt := 0, mt1 := 0, mb := 1, nb := 1, kb := 1, order0 := 0, order1 := 0, auto := true, t := u, s := 1,
    u := u, round := 0, stealMax := if stealMax = 0 then autoSteal u v else stealMax, stealEn := stealEn }

/-- Y of a GEMM or CONV with its real element size (R473). -/
def yBad (s : State) (c : Cmd) (d : List Byte) : Bool :=
  let l := c.layer
  decide (farSpace l.y = 0 ∧ vatDramBytes s (jobVat s c.job.toNat) < farOffset l.y + max (l.yBytes (outSize (outType d))) 1)

/-- The hoop that a BIND_HOOP names cannot be bound (reason 0x0D). -/
def bindBad (s : State) (c : Cmd) : Bool :=
  let h := (vatHearths s (jobVat s c.job.toNat)).getD (c.field 16 1) 0
  let lo := c.field 20 4
  let hi := lo + 64 * c.field 24 4
  decide (((s.hearth h).hoop (c.field 17 1)).state = .bound) || decide (spmBytes < hi) ||
    decide (lo < 0x100000 ∧ 0xFFC00 < hi) ||
    (upTo 32).any (fun b => decide (b * 0x20000 < hi ∧ lo < (b + 1) * 0x20000 ∧ ((s.hearth h).bank b).cls ≠ .working))

/-- A GEMM or CONV: its template and tile block. -/
def startLayer (b : Job) (c : Cmd) (t : Touch) (s : State) : StartInfo × State :=
  let l := c.layer
  let v := (activeHearths s b.vat).length
  let (d, s) := fwRead c l.desc 64 t s
  let (k, s) := if l.tileMode = 0 then ([], s) else fwRead c l.block 16 t s
  let bytes := d.map (·.1)
  let plan := if l.tileMode = 0 then some (planAuto l v false) else planBlock l v b.fwBanks (k.map (·.1))
  ({ reasons := (if yBad s c bytes then [6] else []) ++ (if descBad true bytes then [0x0A] else []) ++
        (if plan.isNone then [0x0B] else []),
     poisoned := d.any (·.2) || k.any (·.2), desc := bytes, stages := [], plan := plan }, s)

/-- A FUSED command: its stage list and the stages' templates. -/
def startFused (b : Job) (c : Cmd) (t : Touch) (s : State) : StartInfo × State :=
  let (st, s) := fwRead c (c.field 16 4) (64 * c.field 20 1) t s
  let ls := stageLayers (c.field 20 1) (st.map (·.1))
  let (ds, s) := ls.foldl (fun (p : List Marked × State) l =>
    let (d, s) := if l.isPool then ([], p.2) else fwRead c l.desc 64 t p.2
    (p.1 ++ [d], s)) ([], s)
  let descs := ds.map (fun d => d.map (·.1))
  let plan := flatPlan (fusedBands (ls.getLastD c.layer)) (activeHearths s b.vat).length 0 (decide (c.field 21 1 / 16 % 2 = 0))
  ({ reasons := stageReasons s b c ls descs, poisoned := st.any (·.2) || ds.any (fun d => d.any (·.2))
     desc := descs.flatMap (fitBytes 64), stages := st.map (·.1), plan := some plan }, s)

/-- A DRAIN: its descriptor. -/
def startDrain (b : Job) (c : Cmd) (t : Touch) (s : State) : StartInfo × State :=
  let h := (vatHearths s b.vat).getD (c.field 16 1) 0
  let (d, s) := spRead h 1 c.job.toNat (c.field 20 4) 64 t s
  let bytes := d.map (·.1)
  ({ StartInfo.plain with reasons := if descBad false bytes then [0x0A] else [], poisoned := d.any (·.2), desc := bytes }, s)

/-- What the start of a command reads and finds (Table 6.6). -/
def startInfo (b : Job) (c : Cmd) (t : Touch) (s : State) : StartInfo × State :=
  let op := c.op
  let l := c.layer
  let v := (activeHearths s b.vat).length
  if op = opGemm ∨ op = opConv then startLayer b c t s
  else if op = opPool then ({ StartInfo.plain with plan := some (flatPlan (l.batch * l.hout) v 0 (!l.noSteal)) }, s)
  else if op = opFused then startFused b c t s
  else if op = opDrain then startDrain b c t s
  else if op = opBindHoop then ({ StartInfo.plain with reasons := if bindBad s c then [0x0D] else [] }, s)
  else if op = opSemAcquire then
    ({ StartInfo.plain with reasons := if semOwner s (c.field 16 1) = some c.job then [0x0E] else [] }, s)
  else if op = opSemRelease then
    ({ StartInfo.plain with reasons := if semOwner s (c.field 16 1) = some c.job then [] else [0x0E] }, s)
  else if op = opKernel ∧ 0 < c.field 32 4 then
    ({ StartInfo.plain with plan := some (flatPlan (c.field 32 4) c.hearths.length (c.field 36 2) true) }, s)
  else (StartInfo.plain, s)

/-! ### Ladles of a command (R182–R184) -/

/-- The lowest ladle number free in every hearth of the vat. -/
def freeLadle (s : State) (v : Nat) : Option Nat :=
  (upTo 16).find? (fun l => (vatHearths s v).all (fun h => !((s.hearth h).ladle l).valid))

/-- Bytes of the completion bitmap of a plan's first round, its largest (R58, R183). -/
def bitmapBytes (p : Plan) : Nat := cdiv (min p.u roundSize) 64 * 8

/-- A free ladle number, and a place for its bitmap in the home's reserve (R58, R184). -/
def ladlePlace (s : State) (b : Job) (j : Nat) (p : Plan) : Option (Nat × Nat) :=
  match freeLadle s b.vat, reserveAt s (homeHearth s b.vat) j (bitmapBytes p) with
  | some l, some a => some (l, a)
  | _, _ => none

/-- The lowest reason of a list; 0 for none. -/
def lowest (rs : List Nat) : Nat := rs.foldl (fun a r => if a = 0 ∨ r < a then r else a) 0

/-- Tensors of the command's model that are resident in the vat as it starts (R341). -/
def residentNow (s : State) (b : Job) (c : Cmd) : List Nat :=
  match boundVersion s c.job.toNat c.model with
  | none => []
  | some v => residentTensors s b.vat v

/-- Engines start: EXECUTING, with what was read, the ladles loaded for the first round; `place` is the ladle and its bitmap. -/
def enterExecuting (b : Job) (c : Cmd) (i : StartInfo) (place : Option (Nat × Nat)) (s : State) : State :=
  let j := c.job.toNat
  let s := { s with jobOrder := s.jobOrder + 1 }
  let res := residentNow s b c
  let s := modCmd j c.seq (fun c => { c with
    state := .executing, desc := i.desc, stages := i.stages, plan := i.plan, ladle := place.map (·.1), execOrder := s.jobOrder
    resident := res }) s
  match place, i.plan with
  | some (l, a), some p =>
    let home := homeHearth s b.vat
    loadLadles c.hearths home l j c.seq 0 (min p.u roundSize) a p.stealMax p.stealEn (takeReserve home j c.seq a (bitmapBytes p) s)
  | _, _ => s

/-- COMMAND_START's effect on a startable command. -/
def startCmd (j : Nat) (b : Job) (c : Cmd) (t : Touch) (s : State) : State :=
  let (i, s) := startInfo b c t (touchMeet t s)
  if i.poisoned then jobFault j 0x0102 4 false s
  else match lowest i.reasons with
    | 0 =>
      match i.plan with
      | none => enterExecuting b c i none s
      | some p => match ladlePlace s b j p with
        | none => modCmd j c.seq (fun c => { c with state := .starting }) s
        | some x => enterExecuting b c i (some x) s
    | r => malformed j c.seq r s

end Sys2Proof.Machine
end

