-- ==== Sys2Proof/Machine/Control.lean ====
section
/-! DEFINITION. A command's life, and the job and control commands: COMMAND_START, COMMAND_RETIRE, NOP, JOB_BEGIN,
JOB_END, BIND_HOOP, SET_COUNTER, SEM_ACQUIRE, SEM_RELEASE (R157–R172, R472). -/

namespace Sys2Proof.Machine
open Sys2Proof

/-- COMMAND_START (R158, R166, R168) -/
def execCommandStart (job : Half) (seq : StartTurn) (s : State) : Res :=
  rooted s (match s.job job.toNat, findCmd s job.toNat seq.seq with
    | some b, some c => if startable s b c then startCmd job.toNat b c seq.touch s else s
    | _, _ => s)

/-! ### Retirement (R160) -/

/-- The cores of a hearth that have ended have had every store acknowledged. -/
def storesAcked (s : State) (h : Nat) : Bool :=
  (s.hearth h).cores.all (fun k => decide (k.2.run ≠ .idle ∨ k.2.stores = []))

/-- The command's whole work is done. -/
def cmdDone (s : State) (c : Cmd) : Bool :=
  decide (c.state = .finished) ||
  (decide (c.state = .executing ∧ queueClass c.op ≠ 0 ∧ c.partsLeft = [] ∧ c.cores = []) &&
   (decide (c.op ≠ opKernel ∧ c.op ≠ opPool) || c.hearths.all (storesAcked s)))

/-- The command-complete message (Table 14.6). -/
def completeEntry (c : Cmd) : Entry32 := entry32 [(0, 0x0001), (4, c.job.toNat), (6, c.op), (8, c.seq.toNat)]

/-- The ladles a command held are free (R184). -/
def freeCmdLadle (v : Nat) (c : Cmd) (s : State) : State :=
  match c.ladle with
  | none => s
  | some l => forEach (vatHearths s v) (fun h s => modLadle h l (fun _ => Ladle.dflt) s) s

/-- Curds of job `j` in bucket `b` that a newer one replaces are released once every CURD_TAKE of the job on the bucket
earlier than the newer one's has retired (R307). -/
def releaseOld (j b : Nat) (s : State) : State :=
  match s.job j with
  | none => s
  | some job =>
    let held := (s.bkt b).curds.filter (fun c => decide (c.holder = some (BitVec.ofNat 16 j)))
    let live := (jobCmds s j).filter (fun c => decide (c.op = opCurdTake ∧ c.field 16 1 = b))
    forEach (held.zip (held.drop 1)) (fun p s =>
      if live.any (fun d => decide (seqDist d.seq job.beginSeq < seqDist p.2.takenBy job.beginSeq)) then s
      else releaseCurd b p.1 s) s

/-- Entries are freed, the mark is applied by the command's going, the message is posted (R160, R165). -/
def retireCmd (b : Job) (c : Cmd) (s : State) : State :=
  let j := c.job.toNat
  let s := freeReserve b.vat j c.seq (freeCmdLadle b.vat c { s with cmds := s.cmds.filter (fun d => decide ¬(d.job = c.job ∧ d.seq = c.seq)) })
  let s := if c.op = opCurdTake then releaseOld j (c.field 16 1) s else s
  let s := if c.notify then postMsg c.qp .kept (completeEntry c) s else s
  let s := if c.op = opJobEnd then jobGone j s else s
  acceptAll (considerSwitch b.vat s)

/-- COMMAND_RETIRE; a command that carries NOTIFY waits for room in the message store (R368). -/
def execCommandRetire (job : Half) (seq : Word) (s : State) : Res :=
  rooted s (match s.job job.toNat, findCmd s job.toNat seq with
    | some b, some c =>
      if jobRuns s job.toNat && cmdDone s c && (!c.notify || decide (s.store.length < 4096 ∧ s.raised = [])) then retireCmd b c s
      else s
    | _, _ => s)

/-! ### The commands -/

/-- NOP (Table 6.3) -/
def execNop (job : Half) (seq : Word) (s : State) : Res :=
  rooted s (match executing s job.toNat seq opNop with
    | none => s
    | some _ => finishCmd job.toNat seq s)

/-- Deferred checks 0x07 run in posting order; the first failure faults the job (R472). -/
def deferredChecks (j : Nat) (s : State) : State :=
  match (jobCmds s j).find? (fun c => match c.deferred07 with
    | none => false
    | some n => decide (((boundVersion s j c.model).map (·.len)).getD 0 < n)) with
  | none => s
  | some c => malformed j c.seq 7 s

/-- What JOB_BEGIN does once it starts (R143, R169, R339): counters and WRITTEN bits cleared, deferred checks, the cave's
placements. -/
def beginEffect (j : Nat) (b : Job) (seq : Word) (s : State) : State :=
  let s := zeroCounters b s
  let s := forEach (vatHearths s b.vat) (fun h s => modHearth h (fun x => { x with written := 0 }) s) s
  let s := modJob j (fun b => { b with begun := true }) s
  let s := forEach b.bound (fun m s => caveBind b.vat m.1 m.2 s) s
  deferredChecks j (finishCmd j seq s)

/-- JOB_BEGIN (R169) -/
def execJobBegin (job : Half) (seq : Word) (s : State) : Res :=
  rooted s (match executing s job.toNat seq opJobBegin, s.job job.toNat with
    | some _, some b => beginEffect job.toNat b seq s
    | _, _ => s)

/-- JOB_END (R171) -/
def execJobEnd (job : Half) (seq : Word) (s : State) : Res :=
  rooted s (match executing s job.toNat seq opJobEnd with
    | none => s
    | some _ => finishCmd job.toNat seq (endJob job.toNat s))

/-- An enable bit [7] with a counter in [5:0]. -/
def ctrOpt (v : Nat) : Option Nat := if 128 ≤ v then some (v % 64) else none

/-- BIND_HOOP (R148, Table 6.8) -/
def execBindHoop (job : Half) (seq : Word) (s : State) : Res :=
  rooted s (match executing s job.toNat seq opBindHoop with
    | none => s
    | some c =>
      forEach c.partsLeft (fun h s => finishPart job.toNat seq h (modHoop h (c.field 17 1) (fun _ =>
        { Hoop.dflt with
          state := .bound, tailCtr := ctrOpt (c.field 18 1), headCtr := ctrOpt (c.field 19 1), base := c.field 20 4
          size := c.field 24 4 }) s)) s)

/-- SET_COUNTER (R140, Table 6.8) -/
def execSetCounter (job : Half) (seq : Word) (s : State) : Res :=
  rooted s (match executing s job.toNat seq opSetCounter with
    | none => s
    | some c => forEach c.partsLeft (fun h s =>
        finishPart job.toNat seq h (ctrSet h (c.field 17 1) (BitVec.ofNat 32 (c.field 20 4)) s)) s)

/-- SEM_ACQUIRE: taken when free; waits in EXECUTING while another job holds it (R172). -/
def execSemAcquire (job : Half) (seq : Word) (s : State) : Res :=
  rooted s (match executing s job.toNat seq opSemAcquire with
    | none => s
    | some c =>
      let i := c.field 16 1
      if semOwner s i = none ∨ semOwner s i = some job then finishCmd job.toNat seq (setSem i (some job) s) else s)

/-- SEM_RELEASE (R172): the semaphore goes to the oldest waiter, and a deferred switch may begin (R336). -/
def execSemRelease (job : Half) (seq : Word) (s : State) : Res :=
  rooted s (match executing s job.toNat seq opSemRelease with
    | none => s
    | some c =>
      let i := c.field 16 1
      let s := finishCmd job.toNat seq s
      let s := if semOwner s i = some job then grantSem i (setSem i none s) else s
      considerSwitch (jobVat s job.toNat) s)

end Sys2Proof.Machine
end

