-- ==== Sys2Proof/Machine/Delivery.lean ====
section
/-! DEFINITION. Taking curds into a vat, and handing output hoops to the assembler (R307, R308, R320–R322). -/

namespace Sys2Proof.Machine
open Sys2Proof

/-! ### CURD_TAKE -/

def Cmd.bucket (c : Cmd) : Nat := c.field 16 1
def Cmd.next (c : Cmd) : Bool := bit c.entry (17 * 8)

/-- The curd a CURD_TAKE copies from: the one it was served, or with NEXT = 0 the newest that a take before it has brought its
job. -/
def takenCurd (s : State) (c : Cmd) : Option Curd :=
  if c.next then c.served.bind (fun p => curdOf s p.1 p.2)
  else
    let begun := ((s.job c.job.toNat).map (·.beginSeq)).getD 0
    ((s.bkt c.bucket).curds.filter (fun k =>
      decide (k.holder = some c.job ∧ seqDist k.takenBy begun < seqDist c.seq begun))).getLast?

/-- The copies of slots and header, and the bump after the last byte (R307, Table 11.5). -/
def copyCurd (c : Cmd) (k : Curd) (tag : Nat) (s : State) : State :=
  let b := c.bucket
  let x := s.bkt b
  let home := homeHearth s (jobVat s c.job.toNat)
  let n := if c.field 40 4 = 0 then x.slotBytes else c.field 40 4
  let s := forEach (upTo (c.field 19 1)) (fun i s =>
    spWrite home c.job.toNat (windowAddr (c.field 20 4) (i * c.field 24 4)) (dramRead s (slotAddr s b k.seq (c.field 18 1 + i)) n) s) s
  let s := if bit c.entry (17 * 8 + 1) then
      spWrite home c.job.toNat (c.field 28 4) (dramRead s (curdAddr s b k.seq) x.hdrBytes) s else s
  if 128 ≤ c.field 32 1 then ctrAdd home (c.field 32 1 % 64) (BitVec.ofNat 32 (c.field 36 4)) (some home) tag s else s

/-- CURD_TAKE: what it names is copied from its curd; with NEXT = 1 it waits until one is served (R307). -/
def execCurdTake (job : Half) (seq : Word) (tag : Fin 16) (s : State) : Res :=
  rooted s (match executing s job.toNat seq opCurdTake with
    | none => s
    | some c =>
      if c.partsLeft = [] then s else
      match takenCurd s c with
      | none => s
      | some k => modCmd job.toNat seq (fun c => { c with partsLeft := [] }) (copyCurd c k tag s))

/-- A take that waits for a curd of bucket `b`. -/
def waitsCurd (s : State) (b : Nat) (c : Cmd) : Bool :=
  decide (c.op = opCurdTake ∧ c.state = .executing ∧ c.bucket = b ∧ c.next = true ∧ c.served = none) && jobRuns s c.job.toNat

/-- The low-water message (R308, Table 14.6). -/
def lowWater (b : Nat) (seq : Word) (s : State) : State :=
  let low := bits (cfgGet s (inpBkt b + 0x1C)) 7 0
  let n := (readyCurds (s.bkt b)).length
  if n < low ∧ (s.bkt b).lowPosted = false then
    postMsg (eventQp s) .droppable (entry32 [(0, 0x0005), (4, b), (5, n), (6, low), (8, seq.toNat)])
      (modBkt b (fun k => { k with lowPosted := true, lowEvents := satAdd k.lowEvents 1 }) s)
  else s

/-- CURD_TAKE_SERVE: the oldest waiting take gets the lowest-SEQ READY curd (R307, R308). -/
def execCurdTakeServe (bucket : Fin 16) (s : State) : Res :=
  rooted s (match (sortBy (·.execOrder) (s.cmds.filter (waitsCurd s bucket))).head?, (readyCurds (s.bkt bucket)).head? with
    | some c, some k =>
      let s := modCurd bucket k.seq (fun k => { k with state := .taken, holder := some c.job, takenBy := c.seq }) s
      let s := modCmd c.job.toNat c.seq (fun c => { c with served := some (bucket.val, k.seq) }) s
      lowWater bucket k.seq (releaseOld c.job.toNat bucket s)
    | _, _ => s)

/-! ### EMIT (R321, R322) -/

/-- Entries that the assembler's store holds. -/
def asmStored (s : State) : Nat :=
  (s.media.asm.map (fun p =>
    (p.2.waiting.map (fun w => ((w.filled.map List.length).getD 0))).foldl (· + ·) 0 +
    (p.2.sides.map (fun x => x.2.2.length)).foldl (· + ·) 0 + (p.2.outbox.map (fun x => x.2.length)).foldl (· + ·) 0)).foldl (· + ·) 0

/-- The assembler's 4 MiB store, in entries (R326). -/
def asmRoom : Nat := 131072

def recSource (e : Entry32) : Nat := bits e 47 32
def recTs (e : Entry32) : DWord := BitVec.ofNat 64 (bits e 127 64)

/-- A record discarded by the assembler is recorded with its head code. -/
def asmDiscard (e : Entry32) (s : State) : State := record 0x0603 1 (recSource e) (BitVec.ofNat 64 (bits e 15 0)) s

/-- A kernel's record fills its placeholder and brings its route. -/
def fillRouted (src : Nat) (ts : DWord) (route : Half) (run : List Entry32) (s : State) : State :=
  modAsm src (fun a => { a with
    waiting := modFirst (fun w => decide (w.ts = ts) && w.filled.isNone) (fun w => { w with filled := some run, route := some route }) a.waiting }) s

/-- Take one record, its head first: a frame record fills its placeholder, a side record is held for its frame record or
goes out behind it (R321, R325). -/
def takeRecord (route : Half) (e : Entry32) (run : List Entry32) (s : State) : State :=
  let src := recSource e
  if 272 ≤ src then asmDiscard e s
  else if bits e 15 0 = 0x10 then
    if recOpen s src (recTs e) then fillRouted src (recTs e) route run s
    else asmDiscard e s
  else if (s.asm src).waiting.any (fun w => decide (w.ts = recTs e)) then
    modAsm src (fun a => { a with sides := a.sides ++ [(recTs e, route, run)] }) s
  else modAsm src (fun a => { a with outbox := a.outbox ++ [(route, run)] }) s

/-- Take records from copied entries, each with the poison of its slot. `fuel` bounds the entries. -/
def asmParse : Nat → Half → List (Entry32 × Bool) → State → State
  | 0, _, _, s => s
  | _ + 1, _, [], s => s
  | fuel + 1, route, (e, p) :: rest, s =>
    let code := bits e 15 0
    if code = 0 then asmParse fuel route rest s
    else if code ≠ 0x10 ∧ code ≠ 0x11 then asmParse fuel route rest (asmDiscard e s)
    else
      let n := bits e 55 48
      if rest.length < n then asmDiscard e s
      else
        let run := e :: (rest.take n).map (·.1)
        let bad := p || (rest.take n).any (·.2)
        asmParse fuel route (rest.drop n) (if bad then s else takeRecord route e run s)

/-- The entries of the oldest `n` slots of a hoop, two to a slot, as the HCC (master 1) reads them. -/
def hoopEntries (h hoop n : Nat) (who : Agent) (t : Touch) (s : State) : List (Entry32 × Bool) × State :=
  let k := (s.hearth h).hoop hoop
  (upTo n).foldl (fun q i =>
    let (d, s) := localRead h 1 (k.base + (k.head + BitVec.ofNat 32 i).toNat % max k.size 1 * 64) 64 who (touchAt t h) q.2
    let bs := d.map (·.1)
    let p := d.any (·.2)
    (q.1 ++ [(ofBytes 256 (bs.take 32), p), (ofBytes 256 (bs.drop 32), p)], s)) ([], s)

/-- Copy `n` slots to the assembler and advance HEAD. -/
def handOver (c : Cmd) (h n : Nat) (tag : TagTurn) (s : State) : State :=
  let (es, s) := hoopEntries h (c.field 17 1) n (.job (some c.job.toNat)) tag.touch (touchMeet tag.touch s)
  let s := asmParse es.length (BitVec.ofNat 16 (c.field 18 2)) es s
  finishPart c.job.toNat c.seq h (headAdvance h (c.field 17 1) n (some h) tag.tag s)

/-- An EMIT whose hoop is BOUND, with its slots to hand over when they are there and the store has room. SLOTS 0 names
the slots present when the command started, kept with the command while it waits for the store. -/
def emitReady (s : State) (c : Cmd) (h : Nat) : Option Nat :=
  let k := (s.hearth h).hoop (c.field 17 1)
  let n := if c.field 20 4 ≠ 0 then c.field 20 4 else if c.moved = 0 then k.occ else c.moved - 1
  if k.state = .bound ∧ n ≤ k.occ ∧ asmStored s + 2 * n ≤ asmRoom then some n else none

/-- EMIT: on a hoop that is not BOUND it hands over nothing and the event is recorded; else it hands its slots over when
they are there (R321). -/
def execEmit (job : Half) (seq : Word) (tag : TagTurn) (s : State) : Res :=
  rooted s (match executing s job.toNat seq opEmit with
    | none => s
    | some c => forEach c.partsLeft (fun h s =>
        if ((s.hearth h).hoop (c.field 17 1)).state ≠ .bound then
          finishPart job.toNat seq h (record 0x0603 1 0 0 s)
        else match emitReady s c h with
          | none => modCmd job.toNat seq (fun c => { c with moved := if c.moved = 0 then ((s.hearth h).hoop (c.field 17 1)).occ + 1 else c.moved }) s
          | some n => handOver c h n tag s) s)

/-- EMIT_HANDOVER: the hoop has come to hold SLOTS slots and the assembler has room. -/
def execEmitHandover (job : Half) (seq : Word) (tag : TagTurn) (s : State) : Res :=
  rooted s (match executing s job.toNat seq opEmit with
    | none => s
    | some c => forEach c.partsLeft (fun h s =>
        match emitReady s c h with
        | none => s
        | some n => handOver c h n tag s) s)

end Sys2Proof.Machine
end

