-- ==== Sys2Proof/Machine/Dram.lean ====
section
/-! DEFINITION. The DRAM controllers' rows (R220–R239). The clock in ns is the controllers' cycle count. -/

namespace Sys2Proof.Machine
open Sys2Proof

/-- A channel at the start of a window at cycle `t`: rows close, its queued requests are marked, and a pause that is due will
follow the window. A read-modify-write keeps its bank (R218, R220, R223). -/
def Channel.refresh (t : Nat) (k : Channel) : Channel :=
  { k with
    banks := Table.remap DBank.dflt (fun _ b => { b with row := none, pre := if b.row.isSome then some t else b.pre, hits := 0 }) k.banks
    reads := k.reads.map (fun r => { r with sawRefresh := true })
    writes := k.writes.map (fun r => { r with sawRefresh := true })
    armed := k.due }

/-- REFRESH_WINDOW_START, from the cycle R_k that the schedule gives: every ONLINE channel precharges and refreshes, and the
next window is set by the interval now in force (R220, R222). -/
def execRefreshWindowStart (s : State) : Res :=
  rooted s (match s.drams.next with
    | none => s
    | some t =>
      if s.drams.window = true ∨ s.now < t then s else
      let s := { s with channels := Table.modAll Channel.dflt s.channels (upTo 32) (fun _ k => if k.state = .online then k.refresh t else k) }
      modDrams (fun d => { d with window := true, started := t, next := some (t + d.interval), refCount := satAdd d.refCount 1 }) s)

/-- A retraining pause starts, with a new count window (R223, R474). -/
def Channel.pause (now : Nat) (k : Channel) : Channel :=
  { k with
    state := .retraining, due := false, armed := false, since := now, winCorr := 0
    reads := k.reads.map (fun r => { r with sawRetrain := true })
    writes := k.writes.map (fun r => { r with sawRetrain := true }) }

/-- REFRESH_WINDOW_END, 160 cycles after the start: the pauses that were due when the window began start (R220, R223). -/
def execRefreshWindowEnd (s : State) : Res :=
  rooted s (if s.drams.window = false ∨ s.now < s.drams.started + 160 then s else
    modDrams (fun d => { d with window := false })
      { s with channels := Table.modAll Channel.dflt s.channels (upTo 32) (fun _ k =>
          if k.armed && decide (k.state = .online) then k.pause s.now else k) })

/-- RETRAIN_DUE: the four channels that share k = c mod 8 fall due together (R223). -/
def execRetrainDue (c : Fin 32) (s : State) : Res :=
  rooted s { s with channels := Table.modAll Channel.dflt s.channels ((upTo 4).map (fun d => 8 * d + c.val % 8)) (fun _ k =>
    if k.state = .online then { k with due := true } else k) }

/-- RETRAIN_PAUSE_END: margins are confirmed, or a full retraining follows (Table 8.5). -/
def execRetrainPauseEnd (c : Fin 32) (marginOk : Bool) (s : State) : Res :=
  rooted s (if (s.chan c).state ≠ .retraining then s else
    let s := modChan c (fun k => { k with
      retrainCount := satAdd k.retrainCount 1, pauseNs := satNat 16 (s.now - k.since) }) s
    if marginOk then chanOnline c s else fullRetrain c 1 s)

/-- DRAM_TEMP_READ: the four die sensors in 0.25 °C; above 85.0 enters the hot interval, all at 82.0 or below
over 10 ms leaves it (R222). -/
def execDramTempRead (t0 t1 t2 t3 : BitVec 16) (s : State) : Res :=
  .next (let ts := [t0, t1, t2, t3]
    let above := ts.any (fun t => decide (t.toInt > 340))
    let cool := ts.all (fun t => decide (t.toInt ≤ 328))
    let d := s.drams
    let reads := if cool then d.coolReads + 1 else 0
    let temps := (upTo 4).foldl (fun t i => Table.set 0 t i (ts.getD i 0)) d.temps
    let s := { s with drams := { d with temps := temps, coolReads := if reads > 101 then 101 else reads } }
    if !d.hot && above then
      modSoot (fun t => { t with hotEntries := satAdd t.hotEntries 1 })
        (modDrams (fun d => { d with hot := true, hotEntries := satAdd d.hotEntries 1 }) s)
    else if d.hot && decide (reads ≥ 101) then modDrams (fun d => { d with hot := false }) s
    else s)

/-- DRAM_REQUEST: a request of up to one line comes to its channel and enters its queue, or waits in the router
(R218, R224, R227, R228). A FAILED channel answers at once (R237). -/
def execDramRequest (port : Fin 40) (addr : BitVec 34) (len : Fin 129) (hint : Fin 4) (write : Option (List Byte)) (poisoned : Bool) (s : State) : Res :=
  rooted s (let a := addr.toNat
    let n := min len.val (128 - a % 128)
    let c := chanOf a
    let data := write.map (fun bs => (fitBytes n bs).map (fun b => (b, poisoned)))
    let whole := decide (a % 32 = 0 ∧ n % 32 = 0)
    let r := { DReq.internal (s.chan c).nextId a n s.now with
      port := port, write := data.isSome, rmw := data.isSome && !whole, hint := pageHint port hint, bulk := decide (8 ≤ port.val)
      data := data.getD [] }
    let s := modChan c (fun k => { k with output := [] }) s
    if (s.chan c).state = .failed then
      let s := modChan c (fun k => { k with output := [r.answer (if r.write then [] else dramRead s a n) 15] }) s
      match data with
      | some d => dramWrite a d s
      | none => s
    else letIn c (modChan c (fun k => { k with nextId := k.nextId + 1, router := k.router ++ [r] }) s))

/-- A bank's row closes at cycle `t`. -/
def closeRow (t : Nat) (b : DBank) : DBank := { b with row := none, pre := some t, hits := 0 }

/-- The column command of request `r`. -/
def issueCol (s : State) (c : Nat) (r : DReq) (write : Bool) : State :=
  let k := s.chan c
  let b := dbankOf r.addr
  let now := s.now
  let older := (k.requests.takeWhile (fun q => decide (q.id ≠ r.id))).any (fun q => decide (dbankOf q.addr = b ∧ rowOf q.addr ≠ rowOf r.addr))
  let done := write || !r.write
  let others := k.requests.any (fun q => decide (q.id ≠ r.id ∧ dbankOf q.addr = b ∧ rowOf q.addr = rowOf r.addr))
  let fwd := !r.write && overlaps k r.addr r.len
  let line := r.addr / 128 * 128
  let f : DFlight :=
    { req := r, data := dramRead s r.addr r.len, col := now, clean := beatsServed k r.addr
      bad := (upTo 4).filter (fun i => Table.get false s.dramPoison (line / 32 + i)) }
  let s := modChan c (fun k =>
    let k := modDBank b (fun d => { d with
      hits := if r.missed then 0 else if older then d.hits + 1 else 0
      keep := decide (r.hint = 1)
      used := now
      read := if write then d.read else some now
      wrEnd := if write then some (now + 12) else d.wrEnd
      holder := if done then none else some r.id }) k
    let k := if done && decide (r.hint = 2) && !others then
        modDBank b (fun d => closeRow (max (if write then now + 28 else now + 6) ((d.act.getD 0) + 33)) d) k else k
    { k with
      output := []
      rowHits := if r.missed then k.rowHits else satAdd k.rowHits 1
      rowMisses := if r.missed then satAdd k.rowMisses 1 else k.rowMisses
      readLines := if write then k.readLines else satAdd k.readLines 1
      writeLines := if write then satAdd k.writeLines 1 else k.writeLines
      fwdCount := if fwd then satAdd k.fwdCount 1 else k.fwdCount
      colAny := some now
      colGroup := Table.set none k.colGroup (b / 4) (some now)
      lastRead := if write then k.lastRead else some now
      lastWrEnd := if write then some (now + 12) else k.lastWrEnd
      reads := k.reads.filter (fun q => decide (q.id ≠ r.id))
      writes := if done then k.writes.filter (fun q => decide (q.id ≠ r.id))
        else k.writes.map (fun q => if q.id = r.id then { q with readDone := true, missed := false } else q)
      flight := if write then k.flight else k.flight ++ [f] }) s
  letIn c (if write then countAge r now s else s)

/-- DRAM_COMMAND_ISSUE: in this cycle the channel issues the command that R226 picks among the legal ones; a
request that only its fence holds back is marked for the refresh tag (R230). -/
def execDramCommandIssue (c : Fin 32) (s : State) : Res :=
  rooted s (let k := s.chan c
    if k.state ≠ .online || s.drams.window then s else
    let s1 := modChan c (fun k =>
      let mark := fun r => if timingOk s k r (nextCmd k r) && !fenceOk s (nextCmd k r) then { r with sawRefresh := true } else r
      { k with reads := k.reads.map mark, writes := k.writes.map mark }) s
    match pick s1 (s1.chan c) with
    | none => s1
    | some r =>
      let b := dbankOf r.addr
      match nextCmd k r with
      | .activate => modChan c (fun k =>
          let k := modDBank b (fun d => { d with row := some (rowOf r.addr), act := some s.now, used := s.now, hits := 0, keep := decide (r.hint = 1) }) k
          { k with
            acts := (s.now :: k.acts).take 4
            reads := k.reads.map (fun q => if q.id = r.id then { q with missed := true } else q)
            writes := k.writes.map (fun q => if q.id = r.id then { q with missed := true } else q) }) s1
      | .precharge => modChan c (modDBank b (closeRow s.now)) s1
      | .readCol => issueCol s1 c r false
      | .writeCol => issueCol s1 c r true)

/-- DRAM_READ_DELIVER: the oldest read whose column command has issued reaches the output 20 cycles after it, or 28 with a
correction, with its tag and what the check found (R219, R230–R232). The read of a read-modify-write and a patrol read
have no consumer. -/
def execDramReadDeliver (c : Fin 32) (errs : List (Fin 4 × Fin 36 × Bool)) (s : State) : Res :=
  rooted s (match (s.chan c).flight with
    | [] => s
    | f :: rest =>
      let es := f.errors (beatErrors errs)
      let due := f.col + (if es = [] then 20 else 28)
      if s.now < due then s else
      let s := modChan c (fun k => { k with flight := rest, output := [] }) s
      let s := findErrors c f es s
      if f.req.write ∨ f.req.patrol then s else
      let d := if es.any (·.2.2) then f.data.map (fun b => (b.1, true)) else f.data
      countAge f.req due (modChan c (fun k => { k with output := [f.req.answer d (f.req.delayTag (f.corrected es))] }) s))

/-- PATROL_READ: a read of the channel's next line in address order enters its queue, with the errors it will meet (R234).
Patrol stops in FAILED, and a channel that has not trained or refreshes itself reads nothing. -/
def execPatrolRead (c : Fin 32) (errs : List (Fin 4 × Fin 36 × Bool)) (s : State) : Res :=
  rooted s (let k := s.chan c
    if k.state ≠ .online ∧ k.state ≠ .retraining ∧ k.state ≠ .fullRetrain then s else
    let r := { DReq.internal k.nextId (chanLine c k.patrol) 128 s.now with write := false, patrol := true, found := beatErrors errs }
    letIn c (modChan c (fun k => { k with
      patrol := (k.patrol + 1) % 0x400000, nextId := k.nextId + 1, output := [], router := k.router ++ [r] }) s))

/-- ROW_IDLE_CLOSE: an open row with no request to it for 32 cycles, or 256 with the keep-open hint, is closed once Table 8.2
allows its precharge (R219, R229). -/
def execRowIdleClose (c : Fin 32) (bank : Fin 32) (s : State) : Res :=
  rooted s (let k := s.chan c
    let b := k.bank bank
    let legal := after s.now b.act 33 && after s.now b.read 6 && after s.now b.wrEnd 16
    if k.state ≠ .online ∨ s.drams.window = true ∨ b.row.isNone = true ∨ b.holder.isSome = true ∨ legal = false ∨
        s.now < b.used + (if b.keep then 256 else 32) ∨
        k.requests.any (fun r => decide (dbankOf r.addr = bank.val ∧ some (rowOf r.addr) = b.row)) = true then s
    else modChan c (modDBank bank (closeRow s.now)) s)

/-- DRC_CH_CTRL.FULL_RETRAIN: acts in ONLINE, is latched in RETRAINING (Table 8.5). -/
def fullRetrainReq (c : Nat) (s : State) : State :=
  match (s.chan c).state with
  | .online => fullRetrain c 3 s
  | .retraining => modChan c (fun k => { k with latched := true }) s
  | .init => s
  | .training => s
  | .fullRetrain => s
  | .selfRefresh => s
  | .failed => s

/-- FULL_RETRAIN -/
def execFullRetrain (c : Fin 32) (s : State) : Res := .next (guard (drcBase + c * 0x1000 + 4) (fullRetrainReq c) s)

/-- FULL_RETRAIN_ATTEMPT_END (R236, Table 8.5) -/
def execFullRetrainAttemptEnd (c : Fin 32) (pass : Bool) (s : State) : Res :=
  rooted s (let k := s.chan c
    if k.state ≠ .fullRetrain then s
    else if pass then
      chanOnline c (modChan c (fun k => { k with
        retrainCount := satAdd k.retrainCount 1, fullUs := satNat 16 ((s.now - k.since) / 1000) }) s)
    else if k.attempt ≥ 3 then chanFail c 3 s
    else modChan c (fun k => { k with attempt := k.attempt + 1 }) s)

/-- TRAINING_ATTEMPT_END (Table 8.5) -/
def execTrainingAttemptEnd (c : Fin 32) (pass : Bool) (s : State) : Res :=
  rooted s (let k := s.chan c
    if k.state ≠ .training then s
    else if pass then chanOnline c s
    else if k.attempt ≥ 3 then chanFail c 3 s
    else modChan c (fun k => { k with attempt := k.attempt + 1 }) s)

def drcClearOff (c : Nat) : Nat := drcBase + c * 0x1000 + 0x60
def drcSharedClearOff : Nat := drcBase + 0x818

def clearTraffic (c : Nat) : State → State :=
  modChan c (fun k => { k with rowHits := 0, rowMisses := 0, readLines := 0, writeLines := 0, fwdCount := 0 })
def clearDramEcc (c : Nat) : State → State :=
  modChan c (fun k => { k with eccCorr := 0, eccUncorr := 0, lastAddr := 0, lastInfo := 0 })
/-- Cleared marks read 0 and rise from the next entry (assumption log 13). -/
def clearQueueHwm (c : Nat) : State → State := modChan c (fun k => { k with wqHwm := 0, rqHwm := 0 })
def clearPorts : State → State := modDrams (fun d => { d with overdue := [], maxLat := [] })
def clearHot : State → State := modDrams (fun d => { d with hotEntries := 0 })

/-- DRC_CLEAR_TRAFFIC -/
def execDrcClearTraffic (c : Fin 32) (s : State) : Res := .next (guard (drcClearOff c) (clearTraffic c) s)
/-- DRC_CLEAR_ECC; soot keeps its totals (R239). -/
def execDrcClearEcc (c : Fin 32) (s : State) : Res := .next (guard (drcClearOff c) (clearDramEcc c) s)
/-- DRC_CLEAR_QUEUE_HWM -/
def execDrcClearQueueHwm (c : Fin 32) (s : State) : Res := .next (guard (drcClearOff c) (clearQueueHwm c) s)
/-- DRC_CLEAR_PORT -/
def execDrcClearPort (s : State) : Res := .next (guard drcSharedClearOff clearPorts s)
/-- DRC_CLEAR_HOT -/
def execDrcClearHot (s : State) : Res := .next (guard drcSharedClearOff clearHot s)

end Sys2Proof.Machine
end

