-- ==== Sys2Proof/Machine/Update.lean ====
section
/-! DEFINITION. Update transfers over the datagram layer (R434, R435, R441). -/

namespace Sys2Proof.Machine
open Sys2Proof

def updCtrlOff : Nat := svcBase + 0x18

/-- UPDATE_OFFER: accepted into the slot that is not running, or refused with a status (Tables 17.8 and 17.9). -/
def execUpdateOffer (flow : FlowId) (s : State) : Res :=
  rooted s (match takeOp flow 1 s with
    | none => s
    | some ((t, _, len, head), s) =>
      if !updFrom s flow then s else
      let k := 1 - s.boot.active
      let st := offerStatus s len head
      if st ≠ 0 then
        let s := setUpdStatus st 0 (updSource flow) (sendResult flow t st s)
        updEventFor 0 len t 2 k 0xFF 0 st s
      else
        let s := modFwSlot k (fun _ => { state := .writing, attempts := 0, data := head.take 576 }) s
        let s := modBoot (fun b => { b with
          update := { state := .receiving, flow := flow, transfer := t, slot := k, rxBytes := 576, pkgBytes := len } }) s
        updEvent 1 k 0xFF 0 0 (sendResult flow t 0 s))

/-- UPDATE_CHUNK: LENGTH bytes at the next OFFSET; one out of order aborts the update (R435). -/
def execUpdateChunk (flow : FlowId) (s : State) : Res :=
  rooted s (match takeOp flow 2 s with
    | none => s
    | some ((t, off, len, data), s) =>
      if !updIs s flow t .receiving then s else
      let u := s.boot.update
      if off ≠ u.rxBytes ∨ len ≠ data.length ∨ u.pkgBytes < u.rxBytes + len then updFail 0x0904 s else
      let s := modFwSlot u.slot (fun x => { x with data := x.data ++ data }) s
      let s := modBoot (fun b => { b with update := { u with rxBytes := u.rxBytes + len } }) s
      if u.rxBytes / 0x100000 < (u.rxBytes + len) / 0x100000 then updEvent 3 u.slot 0xFF 0 0 s else s)

/-- UPDATE_END: the package is verified; one that is short is invalid. -/
def execUpdateEnd (flow : FlowId) (s : State) : Res :=
  rooted s (match takeOp flow 3 s with
    | none => s
    | some ((t, _, _, _), s) =>
      if !updIs s flow t .receiving then s else
      let u := s.boot.update
      if u.rxBytes = u.pkgBytes then modBoot (fun b => { b with update := { u with state := .verifying } }) s
      else updFail 0x0904 s)

/-- UPDATE_VERIFY_COMPLETE: signature, structure image and start models (`modelsOk`) are checked; the slot is PENDING and
is passed along the chain, or the update ends (R435, R441). -/
def execUpdateVerifyComplete (modelsOk : Bool) (s : State) : Res :=
  rooted s (let u := s.boot.update
    if u.state ≠ .verifying then s else
    let d := (s.boot.slot u.slot).data
    if pkgSigned s.boot d && decide (imageCheck s.boot [] (pkgImage d) none = 0) && modelsOk then
      let s := modFwSlot u.slot (fun x => { x with state := .pending, attempts := 0 }) s
      let s := modBoot (fun b => { b with update := { u with state := .idle } }) s
      forwardOffer (updEvent 4 u.slot 0xFF 0 0 (sendResult u.flow u.transfer 0 s))
    else updFail 0x0904 s)

/-- UPDATE_RESULT: the next member's answer to what this device passes along (R441). -/
def execUpdateResult (flow : FlowId) (s : State) : Res :=
  rooted s (match takeOp flow 4 s with
    | none => s
    | some ((t, _, len, _), s) => match flow with
      | .image m => if s.boot.forward.any (fun f => decide (f.member = m.val)) then forwardResult t (len % 65536) s else s
      | .service | .tensor _ | .control _ => s)

/-- UPDATE_ABORT_OP: the sender ends the transfer received, or the receiver the one passed along. Its status in
SVC_UPDATE_STATUS and in the event is not stated: a free value. -/
def execUpdateAbortOp (flow : FlowId) (s : State) : Res :=
  rooted s (match takeOp flow 5 s with
    | none => s
    | some ((t, _, _, _), s) =>
      if updIs s flow t .receiving || updIs s flow t .verifying then
        let (st, s) := draw 16 s
        updAbort st.toNat s
      else match flow with
        | .image m => match s.boot.forward with
          | none => s
          | some f =>
            if f.member = m.val ∧ f.transfer = t then
              let (st, s) := draw 16 s
              updEvent 0x0C ((pendingSlot s).getD s.boot.active) f.member 0 st.toNat (modBoot (fun b => { b with forward := none }) s)
            else s
        | .service | .tensor _ | .control _ => s)

/-- UPDATE_CONFIRM_OP: from the service peer only (R434). -/
def execUpdateConfirmOp (flow : FlowId) (s : State) : Res :=
  rooted s (match takeOp flow 6 s with
    | none => s
    | some (_, s) => if flow = .service then confirm s else s)

/-- CHUNK_TIMEOUT: 10 s without a CHUNK (R435). -/
def execChunkTimeout (s : State) : Res :=
  rooted s (if s.boot.update.state = .receiving then updFail 0x0904 s else s)

/-- UPDATE_FORWARD (R441) -/
def execUpdateForward (s : State) : Res := .next (guard updCtrlOff forwardOffer s)

/-- The host's ABORT: of the update received, whose status is a free value, else of the transfer passed along. -/
def hostAbort (s : State) : State :=
  let u := s.boot.update
  if u.state = .idle then forwardAbort s else
  let (st, s) := draw 16 s
  sendUpd u.flow 5 u.transfer 0 0 [] (updAbort st.toNat s)

/-- UPDATE_ABORT -/
def execUpdateAbort (s : State) : Res := .next (guard updCtrlOff hostAbort s)

end Sys2Proof.Machine
end

