-- ==== Sys2Proof/Machine/Elec.lean ====
section
/-! DEFINITION. Rails, voltage, the power manager, the thermal levels, GPIO, SMBus and JTAG as they act (chapter 18). -/

namespace Sys2Proof.Machine
open Sys2Proof

/-! ### Rails and voltage (R446–R448) -/

/-- RAIL_LOW: below its range for 10 µs; an update aborts (Table 17.8). -/
def execRailLow (rail : Fin 7) (s : State) : Res :=
  .next (if powered s then
    updFail 0x0902 (withAlert (modElec (fun e => { e with low := setBits e.low rail rail 1 })) s)
  else s)

/-- RAIL_RECOVERED: back in range for 10 ms. -/
def execRailRecovered (rail : Fin 7) (s : State) : Res :=
  .next (if powered s then withAlert (modElec (fun e => { e with low := setBits e.low rail rail 0 })) s else s)

/-- AVS_STEP: one 5 mV step of the set point within 0.60–0.80 V, and the voltage measured. -/
def execAvsStep (up : Bool) (measured : Half) (s : State) : Res :=
  .next (if powered s = false ∨ s.elec.avsFail = true then s else
    modElec (fun e => { e with vset := if up then min 800 (e.vset + 5) else max 600 (e.vset - 5), vmeas := measured.toNat }) s)

/-- AVS_FAILURE: three transactions unanswered, or a regulator fault. -/
def execAvsFailure (s : State) : Res :=
  .next (if powered s then
    withAlert (modElec (fun e =>
      let c := classCaps 0
      { e with
        avsFail := true
        caps := { array := min e.caps.array c.array, ember := min e.caps.ember c.ember, dram := min e.caps.dram c.dram, codec := min e.caps.codec c.codec } })) s
  else s)

/-! ### Power manager (R455, R456) -/

/-- POWER_STEP: the 20 µs step on an estimate of the draw in 0.1 W. -/
def execPowerStep (p : Half) (s : State) : Res := .next (if powered s then powerStep p.toNat s else s)

def budgetOff : Nat := cpmBase + 4
/-- BUDGET_WRITE: it acts at the next step (R469). -/
def execBudgetWrite (value : Word) (s : State) : Res := .next (guard budgetOff (cfgSet budgetOff (value &&& 0xFFFF)) s)

def cpmClearOff : Nat := cpmBase + 0x2C
def clearPeak (s : State) : State := modElec (fun e => { e with peak := 0 }) s
def clearThrottleTime (s : State) : State := modElec (fun e => { e with throttleUs := 0 }) s
/-- CPM_CLEAR_PEAK -/
def execCpmClearPeak (s : State) : Res := .next (guard cpmClearOff clearPeak s)
/-- CPM_CLEAR_TIME; soot keeps its times (R469). -/
def execCpmClearTime (s : State) : Res := .next (guard cpmClearOff clearThrottleTime s)

/-! ### Thermal (R458–R460) -/

/-- The die temperatures are read; missing readings leave a sensor as it was. -/
def readSensors (readings : List Half) (s : State) : State :=
  modElec (fun e => { e with sensors := (upTo 20).foldl (fun t i => Table.set 0 t i (readings[i]?.getD (Table.get 0 t i))) e.sensors }) s

/-- The three levels after a reading, and the thermal budget of a throttle level that begins. -/
def judgeLevels (s : State) : State :=
  let (a, ac) := levelStep s.elec.alertLevel s.elec.alertCool (atLevel s (alertAt s) 85) (coolOf s (alertAt s) 85)
  let (t, tc) := levelStep s.elec.throttleLevel s.elec.throttleCool (atLevel s 105 95) (coolOf s 105 95)
  modElec (fun e => { e with
    alertLevel := a, alertCool := ac, throttleLevel := t, throttleCool := tc,
    thermBudget := if t && !e.throttleLevel then some (e.power - classBudget s.boot.fuses.cls / 10) else e.thermBudget,
    tripLogic := if 4 * 115 ≤ logicMax s then e.tripLogic + 1 else 0,
    tripDram := if 4 * 100 ≤ dramMax s then e.tripDram + 1 else 0 }) s

/-- A trip: clocks gated, recorded, THERM_N asserted (R460). -/
def trip (s : State) : State :=
  gateClocks (record 0x0201 0 0 0 (modElec (fun e => { e with tripped := true, tripWait := true }) s))

/-- THERMAL_SENSOR_READ: the 20 logic-die readings in 0.25 °C; the DRAM dies' are those last read. -/
def execThermalSensorRead (readings : List Half) (s : State) : Res :=
  .next (if powered s = false then s else
    withAlert (fun s =>
      let s := judgeLevels (readSensors readings s)
      if s.elec.tripWait then
        if logicMax s ≤ 4 * 95 ∧ dramMax s ≤ 4 * 85 then modElec (fun e => { e with tripWait := false }) s else s
      else if 2 ≤ s.elec.tripLogic ∨ 2 ≤ s.elec.tripDram then trip s else s) s)

/-- THERMAL_BUDGET_STEP: every 10 ms at the level the budget falls by 10 % of the class budget; once clear it rises by
5 % every 100 ms, and is lifted at the class budget (R459). -/
def execThermalBudgetStep (s : State) : Res :=
  .next (match s.elec.thermBudget with
    | none => s
    | some b =>
      let c := classBudget s.boot.fuses.cls
      withAlert (modElec (fun e => { e with
        thermBudget := if e.throttleLevel then some (b - c / 10) else if c ≤ b + c / 20 then none else some (b + c / 20) })) s)

def thermStatusOff : Nat := cpmBase + 0x18

/-- A write of 1 to TRIPPED; a trip in the same cycle leaves it at 1 (R6). -/
def clearTripped (tripNow : Bool) (s : State) : State := withAlert (modElec (fun e => { e with tripped := tripNow })) s
/-- TRIPPED_CLEAR -/
def execTrippedClear (tripNow : Bool) (s : State) : Res := .next (guard thermStatusOff (clearTripped tripNow) s)

/-! ### GPIO (R462, R469) -/

def gpioOutOff : Nat := cpmBase + 0x204
/-- GPIO_OUT_WRITE -/
def execGpioOutWrite (value : Word) (s : State) : Res := .next (guard gpioOutOff (cfgSet gpioOutOff (value &&& 0xFF)) s)

/-! ### SMBus (R461, Table 18.7) -/

/-- The target answers with bytes while VDD_AON is in range. -/
def smbReply (data : State → List Byte) (s : State) : State := if powered s then emit (.smbus (some (data s))) s else s

/-- SMB_ID -/
def execSmbId (s : State) : Res := .next (smbReply (fun _ => toBytes glbId 4 ++ toBytes glbRev 4) s)
/-- SMB_STATE -/
def execSmbState (s : State) : Res :=
  .next (smbReply (fun s => [if s.power.state = .booting ∨ s.power.state = .recovery then 0 else BitVec.ofNat 8 s.power.state.code]) s)
/-- SMB_TEMP -/
def execSmbTemp (s : State) : Res :=
  .next (smbReply (fun s => degrees (logicMax s) :: (upTo 4).map (fun d => degrees (dramTemp s d))) s)
/-- SMB_POWER -/
def execSmbPower (s : State) : Res := .next (smbReply (fun s => toBytes (BitVec.ofNat 16 (min s.elec.power 65535)) 2) s)
/-- SMB_BUDGET_READ -/
def execSmbBudgetRead (s : State) : Res := .next (smbReply (fun s => toBytes s.elec.smbBudget 2) s)
/-- SMB_BUDGET_WRITE -/
def execSmbBudgetWrite (value : Half) (s : State) : Res :=
  .next (if powered s then emit (.smbus (some [])) (modElec (fun e => { e with smbBudget := value }) s) else s)
/-- SMB_STATUS -/
def execSmbStatus (s : State) : Res :=
  .next (smbReply (fun s => [BitVec.ofNat 8 (bits (railStatus s) 7 0), BitVec.ofNat 8 (bits (railStatus s) 31 24)]) s)
/-- SMB_WAKE: it wakes from Banked where SMBUS_WAKE = 1, and is otherwise ignored and recorded. -/
def execSmbWake (s : State) : Res :=
  .next (if powered s = false then s else
    let s := emit (.smbus (some [])) s
    if s.power.state = .banked ∧ bit (cfgGet s (cpmBase + 0x108)) 8 = true then wake 3 s else recordOther 0 0 7 s)
/-- SMB_THERM -/
def execSmbTherm (s : State) : Res := .next (smbReply (fun s => [BitVec.ofNat 8 (bits (thermStatus s) 31 24)]) s)

/-- SMB_ALERT_RESPONSE: the address, in bits 7–1, from a target that asserts SMB_ALERT_N, which it then releases. -/
def execSmbAlertResponse (s : State) : Res :=
  .next (if powered s && s.elec.smbAlert then
    emit (.smbus (some [BitVec.ofNat 8 (2 * (0x58 + s.elec.strap.toNat))])) (modElec (fun e => { e with smbAlert := false }) s)
  else emit (.smbus none) s)

/-- SMB_TIMEOUT: SMB_CLK held low for 25 ms resets the interface, which holds nothing between commands. -/
def execSmbTimeout (s : State) : Res := .next s

/-- SMB_OTHER_COMMAND: a code outside Table 18.7 is NACKed. -/
def execSmbOtherCommand (s : State) : Res := .next (emit (.smbus none) s)

/-! ### JTAG (R463) -/

def loadJtag (i : JtagIr) (s : State) : State := modElec (fun e => { e with jtag := i }) s

/-- The 32 bits of IDCODE, least significant first. -/
def idcodeBits : List Bool := (upTo 32).map (fun i => bit (0x13216A3B : Word) i)

/-- Boundary cells are captured and shifted out, and new values updated, where the instruction selects the boundary
register. -/
def scanBoundary (captured update : List Bool) (s : State) : State :=
  match jtagInForce s with
  | .sample | .extest | .extestPulse | .extestTrain => emit (.jtag captured) (modElec (fun e => { e with boundary := update }) s)
  | .bypass | .idcode | .clamp | .highz => s

/-- JTAG_BYPASS; every instruction not named acts as it. The bypass register captures 0. -/
def execJtagBypass (s : State) : Res := .next (emit (.jtag [false]) (loadJtag .bypass s))
/-- JTAG_IDCODE -/
def execJtagIdcode (s : State) : Res := .next (emit (.jtag idcodeBits) (loadJtag .idcode s))
/-- JTAG_SAMPLE_PRELOAD -/
def execJtagSamplePreload (captured update : List Bool) (s : State) : Res := .next (scanBoundary captured update (loadJtag .sample s))
/-- JTAG_EXTEST -/
def execJtagExtest (captured update : List Bool) (s : State) : Res := .next (scanBoundary captured update (loadJtag .extest s))
/-- JTAG_EXTEST_PULSE -/
def execJtagExtestPulse (captured update : List Bool) (s : State) : Res := .next (scanBoundary captured update (loadJtag .extestPulse s))
/-- JTAG_EXTEST_TRAIN -/
def execJtagExtestTrain (captured update : List Bool) (s : State) : Res := .next (scanBoundary captured update (loadJtag .extestTrain s))
/-- JTAG_CLAMP -/
def execJtagClamp (s : State) : Res := .next (emit (.jtag [false]) (loadJtag .clamp s))
/-- JTAG_HIGHZ -/
def execJtagHighz (s : State) : Res := .next (emit (.jtag [false]) (loadJtag .highz s))

end Sys2Proof.Machine
end

