-- ==== Sys2Proof/Machine/Ember.lean ====
section
/-! DEFINITION. Ember-core loads, stores, fences and environment calls, and the responses they wait for
(R44–R51, Table 2.5). -/

namespace Sys2Proof.Machine
open Sys2Proof

def loadBytes : LoadSize → Nat
  | .lb => 1
  | .lh => 2
  | .lw => 4
  | .lbu => 1
  | .lhu => 2

def loadSigned : LoadSize → Bool
  | .lb => true
  | .lh => true
  | .lw => false
  | .lbu => false
  | .lhu => false

def storeBytes : StoreSize → Nat
  | .sb => 1
  | .sh => 2
  | .sw => 4

def instBytes (compressed : Bool) : Nat := if compressed then 2 else 4

/-- The 32-bit register value of loaded bytes. -/
def extendLoad (signed : Bool) (bs : List Byte) : Word :=
  if signed then (if bs.length = 1 then (ofBytes 8 bs).signExtend 32 else (ofBytes 16 bs).signExtend 32) else ofBytes 32 bs

/-- The effective address of a load or store. -/
def effAddr (base : Word) (imm : BitVec 12) : Word := base + imm.signExtend 32

/-- A preserving march works on a bank that the access touches: it waits for the march to leave the bank (R152). -/
def marchHolds (s : State) (h a len : Nat) : Bool := (wordsOf a len).any (fun w => marchOn (s.hearth h) (bankOf (w * 128)))

/-- Arbitrate an access of core `c` of hearth `h` to a bank of hearth `g`, as an ember core or from the mesh, counting the
cycles the core loses under bank-conflict (R133, R134). -/
def coreArbitrate (h c g a : Nat) (rmw : Bool) (rivals : Rivals) (s : State) : State :=
  let own : BankReq := if g = h then { master := 0, core := Fin.ofNat 64 c, rmw := rmw } else engineReq 9 rmw
  let (n, s) := arbitrate g (bankOf a) own rivals s
  stallCore h c 8 n s

/-- A read by core `c` of hearth `h` as master `m`; a corrected granule delays it one cycle, counted under
memory-corrected (R125). -/
def coreFetchData (h c g m a len : Nat) (errs : List SpmErr) (s : State) : List (Byte × Bool) × State :=
  let late := !isControl a && (errHits s g m a len (agentOf s h) errs).any (fun e => !e.unc)
  let (bs, s) := coreRead h g m a len errs s
  (bs, stallCore h c 1 (b2n late) s)

/-- A load of `len` bytes into x or v register `rd`: the misaligned trap first and then the access fault (assumption log
71), then own-hearth data at once, remote data when the response comes, a poisoned zero from a removed hearth (R48). A
read of a flue port has no stated value. -/
def coreLoad (vec : Bool) (h c rd len : Nat) (signed : Bool) (base : XReg) (imm : BitVec 12) (ibytes : Nat) (errs : List SpmErr)
    (rivals : Rivals) (s : State) : State :=
  let a := effAddr base.v imm
  let put := fun (bs : List (Byte × Bool)) (s : State) =>
    modCore h c (fun k =>
      let p := bs.any (·.2)
      let raw := bs.map (·.1)
      (if vec then k.setV rd (ofBytes 128 raw) p else k.setX rd (extendLoad signed raw) p).step ibytes) s
  if base.p then trap h c trapPoison a s
  else if a.toNat % len ≠ 0 then trap h c trapMisaligned a s
  else match decodeAddr s h a.toNat with
    | .own b =>
      if !isControl b && marchHolds s h b len then s else
      let s := landEarlier h c h s
      let s := if isControl b then s else coreArbitrate h c h b false rivals s
      let (bs, s) := coreFetchData h c h 0 b len errs s
      put bs s
    | .remote g b =>
      if (s.hearth g).state ≠ .active then
        put (List.replicate len (0, true))
          (countRemoved g c (modCounts g (fun k => { k with offAccess := satAdd k.offAccess 1 }) s))
      else
        modCore h c (fun k => { (k.step ibytes) with run := .stalled, wait := some (.load vec rd signed g b len) }) s
    | .outPort _ _ =>
      let (v, s) := draw (8 * len) s
      put ((toBytes v len).map (fun b => (b, false))) s
    | .headReg _ =>
      let (v, s) := draw (8 * len) s
      put ((toBytes v len).map (fun b => (b, false))) s
    | .none => trap h c trapAccess a s

/-- SCALAR_LOAD. -/
def execScalarLoad (h : Fin 32) (c : Fin 64) (rd rs1 : Fin 32) (imm : BitVec 12) (size : LoadSize) (compressed : Bool)
    (errs : List SpmErr) (rivals : Rivals) (s : State) : Res :=
  rooted s (withCore h c (fun k s =>
    coreLoad false h c rd (loadBytes size) (loadSigned size) (k.getX rs1) imm (instBytes compressed) errs rivals s) s)

/-- A store of `data`: traps, then issue (R47–R51). -/
def coreStore (h c : Nat) (base : XReg) (data : List Byte) (dataPoison : Bool) (imm : BitVec 12) (ibytes tag : Nat)
    (rivals : Rivals) (s : State) : State :=
  let a := effAddr base.v imm
  if base.p || dataPoison then trap h c trapPoison a s
  else if a.toNat % data.length ≠ 0 then trap h c trapMisaligned a s
  else match decodeAddr s h a.toNat with
    | .none => trap h c trapAccess a s
    | .own b =>
      if !isControl b && marchHolds s h b data.length then s else
      let s := if isControl b then s else coreArbitrate h c h b (partStore b data.length) rivals s
      issueStore h c (.own b) data tag (modCore h c (Core.step ibytes) s)
    | t => issueStore h c t data tag (modCore h c (Core.step ibytes) s)

/-- SCALAR_STORE. -/
def execScalarStore (h : Fin 32) (c : Fin 64) (rs1 rs2 : Fin 32) (imm : BitVec 12) (size : StoreSize) (compressed : Bool)
    (tag : Fin 16) (rivals : Rivals) (s : State) : Res :=
  rooted s (withCore h c (fun k s =>
    coreStore h c (k.getX rs1) (toBytes (k.getX rs2).v (storeBytes size)) (k.getX rs2).p imm (instBytes compressed) tag rivals s) s)

/-- XE_VLD: 16 aligned bytes (R49). -/
def execXeVld (h : Fin 32) (c : Fin 64) (vd rs1 : Fin 32) (imm : BitVec 12) (errs : List SpmErr) (rivals : Rivals) (s : State) : Res :=
  rooted s (withCore h c (fun k s => coreLoad true h c vd 16 false (k.getX rs1) imm 4 errs rivals s) s)

/-- XE_VST: 16 aligned bytes (R49). -/
def execXeVst (h : Fin 32) (c : Fin 64) (vs2 rs1 : Fin 32) (imm : BitVec 12) (rivals : Rivals) (s : State) : Res :=
  rooted s (withCore h c (fun k s =>
    coreStore h c (k.getX rs1) (toBytes (k.getV vs2).v 16) (k.getV vs2).p imm 4 15 rivals s) s)

/-- FENCE: completes once every earlier store has been acknowledged (R47). -/
def execFence (h : Fin 32) (c : Fin 64) (s : State) : Res :=
  rooted s (withCore h c (fun k s =>
    if k.stores = [] then modCore h c (Core.step 4) s
    else modCore h c (fun k => { (k.step 4) with run := .stalled, wait := some .fence }) s) s)

/-- The kernel command whose core (h, c) ends: the core is taken off its list (R193). -/
def coreEnded (h c : Nat) (s : State) : State :=
  { s with cmds := s.cmds.map (fun m => { m with cores := m.cores.filter (fun p => decide (p ≠ (h, c))) }) }

/-- An ecall: a service request; a7 = 0 ends the core's part of a KERNEL (R51, R193). -/
def coreEcall (h c : Nat) (k : Core) (s : State) : State :=
  if (k.getX 17).p then trap h c trapPoison 0 s
  else if (k.getX 17).v = 0 then
    coreEnded h c (modCore h c (fun k => { k with run := .idle, trap := trapEcall, stopPc := k.pc }) s)
  else modCore h c (fun k => { (k.step 4) with trap := trapEcall, stopPc := k.pc }) s

/-- An ebreak: the core halts and EMB_ status shows HALTED (Table 2.7). -/
def coreEbreak (h c : Nat) (s : State) : State :=
  modCore h c (fun k => { k with run := .halted, trap := trapEbreak, stopPc := k.pc }) s

/-- EBREAK -/
def execEbreak (h : Fin 32) (c : Fin 64) (_compressed : Bool) (s : State) : Res :=
  rooted s (withCore h c (fun _ s => coreEbreak h c s) s)

/-- REMOTE_LOAD_RESPONSE: the target hearth is read, after the core's earlier stores there, and the data returns with its
poison (R44, R47); a hearth removed meanwhile gives poisoned zeros (R48). The cycles waited count under `cause`. -/
def execRemoteLoadResponse (h : Fin 32) (c : Fin 64) (errs : List SpmErr) (cycles : Nat) (cause : Fin 11) (s : State) : Res :=
  rooted s (match (s.core h c).wait with
    | some (.load vec rd signed g b len) =>
      if !isControl b && marchHolds s g b len then s else
      let s := landEarlier h c g s
      let s := if (s.hearth g).state ≠ .active then countRemoved g c s else s
      let (bs, s) := coreRead h g 9 b len errs s
      let raw := bs.map (·.1)
      let p := bs.any (·.2)
      let s := modCore h c (fun k =>
        { (if vec then k.setV rd (ofBytes 128 raw) p else k.setX rd (extendLoad signed raw) p) with run := .running, wait := none }) s
      stallCore h c cause cycles s
    | _ => s)

/-- STORE_ACK: the oldest store of the core to hearth `dst` lands, if it has not, and is acknowledged; a fence
that waited for the last one completes (R44, R47, R138). -/
def execStoreAck (h : Fin 32) (c : Fin 64) (dst : Fin 32) (tag : Fin 16) (s : State) : Res :=
  rooted s (match (s.core h c).stores.find? (fun f => decide (f.hearth h = dst.val)) with
    | none => s
    | some f =>
      let s := landFlight h c f tag s
      modCore h c (fun k =>
        let stores := k.stores.eraseIdx (k.stores.findIdx (fun f => decide (f.hearth h = dst.val)))
        if stores = [] ∧ k.wait = some .fence then { k with stores := stores, run := .running, wait := none }
        else { k with stores := stores }) s)

/-- The cause a core's wait on a counter has of its own: flue-empty where the counter is the tail counter of an empty flue
hoop, else counter-wait (Table 2.9). -/
def waitCause (x : Hearth) (ctr : Nat) : Nat :=
  if (upTo 16).any (fun j => let k := x.hoop j
      decide (k.state = .bound ∧ k.flue = true ∧ k.tailCtr = some ctr ∧ k.occ = 0)) then 4 else 6

/-- XE_CWAIT: stalls until VALUE − rs1 is zero or more; a BROKEN counter faults the job (R50, R141, R142). -/
def execXeCwait (h : Fin 32) (c : Fin 64) (rs1 : Fin 32) (ctr : Fin 64) (s : State) : Res :=
  rooted s (withCore h c (fun k s =>
    let t := k.getX rs1
    let n := (s.hearth h).ctr ctr
    if t.p then trap h c trapPoison 0 s
    else if n.broken then jobFaultTrap h 0 s
    else if ctrMet n t.v then modCore h c (Core.step 4) s
    else modCore h c (fun k => { (k.step 4) with run := .stalled, wait := some (.counter ctr t.v (waitCause (s.hearth h) ctr)) }) s) s)

/-- CWAIT_RELEASE: the waiter is released after the update that meets it, its stall counted under the
counter's TAG, or its own cause (R141, R60); BROKEN releases it into a job fault (R142). -/
def execCwaitRelease (h : Fin 32) (c : Fin 64) (cycles : Nat) (s : State) : Res :=
  rooted s (match (s.core h c).wait with
    | some (.counter n t cause) =>
      let k := (s.hearth h).ctr n
      if k.broken then jobFaultTrap h 0 s
      else if ctrMet k t then stallCore h c (if k.tag < 11 then k.tag else cause) cycles (resumeCore h c s)
      else s
    | _ => s)

end Sys2Proof.Machine
end

