-- ==== Sys2Proof/Machine/Ether.lean ====
section
/-! DEFINITION. The Ethernet rows: ports, links, ingest, the datagram layer, the control channel, the join
(chapter 15). -/

namespace Sys2Proof.Machine
open Sys2Proof

/-- PORT_ENABLE (Table 15.2): MODE 0b11 is discarded and recorded. -/
def portEnable (p : Nat) (s : State) : State :=
  match (s.port p).state with
  | .disabled => if bits (cfgGet s (portOff p)) 19 18 = 3 then recordWrite (portOff p + 4) 1 s else portStart p s
  | .stopping => modPort p (fun x => { x with state := .stoppingPendingEnable }) s
  | .running | .stoppingPendingEnable => s
def execPortEnable (port : Fin 2) (s : State) : Res := .next (guard (portOff port + 4) (portEnable port) s)

/-- PORT_DISABLE: no new transmissions, and receive stops. -/
def portDisable (p : Nat) (s : State) : State :=
  match (s.port p).state with
  | .running => modPort p (fun x => { x with state := .stopping }) s
  | .stoppingPendingEnable => modPort p (fun x => { x with state := .stopping }) s
  | .disabled | .stopping => s
def execPortDisable (port : Fin 2) (s : State) : Res := .next (guard (portOff port + 4) (portDisable port) s)

/-- PORT_SHUTDOWN_COMPLETE: every link of the port is down. -/
def execPortShutdownComplete (port : Fin 2) (s : State) : Res :=
  rooted s (if (upTo 4).any (fun k => (s.link (4 * port + k)).up) then s
    else match (s.port port).state with
      | .stopping => modPort port (fun _ => EthPort.dflt) s
      | .stoppingPendingEnable => portStart port s
      | .disabled | .running => s)

/-- ETH_LINK_UP (R384) -/
def execEthLinkUp (link : Fin 8) (speed : Fin 4) (fec : Bool) (s : State) : Res :=
  ported s (if (s.port (link / 4)).state = .running ∧ linkInMode s link = true ∧ (s.link link).up = false then linkTo link true speed fec s else s)

/-- ETH_LINK_DOWN (R384) -/
def execEthLinkDown (link : Fin 8) (s : State) : Res :=
  ported s (if (s.link link).up then linkTo link false 0 false s else s)

/-- PFC_FRAME: honoured on the priorities of PFC_EN (R384). -/
def execPfcFrame (link : Fin 8) (priority : Fin 8) (pause : Bool) (s : State) : Res :=
  ported s (if linkRuns s link = false then s else
    let s := rxCount link (0, 0) s
    if bit (linkCfg s link) (12 + priority) then
      let m : Byte := BitVec.ofNat 8 (2 ^ priority.val)
      let s := modLink link (fun x => { x with paused := if pause then x.paused ||| m else x.paused &&& ~~~m }) s
      if pause then s else pumpAll s
    else s)

/-- UDP_DATAGRAM (R381, R385): `ok` says that the frame lies within Table 15.1, its checksum and VLAN included. -/
def execUdpDatagram (link : Fin 8) (ok : Bool) (src : List Byte) (srcPort : Half) (dst : List Byte) (dstPort : Half) (ce : Bool)
    (payload : List Byte) (fec : Nat × Nat) (s : State) : Res :=
  ported s (if linkRuns s link = false then s else
    let s := rxCount link fec s
    if ok && ownAddr s link dst then classify link src srcPort dstPort ce payload s else rxDropped link s)

/-- ETH_FRAME_RECEIVED: answered by mantel firmware, or discarded and counted (Table 15.1, R381). -/
def execEthFrameReceived (link : Fin 8) (answer : Option (List Byte)) (fec : Nat × Nat) (s : State) : Res :=
  ported s (if linkRuns s link = false then s else
    let s := rxCount link fec s
    match answer with
    | none => rxDropped link s
    | some a => emit (.ethAnswer link a) (modLink link (fun x => { x with txFrames := satAdd x.txFrames 1 }) s))

/-- RTP_PACKET (R386–R389) -/
def execRtpPacket (session : Fin 256) (packet : RtpIn) (s : State) : Res := ported s (heard (rtpLink s session) (rtpPacket session packet) s)

/-- RTP_GAP_TIMEOUT: 2 ms of hold have passed (R387). -/
def execRtpGapTimeout (session : Fin 256) (s : State) : Res :=
  ported s (if rtpLive s session && decide ((s.rtp session).held ≠ []) then declareLoss session s else s)

/-- RTCP_SENDER_REPORT (R388) -/
def execRtcpSenderReport (session : Fin 256) (ssrc : Word) (ntp : DWord) (rtpTs : Word) (s : State) : Res :=
  ported s (heard (rtpLink s session) (senderReport session ssrc ntp rtpTs) s)

/-- RTCP_REPORT_TIMER (R388) -/
def execRtcpReportTimer (session : Fin 256) (s : State) : Res := ported s (receiverReport session s)

/-- RTSP_REPLY (R390) -/
def execRtspReply (session : Fin 256) (ok : Bool) (pt : Fin 128) (sprop : List Byte) (s : State) : Res :=
  ported s (rtspReply session ok pt sprop s)

/-- RTSP_RETRY_TIMER (R390) -/
def execRtspRetryTimer (session : Fin 256) (s : State) : Res := ported s (rtspRetry session s)

/-- RTSP_KEEPALIVE_TIMER (R390) -/
def execRtspKeepaliveTimer (session : Fin 256) (s : State) : Res := ported s (rtspKeepalive session s)

/-- DATA_FRAME (R392); MORE is kept by the record's own length. -/
def execDataFrame (flow : FlowId) (seq ack limit epoch : Word) (_more ece ce : Bool) (payload : List Byte) (s : State) : Res :=
  ported s (heard (flowLink s flow) (dataFrame flow seq ack limit epoch ece ce payload) s)

/-- ACK_FRAME (R392) -/
def execAckFrame (flow : FlowId) (ack limit epoch : Word) (ece ce : Bool) (s : State) : Res :=
  ported s (heard (flowLink s flow) (ackFrame flow ack limit epoch ece ce) s)

/-- ACK_TIMER (R392) -/
def execAckTimer (flow : FlowId) (s : State) : Res := ported s (ackTimer flow s)

/-- RETX_TIMEOUT (R393) -/
def execRetxTimeout (flow : FlowId) (s : State) : Res := ported s (retxTimeout flow s)

/-- HELLO (R396, R397) -/
def execHello (member : Fin 8) (hello : HelloIn) (s : State) : Res := ported s (heard (memberLink s member) (helloRecv member hello) s)

/-- LEAVE (R397) -/
def execLeave (member : Fin 8) (s : State) : Res := ported s (heard (memberLink s member) (leaveRecv member) s)

/-- HELLO_TIMER: every 10 ms in PROBING and LOST, every second in REFUSED (Table 15.6). -/
def execHelloTimer (member : Fin 8) (s : State) : Res :=
  ported s (if s.ether.join = .running ∧ ((s.member member).state = .probing ∨ (s.member member).state = .lost ∨ (s.member member).state = .refused) then
    sendHello member s else s)

/-- MEMBER_TIMEOUT (Table 15.6) -/
def execMemberTimeout (member : Fin 8) (s : State) : Res :=
  ported s (if s.ether.join = .running ∧ (s.member member).state = .up then memberLost member s else s)

/-- CC_STALL_TIMEOUT: frames to the destination unacknowledged for 8 ms (R395). -/
def execCcStallTimeout (d : Fin 16) (s : State) : Res :=
  ported s (if destOn s d && !(s.dest d).stalled && decide ((s.dest d).flow.unacked ≠ []) then
    record 0x0B02 0 d 2 (modDest d (fun x => { x with stalled := true }) s) else s)

/-- CC_PROBE_TIMER: a STALLED destination gets a retransmission of its oldest frame (R395). -/
def execCcProbeTimer (d : Fin 16) (s : State) : Res :=
  ported s (if destOn s d && (s.dest d).stalled && flowUp s (.control d) then
    match (s.dest d).flow.unacked with
    | [] => s
    | f :: _ => countRetx (.control d) 1 (flowSend (.control d) 1 (b2n f.more + 4) f.seq f.payload s)
  else s)

/-- JOIN_ENABLE (Tables 15.2, 15.6) -/
def joinEnable (s : State) : State :=
  match s.ether.join with
  | .disabled => joinStart s
  | .stopping => modEther (fun e => { e with join := .stoppingPendingEnable }) s
  | .running | .stoppingPendingEnable => s
def execJoinEnable (s : State) : Res := .next (guard (joinOff + 4) joinEnable s)

/-- JOIN_DISABLE -/
def joinDisable (s : State) : State :=
  match s.ether.join with
  | .running => joinStop s
  | .stoppingPendingEnable => modEther (fun e => { e with join := .stopping }) s
  | .disabled | .stopping => s
def execJoinDisable (s : State) : Res := .next (guard (joinOff + 4) joinDisable s)

/-- JOIN_SHUTDOWN_COMPLETE: no job exchanges tensors any more (R397). -/
def execJoinShutdownComplete (s : State) : Res :=
  rooted s (if (liveJobs s).any (fun p => ((p.2.adapt.map (fun a => decide (a.lead ≠ 0xFF))).getD false)) then s
    else match s.ether.join with
      | .stopping => modEther (fun e => { e with join := .disabled }) s
      | .stoppingPendingEnable => joinStart s
      | .disabled | .running => s)

/-- ETH_COUNT_CLEAR (R402) -/
def countClearOff : Nat := ethBase + 0x3800
def clearEthJoin (s : State) : State :=
  modEther (fun e => { e with members := Table.remap Member.dflt (fun _ x => { x with retx := 0, ece := 0 }) e.members }) s
def clearEthCc (s : State) : State :=
  modEther (fun e => { e with dests := Table.remap Dest.dflt (fun _ x => { x with retx := 0 }) e.dests }) s
def clearEthRtp (s : State) : State :=
  modEther (fun e => { e with rtps := Table.remap Rtp.dflt (fun _ x => { x with lost := 0, late := 0, overflow := 0 }) e.rtps }) s
def clearEthLink (s : State) : State :=
  modEther (fun e => { e with links := Table.remap EthLink.dflt (fun _ x => { x with
    rxDrop := 0, rxFrames := 0, txFrames := 0, fecCorr := 0, fecUncorr := 0 }) e.links }) s
def execEthClearJoin (s : State) : Res := .next (guard countClearOff clearEthJoin s)
def execEthClearCc (s : State) : Res := .next (guard countClearOff clearEthCc s)
def execEthClearRtp (s : State) : Res := .next (guard countClearOff clearEthRtp s)
def execEthClearLink (s : State) : Res := .next (guard countClearOff clearEthLink s)

end Sys2Proof.Machine
end

