-- ==== Sys2Proof/Machine/Scaler.lean ====
section
/-! DEFINITION. The rows of chapter 10: programs, scalers, crop rings, their counters. -/

namespace Sys2Proof.Machine
open Sys2Proof

/-- The 128 staged bytes (R272). -/
def stagedProg (s : State) : List Byte := (upTo 32).flatMap (fun i => toBytes (cfgGet s (sclBase + 0x2000 + 4 * i)) 4)

/-- A write of SCL_PROG_COMMIT (R272). -/
def writeProgCommit (v : Word) (s : State) : State :=
  let i := bits v 5 0
  let s := cfgSet (sclBase + 0x200) (BitVec.ofNat 32 i) s
  if !bit v 31 then s else
  let p := stagedProg s
  match progCheck p with
  | 0 => modMedia (fun m => { m with
      programs := Table.set (List.replicate 128 0) m.programs i p, progStatus := pack 32 [(16, i), (8, 1)] }) s
  | d => postStatus { status := 0x0602, detail := d, kind := 6, id := i }
      (modMedia (fun m => { m with progStatus := pack 32 [(16, i), (8, 2), (0, d)] }) s)

/-- PROG_COMMIT (R272) -/
def execProgCommit (value : Word) (s : State) : Res := .next (guard (sclBase + 0x200) (writeProgCommit value) s)

/-- ENABLE of a scaler (Table 9.6). -/
def scalerEnable (scaler : Nat) (s : State) : State :=
  retryStreams (s.scl scaler).group (modScl scaler (fun c => { c with state := match c.state with
    | .disabled => .idle
    | .stopping => .stoppingPendingEnable
    | x => x }) s)
/-- SCALER_ENABLE (R285) -/
def execScalerEnable (scaler : Fin 8) (s : State) : Res := .next (guard (sclBase + 4 + 0x40 * scaler) (scalerEnable scaler) s)
/-- DISABLE of a scaler (Table 9.6). -/
def scalerDisable (scaler : Nat) : State → State :=
  modScl scaler (fun c => { c with state := match c.state with
    | .idle => .disabled
    | .busy => .stopping
    | .stoppingPendingEnable => .stopping
    | x => x })
/-- SCALER_DISABLE (R285) -/
def execScalerDisable (scaler : Fin 8) (s : State) : Res := .next (guard (sclBase + 4 + 0x40 * scaler) (scalerDisable scaler) s)

/-- SCALER_JOB_START (R283): the oldest held job that has not started starts; otherwise the oldest ready picture of the
group is accepted and starts. -/
def execScalerJobStart (scaler : Fin 8) (s : State) : Res :=
  rooted s (let k := scaler.val
    let c := s.scl k
    let n := c.jobs.findIdx (fun j => !j.started)
    if n < c.jobs.length then startJob k n s
    else if (c.state = .idle ∨ c.state = .busy) ∧ c.jobs.length < 4 then
      match (s.grp c.group).ready with
      | [] => s
      | j :: rest =>
        let s := modGrp c.group (fun g => { g with ready := rest }) s
        startJob k c.jobs.length (modScl k (fun c => { c with jobs := c.jobs ++ [j], state := .busy }) s)
    else s)

/-- A started job that is not streamed became ready before job `n` of the scaler, which does not advance while it is held
(R283). -/
def olderJob (c : Scaler) (n : Nat) (j : ScJob) : Bool :=
  c.jobs.zipIdx.any (fun x => x.1.started && decide (x.1.kind ≠ .streamed ∧
    (x.1.readyAt < j.readyAt ∨ (x.1.readyAt = j.readyAt ∧ x.2 < n))))

/-- SCALER_JOB_COMPLETE (R284): job `job` of the scaler ends; a streamed one only after its last row is consumed, any other
only as the oldest (R283). The scaler then looks at the crop ring (R281). -/
def execScalerJobComplete (scaler : Fin 8) (job : Fin 4) (memStall : Nat) (s : State) : Res :=
  rooted s (match (s.scl scaler).jobs[job.val]? with
    | none => s
    | some j =>
      if !j.started || (if j.kind = .streamed then !j.complete || decide (j.queued > 0) else olderJob (s.scl scaler) job j) then s
      else pollCrop scaler (finishJob scaler job memStall false s))

/-- CROP_RING_POLL (R281) -/
def execCropRingPoll (scaler : Fin 8) (s : State) : Res := rooted s (pollCrop scaler s)

/-- CROP_HOLD_EXPIRE (R282, R297): the hold of a picture or sensor frame runs out. -/
def execCropHoldExpire (source : Fin 272) (ts : DWord) (s : State) : Res :=
  rooted s (if (source.val, ts) ∈ s.media.holds then
    let s := modMedia (fun m => { m with holds := m.holds.erase (source.val, ts) }) s
    if source.val < 256 then
      match findHeld s source ts with
      | some h => mark h .useDown s
      | none => s
    else frameSettle (source - 256) (modFrame (source - 256) ts (fun f => { f with hold := false }) s)
  else s)

/-- A write of SCL_CROP_CFG (Table 10.10, R291). -/
def writeCropCfg (g : Nat) (v : Word) (s : State) : State :=
  let off := sclBase + 0x408 + 0x20 * g
  let size := bits v 3 0
  let x := s.grp g
  if x.cropOn then
    -- SIZE_LOG2 is fixed while ENABLE is 1
    let s := if size = x.cropLog2 then s else recordWrite off v s
    if bit v 31 then s
    else cfgSet off (setBits (cfgGet s off) 31 31 0) (modGrp g (fun x => { x with cropOn := false }) s)
  else if bit v 31 then
    if size < 4 ∨ 12 < size then recordWrite off v s
    else cfgSet off (pack 32 [(31, 1), (0, size)]) (modGrp g (fun x => { x with
      cropOn := true, cropLog2 := size, cropHead := 0, cropBase := cfgGet64 s (sclBase + 0x400 + 0x20 * g) }) s)
  else cfgSet off (BitVec.ofNat 32 size) s

/-- CROP_RING_ENABLE (R291): a write of SCL_CROP_CFG with ENABLE = 1. -/
def execCropRingEnable (group : Fin 32) (value : Word) (s : State) : Res :=
  .next (guard (sclBase + 0x408 + 0x20 * group) (writeCropCfg group (setBits value 31 31 1)) s)
/-- CROP_RING_DISABLE (R291): a write of SCL_CROP_CFG with ENABLE = 0. -/
def execCropRingDisable (group : Fin 32) (value : Word) (s : State) : Res :=
  .next (guard (sclBase + 0x408 + 0x20 * group) (writeCropCfg group (setBits value 31 31 0)) s)

/-- SCL_CLEAR_GROUP (R292) -/
def clearSclGroup (s : State) : State :=
  modMedia (fun m => { m with groups := Table.remap GroupIn.dflt (fun _ g => { g with cropExpired := 0, badWindow := 0 }) m.groups }) s
def execSclClearGroup (s : State) : Res := .next (guard (sclBase + 0x208) clearSclGroup s)
/-- SCL_CLEAR_SCALER (R292) -/
def clearSclScaler (s : State) : State :=
  modMedia (fun m => { m with scalers := Table.remap Scaler.dflt (fun _ c =>
    { c with busy := 0, done := 0, outPixels := 0, invalid := 0, stallMem := 0 }) m.scalers }) s
def execSclClearScaler (s : State) : Res := .next (guard (sclBase + 0x208) clearSclScaler s)

end Sys2Proof.Machine
end

