-- ==== Sys2Proof/Machine/Video.lean ====
section
/-! DEFINITION. The rows of chapter 9: sessions, decode cores, encode cores, and their counters. -/

namespace Sys2Proof.Machine
open Sys2Proof

/-! ### Sessions (Table 9.4) -/

/-- ENABLE of a session (Table 9.4). -/
def sesEnable (ses : Nat) (s : State) : State :=
  match (s.ses ses).state with
  | .closed => sesOpen ses s
  | .faulted => rtpStop ses (modSes ses (fun x => { x with state := .stoppingPendingEnable, aus := [] }) s)
  | .stopping => modSes ses (fun x => { x with state := .stoppingPendingEnable }) s
  | .running | .stoppingPendingEnable => s

/-- SESSION_ENABLE (R247, R249) -/
def execSessionEnable (ses : Fin 256) (s : State) : Res := .next (guard (vcdSes ses + 4) (sesEnable ses) s)

/-- DISABLE of a session (Table 9.4). -/
def sesDisable (ses : Nat) (s : State) : State :=
  match (s.ses ses).state with
  | .running => sesStop ses s
  | .faulted => rtpStop ses (modSes ses (fun x => { x with state := .stopping, aus := [] }) s)
  | .stoppingPendingEnable => modSes ses (fun x => { x with state := .stopping }) s
  | .closed | .stopping => s

/-- SESSION_DISABLE (R249) -/
def execSessionDisable (ses : Fin 256) (s : State) : Res := .next (guard (vcdSes ses + 4) (sesDisable ses) s)

/-- A write of VCD_SES_TAIL (R246). -/
def writeSesTail (ses : Nat) (v : Word) (s : State) : State :=
  let x := s.ses ses
  if bits x.cfg 25 24 ≠ 1 then recordWrite (vcdSes ses + 0x20) v s
  else if v.toNat % 64 ≠ 0 ∨ seqDist v x.head > x.hoopSize then record 0x0802 1 ses (BitVec.setWidth 64 v) s
  else advanceTail ses v s

/-- SESSION_TAIL_WRITE (R246, R248) -/
def execSessionTailWrite (ses : Fin 256) (value : Word) (s : State) : Res :=
  .next (guard (vcdSes ses + 0x20) (writeSesTail ses value) s)

/-- SESSION_STOP_COMPLETE (R249) -/
def execSessionStopComplete (ses : Fin 256) (s : State) : Res :=
  rooted s (let x := s.ses ses
    if (x.state = .stopping ∨ x.state = .stoppingPendingEnable) ∧ x.pic = none then sesFinish ses s else s)

/-! ### Decode cores (R250–R262) -/

/-- DECODE_CLAIM (R252): a unit of a divided picture, a picture whose buffer has come, or the next picture. `parse` is
what the core finds in the access unit it claims. -/
def execDecodeClaim (core : Fin 16) (parse : PicParse) (s : State) : Res :=
  rooted s (let g := (s.dec core).group
    if (s.dec core).state ≠ .idle then s else
    match splitWork s g with
    | some i => giveUnit core i s
    | none =>
      match nextSession s g with
      | none => s
      | some i =>
        if (s.ses i).pic.isSome then giveUnit core i (modSes i (fun x => { x with pic := x.pic.map (fun p => { p with stage := .decoding }) }) s)
        else claimPicture core i parse s)

/-- The decode core that holds a session's claim. -/
def claimCore (s : State) (i : Nat) : Option Nat := (upTo 16).find? (fun c => decide (((s.dec c).work.map (·.1)) = some i))

/-- BUFFER_REQUEST (R346): the claimed picture's request is granted, refused (its picture is dropped), or left waiting,
in which case the core gives up the claim (R252). -/
def execBufferRequest (ses : Fin 256) (s : State) : Res :=
  rooted s (match (s.ses ses).pic with
    | none => s
    | some p =>
      if p.stage ≠ .needBuf then s else
      let g := (s.ses ses).group
      let free := fun (s : State) => match claimCore s ses with
        | some c => coreDone c s
        | none => s
      let refuse := fun (status : Nat) (s : State) => dropPicture ses status (free s)
      if (s.pool g).state ≠ .running ∨ (sizeClass s ses).isNone then refuse 0x0503 s
      else if !underQuota s ses (sesUse s ses) then
        refuse 0x0502 (modPool g (fun q => { q with quotaRefused := satAdd q.quotaRefused 1 }) s)
      else if grantable s ses ∧ !((s.pool g).waits.any (fun w => grantable s w.ses)) then
        match allocate ses s with
        | some (h, s) => modSes ses (fun x => { x with pic := some { p with stage := .decoding, handle := some h } }) s
        | none => s
      else
        let s := modPool g (fun q => { q with waits := q.waits ++ [{ ses := ses, since := s.now }] }) s
        free (modSes ses (fun x => { x with pic := some { p with stage := .waitBuf, given := 0 } }) s))

/-- Luma samples and bits of the unit a core holds (R250). -/
def unitCost (x : Session) (p : Pic) (u : Nat) : Nat × Nat :=
  if bit x.cfg 31 then p.parse.units.getD u (0, 0)
  else ((p.parse.units.map (·.1)).foldl (· + ·) 0, (p.parse.units.map (·.2)).foldl (· + ·) 0)

/-- The session's picture after a unit's blocks are written to its buffer or, streamed, come with the unit. -/
def writeBlocks (i : Nat) (blocks : List PicBlock) (s : State) : State :=
  match (s.ses i).pic with
  | none => s
  | some p =>
    let depth := (sesGeom (s.ses i)).depth
    let bs := blocks.map (blockBytes s i p.parse depth)
    let p := blockFlags s i bs blocks p
    let s := modSes i (fun x => { x with pic := some p }) s
    match p.handle with
    | some h => forEach (blocks.zip bs) (fun b s => dramWrite (handleAddr s h + b.1.off) b.2 s) s
    | none => s

/-- DECODE_UNIT_COMPLETE (R250, R253): the unit's blocks, and the cycles it waited for DRAM. -/
def execDecodeUnitComplete (core : Fin 16) (blocks : List PicBlock) (memStall : Nat) (s : State) : Res :=
  rooted s (match (s.dec core).work with
    | none => s
    | some (i, u) =>
      match (s.ses i).pic with
      | none => s
      | some p =>
        if p.stage ≠ .decoding then s else
        let (l, b) := unitCost (s.ses i) p u
        let cycles := max l ((b + 1) / 2) + (if core.val ∈ p.cores then 0 else 2000) + memStall
        let s := writeBlocks i blocks s
        let s := modDec core (fun d => { d with
          busy := satAdd d.busy cycles, units := satAdd d.units 1, stallMem := satAdd d.stallMem memStall }) s
        let s := modSes i (fun x => { x with pic := x.pic.map (fun p => { p with done := p.done + 1, cores := core.val :: p.cores }) }) s
        let s := coreDone core s
        if p.done + 1 ≥ picUnits (s.ses i) p then completePicture i s else sesAbandon i s)

/-- The streamed job of a session's picture. -/
def streamJob (s : State) (k i : Nat) (ts : DWord) : Option ScJob :=
  (s.scl k).jobs.find? (fun j => decide (j.kind = .streamed ∧ j.source = i ∧ j.ts = ts))
def modStreamJob (k i : Nat) (ts : DWord) (f : ScJob → ScJob) (s : State) : State :=
  modScl k (fun c => { c with jobs := c.jobs.map (fun j => if j.kind = .streamed ∧ j.source = i ∧ j.ts = ts then f j else j) }) s

/-- STREAMED_ROW (R256): one row goes to the scaler under a row credit. `creditStall` counts the cycles the core waited
for it. A job that ended without a program takes its rows nowhere. -/
def execStreamedRow (core : Fin 16) (blocks : List PicBlock) (creditStall : Nat) (s : State) : Res :=
  rooted s (match (s.dec core).work with
    | none => s
    | some (i, _) =>
      match (s.ses i).pic with
      | none => s
      | some p =>
        match p.scaler with
        | none => s
        | some k =>
          let stall := modDec core (fun d => { d with stallCredit := satAdd d.stallCredit creditStall, busy := satAdd d.busy creditStall })
          match streamJob s k i p.au.ts with
          | none => stall (writeBlocks i blocks s)
          | some j =>
            if j.credits = 0 then s else
            let depth := (sesGeom (s.ses i)).depth
            let bs := (blocks.map (fun b => (b.off, blockBytes s i p.parse depth b)))
            let s := stall (writeBlocks i blocks s)
            modStreamJob k i p.au.ts (fun j => { j with
              credits := j.credits - 1, queued := j.queued + 1
              rows := bs.foldl (fun t b => b.2.zipIdx.foldl (fun t x => Table.set 0 t (b.1 + x.2) x.1.1) t) j.rows
              rowPoison := bs.foldl (fun t b => b.2.zipIdx.foldl (fun t x => Table.set false t (b.1 + x.2) x.1.2) t) j.rowPoison }) s)

/-- The first job that `p` accepts is changed. -/
def modJobFirst (p : ScJob → Bool) (f : ScJob → ScJob) : List ScJob → List ScJob
  | [] => []
  | j :: js => if p j then f j :: js else j :: modJobFirst p f js

/-- SCALER_ROW_CREDIT (R283): the oldest streamed job with a row waiting consumes one and returns its credit. -/
def execScalerRowCredit (scaler : Fin 8) (s : State) : Res :=
  rooted s (modScl scaler (fun c => { c with
    jobs := modJobFirst (fun j => decide (j.kind = .streamed ∧ j.queued > 0))
      (fun j => { j with queued := j.queued - 1, credits := j.credits + 1 }) c.jobs }) s)

/-- ENABLE and DISABLE under Table 9.6. -/
def CoreState.enable : CoreState → CoreState
  | .disabled => .idle
  | .stopping => .stoppingPendingEnable
  | x => x
def CoreState.disable : CoreState → CoreState
  | .idle => .disabled
  | .busy => .stopping
  | .stoppingPendingEnable => .stopping
  | x => x

def decEnable (core : Nat) : State → State := modDec core (fun d => { d with state := d.state.enable })
def decDisable (core : Nat) : State → State := modDec core (fun d => { d with state := d.state.disable })
/-- DECODER_ENABLE (R262) -/
def execDecoderEnable (core : Fin 16) (s : State) : Res := .next (guard (vcdBase + 0x104 + 0x20 * core) (decEnable core) s)
/-- DECODER_DISABLE (R262) -/
def execDecoderDisable (core : Fin 16) (s : State) : Res := .next (guard (vcdBase + 0x104 + 0x20 * core) (decDisable core) s)

/-! ### Encode cores (R263–R267) -/

def encEnable (core : Nat) (s : State) : State := assignEnc (modEnc core (fun d => { d with state := d.state.enable }) s)
def encDisable (core : Nat) : State → State := modEnc core (fun d => { d with state := d.state.disable })
/-- ENCODER_ENABLE (R267) -/
def execEncoderEnable (core : Fin 4) (s : State) : Res := .next (guard (vcdBase + 0x404 + 0x20 * core) (encEnable core) s)
/-- ENCODER_DISABLE (R267) -/
def execEncoderDisable (core : Fin 4) (s : State) : Res := .next (guard (vcdBase + 0x404 + 0x20 * core) (encDisable core) s)

/-- Whole filler NAL units of at least `n` bytes, headers included (R265). -/
def fillerNal (codec n : Nat) : List Byte :=
  let head : List Byte := if codec = 1 then [0, 0, 0, 1, 0x4C, 0x01] else [0, 0, 0, 1, 0x0C]
  head ++ List.replicate (n - head.length - 1) 0xFF ++ [0x80]

/-- The picture on core `e` leaves it: its mark and core are released, and the request goes on. -/
def encEnd (e : Nat) (r : MediaReq) (p : EncPic) (s : State) : State :=
  let s := modReq r.route r.reqId (fun r => { r with queue := r.queue.drop 1, core := none }) s
  let s := mark p.handle .useDown (encFree e s)
  assignEnc (reqSettle r.route r.reqId s)

/-- The request ends with a status, its waiting pictures given back (R330, R266). -/
def encStop (e status : Nat) (r : MediaReq) (p : EncPic) (s : State) : State :=
  let s := forEach (r.queue.drop 1) (fun q s => mark q.handle .useDown s) s
  let s := modReq r.route r.reqId (fun r => { r with state := .finishing, status := status, queue := r.queue.take 1 }) s
  encEnd e r p s

/-- Emit an encoded picture: written at DST, or the request ends before it (R330); the fullness is carried on (R265). -/
def encEmit (e : Nat) (r : MediaReq) (p : EncPic) (data : List Byte) (s : State) : State :=
  let rated := encCodec r.params ≠ 2 ∧ encMode r.params ≠ 0
  let cbr := decide (encMode r.params = 1)
  let b90 := encRate r.params * encTicks r.params
  let cpb90 := encCpb r.params * 90
  let lo := if rated ∧ cbr then r.f90 + b90 - cpb90 else 0
  let data := if 720 * data.length < lo then data ++ fillerNal (encCodec r.params) (cdiv (lo - 720 * data.length) 720) else data
  if r.bytes + data.length > r.dstBytes then encStop e 0x0803 r p s
  else
    let g := (s.ses r.ses).group
    let s := dramPut (groupBase s g + (r.dst.toNat + r.bytes)) data s
    let f := r.f90 - 720 * data.length
    let s := modReq r.route r.reqId (fun r => { r with
      bytes := r.bytes + data.length, pictures := r.pictures + 1, lastTs := p.ts
      firstTs := if r.pictures = 0 then p.ts else r.firstTs
      state := if r.clip then r.state else .finishing
      f90 := if rated then (if cbr then f + b90 else min (f + b90) cpb90) else r.f90 }) s
    encEnd e r p (modEnc e (fun x => { x with pictures := satAdd x.pictures 1 }) s)

/-- Another attempt of the picture on core `e`. -/
def encRetry (r : MediaReq) (f : EncPic → EncPic) (s : State) : State :=
  modReq r.route r.reqId (fun r => { r with queue := match r.queue with
    | [] => []
    | p :: ps => f p :: ps }) s

/-- ENCODE_ATTEMPT_COMPLETE (R265, R266): `qp` is what rate control took for a first attempt, `data` the bytes the
attempt made; a fallback picture has at most S_I or S_P bits. -/
def execEncodeAttemptComplete (core : Fin 4) (qp : Nat) (data : List Byte) (s : State) : Res :=
  rooted s (match s.media.requests.find? (fun r => decide (r.core = some core.val)) with
    | none => s
    | some r =>
      match r.queue with
      | [] => s
      | p :: _ =>
        let s0 := s
        let s := modEnc core (fun x => { x with busy := satAdd x.busy (2 * (encWidth r.params * encHeight r.params) + 2000) }) s
        let retry := modEnc core (fun x => { x with retries := satAdd x.retries 1 })
        if encCodec r.params = 2 then
          let quality := max 1 (encQuality r.params - 10 * p.tries)
          if data.length ≤ encMaxBytes r.params then encEmit core r p data s
          else if quality = 1 then encStop core 0x0806 r p s
          else retry (encRetry r (fun p => { p with tries := p.tries + 1 }) s)
        else if encMode r.params = 0 then encEmit core r p data s
        else if p.fallback then
          if 8 * data.length > (if p.idr then 4 else 1) * encUnits r.params + 2048 then s0
          else encEmit core r p data (modEnc core (fun x => { x with fallback := satAdd x.fallback 1 }) s)
        else
          let q := if p.tries = 0 then min (max qp (encQpMin r.params)) (encQpMax r.params) else p.qp
          if 720 * data.length ≤ r.f90 then encEmit core r p data s
          else if p.tries < 2 ∧ q < encQpMax r.params then
            retry (encRetry r (fun p => { p with tries := p.tries + 1, qp := min (q + 6) (encQpMax r.params) }) s)
          else encRetry r (fun p => { p with fallback := true }) s)

/-! ### Counters (R269) -/

/-- VCD_CLEAR_SES (R269) -/
def clearVcdSes (s : State) : State :=
  modMedia (fun m => { m with sessions := Table.remap Session.dflt (fun _ x =>
    { x with concealedCount := 0, pictures := 0, dropped := 0 }) m.sessions }) s
def execVcdClearSes (s : State) : Res := .next (guard (vcdBase + 4) clearVcdSes s)
/-- VCD_CLEAR_ENC (R269) -/
def clearVcdEnc (s : State) : State :=
  modMedia (fun m => { m with encoders := Table.remap Encoder.dflt (fun _ x =>
    { x with busy := 0, pictures := 0, retries := 0, fallback := 0 }) m.encoders }) s
def execVcdClearEnc (s : State) : Res := .next (guard (vcdBase + 4) clearVcdEnc s)
/-- VCD_CLEAR_DEC (R269) -/
def clearVcdDec (s : State) : State :=
  modMedia (fun m => { m with decoders := Table.remap Decoder.dflt (fun _ x =>
    { x with busy := 0, units := 0, stallCredit := 0, stallMem := 0 }) m.decoders }) s
def execVcdClearDec (s : State) : Res := .next (guard (vcdBase + 4) clearVcdDec s)

end Sys2Proof.Machine
end

