-- ==== Sys2Proof/Machine/Hang.lean ====
section
/-! DEFINITION. Engine resets, mantel cores and the second's tick (R405, R406, R415, R419). -/

namespace Sys2Proof.Machine
open Sys2Proof

/-- An engine was reset (Table 16.5): ID the engine, ARG the session or group. -/
def recordReset (engine what : Nat) (s : State) : State := record 0x0801 0 engine (BitVec.ofNat 64 what) s

/-- A decode core is reset: its unit of a divided picture is concealed, an undivided picture is DECODE_FAILED (R258). -/
def decodeHang (core : Nat) (blocks : List PicBlock) (s : State) : State :=
  match (s.dec core).work with
  | none => s
  | some (i, _) =>
    match (s.ses i).pic with
    | none => s
    | some p =>
      if p.stage ≠ .decoding then s else
      let units := picUnits (s.ses i) p
      let s := recordReset core i s
      let s := writeBlocks i (blocks.map (fun b => { b with samples := none, reads := [] })) s
      let s := modSes i (fun x => { x with pic := x.pic.map (fun p => { p with
        done := p.done + 1, cores := core :: p.cores, broken := true, concealed := true
        anyOk := p.anyOk && decide (1 < units) }) }) s
      let s := coreDone core s
      if p.done + 1 ≥ units then completePicture i s else sesAbandon i s

/-- An encode core is reset: its picture goes out as the fallback picture, of bytes `data`; a JPEG attempt is made once
more, on another core where one is idle, and a second hang ends the request with a status that is not stated, a free value. -/
def encodeHang (e : Nat) (data : List Byte) (s : State) : State :=
  match s.media.requests.find? (fun r => decide (r.core = some e)) with
  | none => s
  | some r =>
    match r.queue with
    | [] => s
    | p :: _ =>
      let s := recordReset (16 + e) r.ses s
      if encCodec r.params = 2 then
        if p.fallback then
          let (st, s) := draw 16 s
          encStop e st.toNat r p s
        else
          let s := encRetry r (fun p => { p with fallback := true }) s
          let s := modReq r.route r.reqId (fun r => { r with core := none }) s
          assignEnc (encFree e (assignEnc s))
      else encEmit e r p data (modEnc e (fun x => { x with fallback := satAdd x.fallback 1 }) s)

/-- Every started job of a scaler writes its slots as zeros, marked invalid; `fuel` counts the four it can hold. -/
def finishHung : Nat → Nat → State → State
  | 0, _, s => s
  | fuel + 1, k, s =>
    match (upTo 4).find? (fun n => ((s.scl k).jobs[n]?).any (fun j => j.started)) with
    | none => s
    | some n => finishHung fuel k (finishJob k n 0 true s)

/-- A scaler is reset (R406). -/
def scalerHang (k : Nat) (s : State) : State :=
  if (s.scl k).jobs.any (fun j => j.started) then pollCrop k (finishHung 4 k (recordReset (32 + k) (s.scl k).group s)) else s

/-- ENGINE_HANG_TIMEOUT (R406): engine 0–15 decodes, 16–19 encodes, 32–39 scales. `blocks` are the places of the unit a
decode core held, `data` the fallback picture of an encode core. -/
def execEngineHangTimeout (engine : Fin 40) (blocks : List PicBlock) (data : List Byte) (s : State) : Res :=
  rooted s (if engine.val < 16 then decodeHang engine blocks s
    else if engine.val < 20 then encodeHang (engine.val - 16) data s
    else if engine.val < 32 then s
    else scalerHang (engine.val - 32) s)

/-- MANTEL_WATCHDOG_TIMEOUT: the core's tasks restart on another; recorded (R405). -/
def execMantelWatchdogTimeout (core : Byte) (s : State) : Res :=
  rooted s (if powered s then record 0x0303 0 0 (core.setWidth 64) s else s)

/-- Bin of TEMP_HIST for a reading (Table 16.6). -/
def tempBin (t : Int) : Nat := if t < 160 then 0 else min 15 (1 + ((t - 160) / 20).toNat)

/-- Entry of CLASS_TIME that this second counts in, if any (Table 16.6). -/
def classBin (s : State) : Option Nat :=
  match s.power.state with
  | .lit => some s.boot.fuses.cls
  | .banked => some 3
  | .cold | .booting | .enteringBanked | .exitingBanked | .recovery => none

/-- OP_SECOND_TICK: one more operating second, also while the root clocks are gated (R415, R419, R452). -/
def execOpSecondTick (s : State) : Res :=
  .next (if powered s = false then s else
    let bin := tempBin (logicMax s)
    let s := modSoot (fun t => { t with
      tempHist := Table.mod 0 t.tempHist bin (fun n => satAdd n 1)
      classTime := match classBin s with
        | some c => Table.mod 0 t.classTime c (fun n => satAdd n 1)
        | none => t.classTime }) s
    modRec (fun r => { r with opSeconds := satAdd r.opSeconds 1, sootAge := satAdd r.sootAge 1 }) s)

end Sys2Proof.Machine
end

