-- ==== Sys2Proof/Machine/HearthLife.lean ====
section
/-! DEFINITION. Heartbeats, hearth faults, removal, restore and test, and the HRT_ clears (R52, R53, R59–R62,
R409, R470). -/

namespace Sys2Proof.Machine
open Sys2Proof

/-- HCC_HEARTBEAT: an ACTIVE hearth's HCC increments its count (R52). -/
def execHccHeartbeat (h : Fin 32) (s : State) : Res :=
  rooted s (if (s.hearth h).state = .active then
    modHearth h (fun x => { x with heartbeat := x.heartbeat + 1, beatAt := s.now }) s else s)

/-- HEARTBEAT_TIMEOUT: cause 1 (R52, R409). -/
def execHeartbeatTimeout (h : Fin 32) (s : State) : Res := rooted s (hearthFault h 1 s)

/-- HEARTH_INTERNAL_ERROR: cause 3, HCC memory, or 4, parity (R409). -/
def execHearthInternalError (h : Fin 32) (parity : Bool) (s : State) : Res :=
  rooted s (hearthFault h (if parity then 4 else 3) s)

/-- HRT_CTRL.RETIRE: an ACTIVE hearth is removed; a latched RESTORE is cancelled; otherwise no effect (R61,
Table 2.14). -/
def retire (h : Nat) (s : State) : State :=
  match (s.hearth h).state with
  | .active => hearthFault h 5 s
  | .stoppingPendingEnable => modHearth h (fun x => { x with state := .removing }) s
  | .unassigned => s
  | .removing => s
  | .faulted => s
  | .testing => s

/-- RETIRE -/
def execRetire (h : Fin 32) (s : State) : Res := .next (guard (hearthBase h + 8) (retire h) s)

/-- HRT_CTRL.RESTORE: FAULTED starts TESTING, REMOVING latches it, STOPPING_PENDING_ENABLE ignores it, and in service or
under test the write has no effect and is recorded (R61). -/
def restore (h : Nat) (s : State) : State :=
  match (s.hearth h).state with
  | .faulted => enterTesting h s
  | .removing => modHearth h (fun x => { x with state := .stoppingPendingEnable }) s
  | .stoppingPendingEnable => s
  | .unassigned => recordWrite (hearthBase h + 8) 2 s
  | .active => recordWrite (hearthBase h + 8) 2 s
  | .testing => recordWrite (hearthBase h + 8) 2 s

/-- RESTORE -/
def execRestore (h : Fin 32) (s : State) : Res := .next (guard (hearthBase h + 8) (restore h) s)

/-- The removal's own part: stores in flight are gone, its parts of commands too, and the surviving HCCs
re-issue (R409, R59). -/
def finishRemoval (h : Nat) (s : State) : State :=
  let s := modHearth h (fun x => { x with
    cores := Table.remap Core.dflt (fun _ c => { c with stores := [], wait := none }) x.cores, ladles := [] }) (abandonArrays h s)
  let s := dropHearthParts h { s with dones := s.dones.filter (fun d => decide (d.src ≠ h)) }
  match vatOf s h with
  | none => s
  | some v => forEach (upTo 16) (reissueGroup v) s

/-- REMOVAL_COMPLETE: to FAULTED, or to TESTING when a RESTORE is latched (Table 2.10). -/
def execRemovalComplete (h : Fin 32) (s : State) : Res :=
  rooted s (match (s.hearth h).state with
    | .removing => finishRemoval h (modHearth h (fun x => { x with state := .faulted }) s)
    | .stoppingPendingEnable => enterTesting h (finishRemoval h s)
    | .unassigned => s
    | .active => s
    | .faulted => s
    | .testing => s)

/-- HEARTH_TEST_COMPLETE: the march and the self-test decide (R470, Table 2.10). -/
def execHearthTestComplete (h : Fin 32) (selfTestPass : Bool) (s : State) : Res :=
  rooted s (let x := s.hearth h
    if x.state ≠ .testing ∨ x.march.running = true then s
    else if x.march.result = 1 ∧ selfTestPass = true then modHearth h (fun x => { x with state := .unassigned }) s
    else record 0x0302 8 h (x.march.fail.setWidth 64) (modHearth h (fun x => { x with state := .faulted }) s))

def clearStallArr (h : Nat) : State → State := modCounts h (fun c => { c with stallArr := [] })
def clearStallEmb (h : Nat) : State → State := modCounts h (fun c => { c with stallEmb := [] })
def clearCmdHwm (h : Nat) (s : State) : State := modHearth h (fun x => { x with cmdHwm := cmdOcc s h }) s

/-- STALL_CLEAR_ARR; soot keeps its totals (R62). -/
def execStallClearArr (h : Fin 32) (s : State) : Res :=
  .next (guard (hearthBase h + 0x500) (clearStallArr h) s)

/-- STALL_CLEAR_EMB (R62). -/
def execStallClearEmb (h : Fin 32) (s : State) : Res :=
  .next (guard (hearthBase h + 0x500) (clearStallEmb h) s)

/-- CMD_HWM_CLEAR: HIGH_WATER reads the present occupancy (R53). -/
def execCmdHwmClear (h : Fin 32) (s : State) : Res :=
  .next (guard (hearthBase h + 0x500) (clearCmdHwm h) s)

/-- FLIT_LAND (R54, R147) -/
def execFlitLand (h : Fin 32) (port : Fin 16) (tag : Fin 16) (s : State) : Res := rooted s (landFlit h port tag s)

/-- Take one credit off the front of the credits on their way: its delay tag, and the rest. -/
def takeCredit : List (Nat × Nat) → Nat × List (Nat × Nat)
  | [] => (15, [])
  | (n, tag) :: rest => if 1 < n then (tag, (n - 1, tag) :: rest) else (tag, rest)

/-- FLUE_CREDIT_RETURN: a credit freed by a HEAD advance reaches the sender, whose waiting flit is launched (R55). The
sender's `cycles` of stall count under the credit's delay tag, or flue-full (R60). -/
def execFlueCreditReturn (h : Fin 32) (port : Fin 16) (cycles : Nat) (s : State) : Res :=
  rooted s (let o := (s.hearth h).outPort port
    let i := (s.hearth o.peer).inPort o.peerPort
    if o.valid = false ∨ i.credits = 0 then s else
    let (tag, left) := takeCredit i.creditTags
    let s := modIn o.peer o.peerPort (fun f => { f with credits := f.credits - 1, creditTags := left }) s
    let s := launchFlit h port (modOut h port (fun f => { f with credits := min f.depth (f.credits + 1) }) s)
    if ((s.hearth h).outPort port).full ∨ portWaiters s h port = false then s
    else
      let cause := if tag < 11 then tag else 5
      let s := forEach (upTo 64) (fun c s => if (s.core h c).wait = some (.flueFull port none) then
        modCore h c (fun k => { k with delay := worseTag k.delay cause }) s else s) s
      servePort h port (if cycles = 0 then s else stallEmb h cause cycles s))

/-- FLUE_DRAIN_COMPLETE: the last launched flit of a DRAINING flue has landed (R56, R147). -/
def execFlueDrainComplete (h : Fin 32) (port : Fin 16) (s : State) : Res :=
  rooted s (let o := (s.hearth h).outPort port
    if o.state ≠ .draining ∨ o.flight ≠ [] then s else flueDrained h port s)

end Sys2Proof.Machine
end

