-- ==== Sys2Proof/Machine/Vector.lean ====
section
/-! DEFINITION. The Xember vector instructions (R49, Table 2.6), one meaning over shared lane functions. -/

namespace Sys2Proof.Machine
open Sys2Proof

/-- Element types of funct3. -/
inductive Elem where
  | i8
  | i16
  | i32
  | bf
  | f32
  | f16
  deriving DecidableEq, Repr

def elemOf (n : Nat) : Option Elem :=
  match n with
  | 0 => some .i8
  | 1 => some .i16
  | 2 => some .i32
  | 3 => some .bf
  | 4 => some .f32
  | 5 => some .f16
  | _ => none

def Elem.width : Elem → Nat
  | .i8 => 8
  | .i16 => 16
  | .i32 => 32
  | .bf => 16
  | .f32 => 32
  | .f16 => 16

def Elem.lanes (e : Elem) : Nat := 128 / e.width

/-- The floating format of a type; none for integers. -/
def Elem.fmt : Elem → Option Fmt
  | .i8 => none
  | .i16 => none
  | .i32 => none
  | .bf => some bf16
  | .f32 => some fp32
  | .f16 => some fp16

/-- Lane `i` of a register as a code. -/
def lane (w : Nat) (v : Granule) (i : Nat) : Nat := v.toNat / 2 ^ (w * i) % 2 ^ w

/-- A register from its lanes. -/
def ofLanes (w : Nat) (ls : List Nat) : Granule :=
  BitVec.ofNat 128 (ls.foldr (fun x a => x % 2 ^ w + 2 ^ w * a) 0)

/-- A code as a signed integer. -/
def signedOf (w n : Nat) : Int := (BitVec.ofNat w n).toInt

/-- An integer wrapped to a code. -/
def wrapTo (w : Nat) (i : Int) : Nat := (BitVec.ofInt w i).toNat

/-- The instruction bits of a custom-0 instruction with funct7 `f7` (Table 2.6). -/
def vecBits (f7 : Nat) (o : VOp) : Word :=
  pack 32 [(0, 0x0B), (7, o.vd.val), (12, o.ty.val), (15, o.vs1.val), (20, o.vs2.val), (25, f7)]

/-- An encoding that Table 2.6 does not list: illegal, with the instruction bits in EMB_TVAL (R49, R51). -/
def vecIllegal (f7 : Nat) (o : VOp) (s : State) : State := trap o.hearth o.core trapIllegal (vecBits f7 o) s

/-- Run a register instruction: an unlisted type is illegal, a poisoned source traps (R49, R51). -/
def vecRun (f7 : Nat) (o : VOp) (srcs : List Nat) (f : Elem → Core → State → State) (s : State) : State :=
  withCore o.hearth o.core (fun k s =>
    match elemOf o.ty.val with
    | none => vecIllegal f7 o s
    | some e =>
      if srcs.any (fun r => (k.getV r).p) then trap o.hearth o.core trapPoison 0 s
      else f e k s) s

/-- Write the result register and move past the instruction. -/
def vecPut (o : VOp) (v : Granule) (s : State) : State :=
  modCore o.hearth o.core (fun k => (k.setV o.vd v false).step 4) s

/-- Lane-wise operation of vs1 and vs2. -/
def laneMap2 (e : Elem) (f : Nat → Nat → Nat) (a b : Granule) : Granule :=
  ofLanes e.width ((upTo e.lanes).map (fun i => f (lane e.width a i) (lane e.width b i)))

/-- Add, subtract, multiply of one lane: integers wrap, floats round once to nearest even. -/
def laneAdd (e : Elem) (a b : Nat) : Nat :=
  match e.fmt with
  | none => wrapTo e.width (signedOf e.width a + signedOf e.width b)
  | some f => f.encode false ((f.decode a).add (f.decode b))

def laneSub (e : Elem) (a b : Nat) : Nat :=
  match e.fmt with
  | none => wrapTo e.width (signedOf e.width a - signedOf e.width b)
  | some f => f.encode false ((f.decode a).add (f.decode b).neg)

def laneMul (e : Elem) (a b : Nat) : Nat :=
  match e.fmt with
  | none => wrapTo e.width (signedOf e.width a * signedOf e.width b)
  | some f => f.encode false ((f.decode a).mul (f.decode b))

/-- XE_VADD -/
def execXeVadd (o : VOp) (s : State) : Res :=
  rooted s (vecRun 0x00 o [o.vs1, o.vs2] (fun e k s => vecPut o (laneMap2 e (laneAdd e) (k.getV o.vs1).v (k.getV o.vs2).v) s) s)

/-- XE_VSUB -/
def execXeVsub (o : VOp) (s : State) : Res :=
  rooted s (vecRun 0x01 o [o.vs1, o.vs2] (fun e k s => vecPut o (laneMap2 e (laneSub e) (k.getV o.vs1).v (k.getV o.vs2).v) s) s)

/-- XE_VMUL -/
def execXeVmul (o : VOp) (s : State) : Res :=
  rooted s (vecRun 0x02 o [o.vs1, o.vs2] (fun e k s => vecPut o (laneMap2 e (laneMul e) (k.getV o.vs1).v (k.getV o.vs2).v) s) s)

/-- The order of two lanes: none when a NaN takes part. -/
def laneCmp (e : Elem) (a b : Nat) : Option Ordering :=
  match e.fmt with
  | none => some (compare (signedOf e.width a) (signedOf e.width b))
  | some f => (f.decode a).cmp (f.decode b)

/-- Maximum or minimum of a lane. With a NaN the manual states no result: the free value `r`. Of two equal
codes that differ (+0 and −0) it does not say which: `r` chooses. -/
def laneMaxMin (big : Bool) (e : Elem) (a b r : Nat) : Nat :=
  match laneCmp e a b with
  | none => r
  | some .eq => if a = b then a else if r % 2 = 0 then a else b
  | some .lt => if big then b else a
  | some .gt => if big then a else b

/-- Lane-wise maximum or minimum with a free value for what is not stated. -/
def vecMaxMin (big : Bool) (o : VOp) (s : State) : State :=
  vecRun (if big then 0x03 else 0x04) o [o.vs1, o.vs2] (fun e k s =>
    let (r, s) := draw 128 s
    let a := (k.getV o.vs1).v
    let b := (k.getV o.vs2).v
    vecPut o (ofLanes e.width ((upTo e.lanes).map (fun i =>
      laneMaxMin big e (lane e.width a i) (lane e.width b i) (lane e.width r i)))) s) s

/-- XE_VMAX -/
def execXeVmax (o : VOp) (s : State) : Res := rooted s (vecMaxMin true o s)

/-- XE_VMIN -/
def execXeVmin (o : VOp) (s : State) : Res := rooted s (vecMaxMin false o s)

/-- XE_VCMP: bits [1:0] of the rs2 field select eq, lt, le; 3 is not listed. The lanes compared are those of
vs1 and of the register that the whole rs2 field names (DEDUCED, log 11). -/
def execXeVcmp (o : VOp) (s : State) : Res :=
  rooted s (vecRun 0x05 o [o.vs1, o.vs2] (fun e k s =>
    let sel := o.vs2.val % 4
    if sel = 3 then vecIllegal 0x05 o s else
    let ones := 2 ^ e.width - 1
    vecPut o (laneMap2 e (fun a b =>
      match laneCmp e a b with
      | none => 0
      | some r =>
        let t := if sel = 0 then r == .eq else if sel = 1 then r == .lt else r != .gt
        if t then ones else 0) (k.getV o.vs1).v (k.getV o.vs2).v) s) s)

/-- XE_VDOT: INT8 only; vd is a source too. -/
def execXeVdot (o : VOp) (s : State) : Res :=
  rooted s (vecRun 0x08 o [o.vs1, o.vs2, o.vd] (fun e k s =>
    if e ≠ .i8 then vecIllegal 0x08 o s else
    let a := (k.getV o.vs1).v
    let b := (k.getV o.vs2).v
    let d := (k.getV o.vd).v
    vecPut o (ofLanes 32 ((upTo 4).map (fun i =>
      wrapTo 32 ((upTo 4).foldl (fun acc j => acc + signedOf 8 (lane 8 a (4 * i + j)) * signedOf 8 (lane 8 b (4 * i + j)))
        (signedOf 32 (lane 32 d i)))))) s) s)

/-- Convert one lane: nearest even; integer targets saturate and take NaN to 0; a finite value past a 16-bit
target's largest finite one gives that one (R49, R96). -/
def convLane (a b : Elem) (x : Nat) : Nat :=
  let v := match a.fmt with
    | none => FVal.ofInt (signedOf a.width x)
    | some f => f.decode x
  match b.fmt with
  | none => wrapTo b.width (v.toInt (-(2 ^ (b.width - 1) : Nat)) ((2 ^ (b.width - 1) : Nat) - 1))
  | some f => f.encode (decide (b ≠ .f32)) v

/-- XE_VCVT: the rs2 field gives the destination type. Lane i gives lane i as far as both have one; the lanes
of a narrower result that no source lane gives are free (log 11). -/
def execXeVcvt (o : VOp) (s : State) : Res :=
  rooted s (vecRun 0x10 o [o.vs1] (fun e k s =>
    match elemOf o.vs2.val with
    | none => vecIllegal 0x10 o s
    | some d =>
      let (r, s) := draw 128 s
      vecPut o (ofLanes d.width ((upTo d.lanes).map (fun i =>
        if i < e.lanes then convLane e d (lane e.width (k.getV o.vs1).v i) else lane d.width r i))) s) s)

/-- XE_VSHUF -/
def execXeVshuf (o : VOp) (s : State) : Res :=
  rooted s (vecRun 0x18 o [o.vs1, o.vs2] (fun e k s =>
    if e ≠ .i8 then vecIllegal 0x18 o s else
    let a := (k.getV o.vs1).v
    let b := (k.getV o.vs2).v
    vecPut o (ofLanes 8 ((upTo 16).map (fun i => lane 8 a (lane 8 b i % 16)))) s) s)

/-- XE_VMVX: lane (rs2 field) of vs1 to x register vd, sign-extended for integers, or x register vs1 into that lane of vd.
A lane number past the type's last lane counts modulo the lanes (DESIGN CHOICE, log 71). -/
def execXeVmvx (o : VOp) (toX : Bool) (s : State) : Res :=
  rooted s (vecRun 0x1C o (if toX then [o.vs1] else [o.vd]) (fun e k s =>
    let i := o.vs2.val % e.lanes
    if toX then
      let x := lane e.width (k.getV o.vs1).v i
      let v : Word := if e.fmt = none then BitVec.ofInt 32 (signedOf e.width x) else BitVec.ofNat 32 x
      modCore o.hearth o.core (fun k => (k.setX o.vd v false).step 4) s
    else if (k.getX o.vs1).p then trap o.hearth o.core trapPoison 0 s
    else
      let d := (k.getV o.vd).v
      vecPut o (ofLanes e.width ((upTo e.lanes).map (fun j =>
        if j = i then (k.getX o.vs1).v.toNat else lane e.width d j))) s) s)

/-- Area of a box by its corners; zero when x1 ≤ x0 or y1 ≤ y0. -/
def boxArea (x0 y0 x1 y1 : Int) : Nat := if x1 ≤ x0 ∨ y1 ≤ y0 then 0 else ((x1 - x0) * (y1 - y0)).toNat

/-- IoU of box i of two registers as an FP32 code, the exact quotient rounded once. -/
def iouLane (a b : Granule) (i : Nat) : Nat :=
  let c := fun (v : Granule) (j : Nat) => signedOf 16 (lane 16 v (4 * i + j))
  let aa := boxArea (c a 0) (c a 1) (c a 2) (c a 3)
  let ab := boxArea (c b 0) (c b 1) (c b 2) (c b 3)
  let inter := if aa = 0 ∨ ab = 0 then 0 else
    boxArea (max (c a 0) (c b 0)) (max (c a 1) (c b 1)) (min (c a 2) (c b 2)) (min (c a 3) (c b 3))
  let union := aa + ab - inter
  if union = 0 then 0 else fp32.encode false ((FVal.fin false inter 0).div (.fin false union 0))

/-- XE_IOU: lanes 0 and 1 hold the results; the manual states nothing of lanes 2 and 3. -/
def execXeIou (o : VOp) (s : State) : Res :=
  rooted s (vecRun 0x20 o [o.vs1, o.vs2] (fun e k s =>
    if e ≠ .i16 then vecIllegal 0x20 o s else
    let (r, s) := draw 64 s
    let a := (k.getV o.vs1).v
    let b := (k.getV o.vs2).v
    vecPut o (ofLanes 32 [iouLane a b 0, iouLane a b 1, lane 32 (r.setWidth 128) 0, lane 32 (r.setWidth 128) 1]) s) s)

/-- One FP16 delta clamped to [−4, 4] as (numerator, k) of n / 2^24; none for NaN. -/
def deltaClamp (c : Nat) : Option Int :=
  match fp16.decode c with
  | .nan => none
  | .inf sg => some (if sg then -(4 * 2 ^ 24) else 4 * 2 ^ 24)
  | .fin sg m ex =>
    let v := sInt sg (m * 2 ^ (ex + 24).toNat)
    some (max (-(4 * 2 ^ 24)) (min (4 * 2 ^ 24) v))

/-- Round n / 2^97 to nearest even and saturate to 0–32,767. -/
def cornerOf (n : Int) : Nat := (max 0 (min 32767 (rneDivInt n (2 ^ 97)))).toNat

/-- Corners of one axis: centre c + d × w, extent w × e^dw, in 1/8 pixel (Table 2.6 notes). An infinite dx
saturates both corners; a NaN delta, or an infinity times 0, has no stated result. -/
def bdecAxis (c w : Int) (d dw : Nat) (r : Nat × Nat) : Nat × Nat :=
  match deltaClamp dw with
  | none => r
  | some y =>
    let half := w * expScaled y 24
    match fp16.decode d with
    | .nan => r
    | .inf sg => if w = 0 then r else if (sg = true) ≠ (w < 0) then (0, 0) else (32767, 32767)
    | .fin sg m ex =>
      let ctr := c * 2 ^ 97 + sInt sg (m * 2 ^ (ex + 24).toNat) * w * 2 ^ 73
      (cornerOf (ctr - half), cornerOf (ctr + half))

/-- Box i of xe.bdec as (x0, y0, x1, y1). -/
def bdecBox (a d : Granule) (i : Nat) (r : Granule) : List Nat :=
  let s := fun j => signedOf 16 (lane 16 a (4 * i + j))
  let f := fun j => lane 16 d (4 * i + j)
  let x := bdecAxis (s 0) (s 2) (f 0) (f 2) (lane 16 r (4 * i), lane 16 r (4 * i + 2))
  let y := bdecAxis (s 1) (s 3) (f 1) (f 3) (lane 16 r (4 * i + 1), lane 16 r (4 * i + 3))
  [x.1, y.1, x.2, y.2]

/-- XE_BDEC -/
def execXeBdec (o : VOp) (s : State) : Res :=
  rooted s (vecRun 0x24 o [o.vs1, o.vs2] (fun e k s =>
    if e ≠ .f16 then vecIllegal 0x24 o s else
    let (r, s) := draw 128 s
    let a := (k.getV o.vs1).v
    let d := (k.getV o.vs2).v
    vecPut o (ofLanes 16 (bdecBox a d 0 r ++ bdecBox a d 1 r)) s) s)

/-- One compare-exchange step over 8 pairs of (key, value) words: distance 2^[1:0], direction [2], block size
2^([4:3] + 1), whose odd blocks sort the other way (PRESUMED, log 11). Equal keys stay. -/
def bsortStep (imm : Nat) (ps : List Nat) : List Nat :=
  let d := 2 ^ (imm % 4)
  let big := decide (imm / 4 % 2 = 1)
  let blk := 2 ^ (imm / 8 % 4 + 1)
  (upTo 8).foldl (fun ps i =>
    if i % (2 * d) < d ∧ i + d < 8 then
      let x := ps.getD i 0
      let y := ps.getD (i + d) 0
      let kx := signedOf 16 (x / 65536)
      let ky := signedOf 16 (y / 65536)
      let bigHere := if i / blk % 2 = 0 then big else !big
      if (bigHere && decide (kx < ky)) || (!bigHere && decide (ky < kx)) then setAt (setAt ps i y) (i + d) x else ps
    else ps) ps

/-- XE_BSORT: register pairs vs1, vs1 + 1 and vd, vd + 1, both even; distance code 3 is not listed. -/
def execXeBsort (o : VOp) (s : State) : Res :=
  rooted s (vecRun 0x28 o [o.vs1, o.vs1.val + 1] (fun e k s =>
    if e ≠ .i16 ∨ o.vs1.val % 2 = 1 ∨ o.vd.val % 2 = 1 ∨ o.vs2.val % 4 = 3 then vecIllegal 0x28 o s else
    let ps := (upTo 4).map (lane 32 (k.getV o.vs1).v) ++ (upTo 4).map (lane 32 (k.getV (o.vs1.val + 1)).v)
    let qs := bsortStep o.vs2.val ps
    modCore o.hearth o.core (fun k =>
      ((k.setV o.vd (ofLanes 32 (qs.take 4)) false).setV (o.vd.val + 1) (ofLanes 32 (qs.drop 4)) false).step 4) s) s)

end Sys2Proof.Machine
end

