-- ==== Sys2Proof/Machine/Isa.lean ====
section
/-! DEFINITION. The instruction at an ember core's program counter: the instruction cache, the encodings of RV32IMC and
of Tables 2.4 and 2.6, and what each does (R45, R49, R51). RV32IMC itself is RISC-V's (PRESUMED, assumption log 72). -/

namespace Sys2Proof.Machine
open Sys2Proof

/-! ### Fields and encodings -/

def instOp (w : Word) : Nat := bits w 6 0
def instRd (w : Word) : Nat := bits w 11 7
def instF3 (w : Word) : Nat := bits w 14 12
def instRs1 (w : Word) : Nat := bits w 19 15
def instRs2 (w : Word) : Nat := bits w 24 20
def instF7 (w : Word) : Nat := bits w 31 25
def fin32 (n : Nat) : Fin 32 := Fin.ofNat 32 n

/-- Immediates of the I, S, B, U and J forms. -/
def immI (w : Word) : BitVec 12 := w.extractLsb' 20 12
def immS (w : Word) : BitVec 12 := w.extractLsb' 25 7 ++ w.extractLsb' 7 5
def immB (w : Word) : Word :=
  (w.extractLsb' 31 1 ++ w.extractLsb' 7 1 ++ w.extractLsb' 25 6 ++ w.extractLsb' 8 4 ++ 0#1).signExtend 32
def immU (w : Word) : Word := w.extractLsb' 12 20 ++ 0#12
def immJ (w : Word) : Word :=
  (w.extractLsb' 31 1 ++ w.extractLsb' 12 8 ++ w.extractLsb' 20 1 ++ w.extractLsb' 21 10 ++ 0#1).signExtend 32

def encR (op f3 f7 rd rs1 rs2 : Nat) : Word := pack 32 [(0, op), (7, rd), (12, f3), (15, rs1), (20, rs2), (25, f7)]
def encI (op f3 rd rs1 : Nat) (imm : BitVec 12) : Word := pack 32 [(0, op), (7, rd), (12, f3), (15, rs1), (20, imm.toNat)]
def encS (f3 rs1 rs2 imm : Nat) : Word :=
  pack 32 [(0, 0x23), (7, imm % 32), (12, f3), (15, rs1), (20, rs2), (25, imm / 32)]
def encB (f3 rs1 : Nat) (imm : BitVec 13) : Word :=
  pack 32 [(0, 0x63), (7, bits imm 11 11), (8, bits imm 4 1), (12, f3), (15, rs1), (25, bits imm 10 5), (31, bits imm 12 12)]
def encJ (rd : Nat) (imm : BitVec 21) : Word :=
  pack 32 [(0, 0x6F), (7, rd), (12, bits imm 19 12), (20, bits imm 11 11), (21, bits imm 10 1), (31, bits imm 20 20)]

/-! ### Compressed instructions -/

/-- Offset of c.j and c.jal. -/
def cjOff (c : Half) : BitVec 21 :=
  (c.extractLsb' 12 1 ++ c.extractLsb' 8 1 ++ c.extractLsb' 9 2 ++ c.extractLsb' 6 1 ++ c.extractLsb' 7 1 ++
    c.extractLsb' 2 1 ++ c.extractLsb' 11 1 ++ c.extractLsb' 3 3 ++ 0#1).signExtend 21
/-- Offset of c.beqz and c.bnez. -/
def cbOff (c : Half) : BitVec 13 :=
  (c.extractLsb' 12 1 ++ c.extractLsb' 5 2 ++ c.extractLsb' 2 1 ++ c.extractLsb' 10 2 ++ c.extractLsb' 3 2 ++ 0#1).signExtend 13
/-- The 6-bit immediate of the c.addi family. -/
def ciImm (c : Half) : BitVec 12 := (c.extractLsb' 12 1 ++ c.extractLsb' 2 5).signExtend 12

/-- Quadrant 0. -/
def expand0 (c : Half) : Option Word :=
  let rd := 8 + bits c 4 2
  let rs := 8 + bits c 9 7
  let off := bits c 5 5 * 64 + bits c 12 10 * 8 + bits c 6 6 * 4
  match bits c 15 13 with
  | 0 =>
    let imm := bits c 10 7 * 64 + bits c 12 11 * 16 + bits c 5 5 * 8 + bits c 6 6 * 4
    if imm = 0 then none else some (encI 0x13 0 rd 2 (BitVec.ofNat 12 imm))
  | 2 => some (encI 0x03 2 rd rs (BitVec.ofNat 12 off))
  | 6 => some (encS 2 rs rd off)
  | _ => none

/-- Quadrant 1. -/
def expand1 (c : Half) : Option Word :=
  let rd := bits c 11 7
  let rs := 8 + bits c 9 7
  let rs2 := 8 + bits c 4 2
  let sh := bits c 6 2
  match bits c 15 13 with
  | 0 => some (encI 0x13 0 rd rd (ciImm c))
  | 1 => some (encJ 1 (cjOff c))
  | 2 => some (encI 0x13 0 rd 0 (ciImm c))
  | 3 =>
    if ciImm c = 0 then none
    else if rd = 2 then
      let imm : BitVec 10 := c.extractLsb' 12 1 ++ c.extractLsb' 3 2 ++ c.extractLsb' 5 1 ++ c.extractLsb' 2 1 ++ c.extractLsb' 6 1 ++ 0#4
      some (encI 0x13 0 2 2 (imm.signExtend 12))
    else some (pack 32 [(0, 0x37), (7, rd), (12, ((ciImm c).signExtend 20).toNat)])
  | 4 =>
    match bits c 11 10 with
    | 0 => if bit c 12 then none else some (encR 0x13 5 0 rs rs sh)
    | 1 => if bit c 12 then none else some (encR 0x13 5 0x20 rs rs sh)
    | 2 => some (encI 0x13 7 rs rs (ciImm c))
    | _ => if bit c 12 then none else
      match bits c 6 5 with
      | 0 => some (encR 0x33 0 0x20 rs rs rs2)
      | 1 => some (encR 0x33 4 0 rs rs rs2)
      | 2 => some (encR 0x33 6 0 rs rs rs2)
      | _ => some (encR 0x33 7 0 rs rs rs2)
  | 5 => some (encJ 0 (cjOff c))
  | 6 => some (encB 0 rs (cbOff c))
  | _ => some (encB 1 rs (cbOff c))

/-- Quadrant 2. -/
def expand2 (c : Half) : Option Word :=
  let rd := bits c 11 7
  let rs2 := bits c 6 2
  match bits c 15 13 with
  | 0 => if bit c 12 then none else some (encR 0x13 1 0 rd rd rs2)
  | 2 => if rd = 0 then none else some (encI 0x03 2 rd 2 (BitVec.ofNat 12 (bits c 3 2 * 64 + bits c 12 12 * 32 + bits c 6 4 * 4)))
  | 4 =>
    if rs2 ≠ 0 then some (encR 0x33 0 0 rd (if bit c 12 then rd else 0) rs2)
    else if rd ≠ 0 then some (encI 0x67 0 (b2n (bit c 12)) rd 0)
    else if bit c 12 then some 0x00100073 else none
  | 6 => some (encS 2 2 rs2 (bits c 8 7 * 64 + bits c 12 9 * 4))
  | _ => none

/-- The 32-bit instruction that a compressed one stands for; none where it is not listed. -/
def expandC (c : Half) : Option Word :=
  match bits c 1 0 with
  | 0 => expand0 c
  | 1 => expand1 c
  | 2 => expand2 c
  | _ => none

/-! ### Integer arithmetic -/

/-- RV32I's register and immediate operations; `alt` is subtraction or the arithmetic shift. -/
def aluOp (f3 : Nat) (alt : Bool) (a b : Word) : Word :=
  match f3 with
  | 0 => if alt then a - b else a + b
  | 1 => a <<< (b.toNat % 32)
  | 2 => if a.toInt < b.toInt then 1 else 0
  | 3 => if a.toNat < b.toNat then 1 else 0
  | 4 => a ^^^ b
  | 5 => if alt then a.sshiftRight (b.toNat % 32) else a >>> (b.toNat % 32)
  | 6 => a ||| b
  | _ => a &&& b

/-- The M extension: a division by zero gives all ones and leaves the dividend, and an overflowing one wraps. -/
def mulDiv (f3 : Nat) (a b : Word) : Word :=
  match f3 with
  | 0 => a * b
  | 1 => BitVec.ofInt 32 (a.toInt * b.toInt / 2 ^ 32)
  | 2 => BitVec.ofInt 32 (a.toInt * b.toNat / 2 ^ 32)
  | 3 => BitVec.ofNat 32 (a.toNat * b.toNat / 2 ^ 32)
  | 4 => if b = 0 then BitVec.allOnes 32 else BitVec.ofInt 32 (a.toInt.tdiv b.toInt)
  | 5 => if b = 0 then BitVec.allOnes 32 else BitVec.ofNat 32 (a.toNat / b.toNat)
  | 6 => if b = 0 then a else BitVec.ofInt 32 (a.toInt.tmod b.toInt)
  | _ => if b = 0 then a else BitVec.ofNat 32 (a.toNat % b.toNat)

/-- Whether a branch is taken; none for a form that is not listed. -/
def branchTaken (f3 : Nat) (a b : Word) : Option Bool :=
  match f3 with
  | 0 => some (decide (a = b))
  | 1 => some (decide (a ≠ b))
  | 4 => some (decide (a.toInt < b.toInt))
  | 5 => some (decide (b.toInt ≤ a.toInt))
  | 6 => some (decide (a.toNat < b.toNat))
  | 7 => some (decide (b.toNat ≤ a.toNat))
  | _ => none

/-- A register or immediate operation that is listed. -/
def aluListed (imm : Bool) (f3 f7 : Nat) : Bool :=
  if imm then (if f3 = 1 then decide (f7 = 0) else if f3 = 5 then decide (f7 = 0 ∨ f7 = 0x20) else true)
  else decide (f7 = 0 ∨ f7 = 1 ∨ (f7 = 0x20 ∧ (f3 = 0 ∨ f3 = 5)))

/-! ### CSRs (Table 2.4) -/

/-- A CSR's value; none for a number that Table 2.4 does not hold. `cycle` counts 500 MHz cycles of the model's clock. -/
def csrValue (s : State) (h c n : Nat) : Option Word :=
  let cyc : DWord := BitVec.ofNat 64 (s.now / 2)
  if n = 0xCC0 then some (BitVec.ofNat 32 c)
  else if n = 0xCC1 then some (BitVec.ofNat 32 (h + vatIndex s h * 256))
  else if n = 0xCC2 then some (BitVec.ofNat 32 (((vatOf s h).map (fun v => (vatHearths s v).length)).getD 0))
  else if n = 0xCC3 then some (BitVec.ofNat 32 (((jobOfHearth s h).map (·.1)).getD 0))
  else if n = 0xC00 then some (cyc.setWidth 32)
  else if n = 0xC80 then some ((cyc >>> 32).setWidth 32)
  else none

/-! ### One instruction -/

/-- The state that a meaning answers. -/
def stateOf (s : State) : Res → State
  | .next t => t
  | .fault _ => s
  | .refused _ => s

/-- A write of x register `rd`, and past the instruction. -/
def coreResult (h c rd n : Nat) (v : Word) (s : State) : State := modCore h c (fun k => (k.setX rd v false).step n) s

/-- A jump to `target` that links to x register `rd`. -/
def coreJump (h c rd n : Nat) (target : Word) (s : State) : State :=
  modCore h c (fun k => { (k.setX rd (k.pc + BitVec.ofNat 32 n) false) with pc := target &&& ~~~1#32 }) s

/-- Run with x registers that carry no poison (R48, Table 2.7). -/
def cleanX (h c : Nat) (k : Core) (rs : List Nat) (f : State → State) (s : State) : State :=
  if rs.any (fun r => (k.getX r).p) then trap h c trapPoison 0 s else f s

/-- The custom-0 instructions of Table 2.6 by funct7; xe.vmvx's direction has no stated place in the encoding and is a free
value (assumption log 72). -/
def vecByCode (o : VOp) (f7 : Nat) (s : State) : Option Res :=
  match f7 with
  | 0x00 => some (execXeVadd o s)
  | 0x01 => some (execXeVsub o s)
  | 0x02 => some (execXeVmul o s)
  | 0x03 => some (execXeVmax o s)
  | 0x04 => some (execXeVmin o s)
  | 0x05 => some (execXeVcmp o s)
  | 0x08 => some (execXeVdot o s)
  | 0x10 => some (execXeVcvt o s)
  | 0x18 => some (execXeVshuf o s)
  | 0x1C => let (b, s) := draw 1 s; some (execXeVmvx o (bit b 0) s)
  | 0x20 => some (execXeIou o s)
  | 0x24 => some (execXeBdec o s)
  | 0x28 => some (execXeBsort o s)
  | _ => none

/-- The instruction `w` of `n` bytes on a running core; `raw` are the bits as they stand in memory. -/
def coreInst (h : Fin 32) (c : Fin 64) (f : CoreFetch) (raw w : Word) (n : Nat) (k : Core) (s : State) : State :=
  let illegal := trap h c trapIllegal raw s
  let a := (k.getX (instRs1 w)).v
  let b := (k.getX (instRs2 w)).v
  let rd := instRd w
  let f3 := instF3 w
  let f7 := instF7 w
  match instOp w with
  | 0x37 => coreResult h c rd n (immU w) s
  | 0x17 => coreResult h c rd n (k.pc + immU w) s
  | 0x6F => coreJump h c rd n (k.pc + immJ w) s
  | 0x67 =>
    if f3 ≠ 0 then illegal
    else cleanX h c k [instRs1 w] (coreJump h c rd n (a + (immI w).signExtend 32)) s
  | 0x63 =>
    match branchTaken f3 a b with
    | none => illegal
    | some t => cleanX h c k [instRs1 w, instRs2 w]
        (modCore h c (fun k => if t then { k with pc := k.pc + immB w } else k.step n)) s
  | 0x03 =>
    if f3 ∈ [0, 1, 2, 4, 5] then
      coreLoad false h c rd (2 ^ (f3 % 4)) (decide (f3 < 2)) (k.getX (instRs1 w)) (immI w) n f.errs f.rivals s
    else illegal
  | 0x23 =>
    if f3 ≤ 2 then
      coreStore h c (k.getX (instRs1 w)) (toBytes b (2 ^ f3)) (k.getX (instRs2 w)).p (immS w) n f.tag f.rivals s
    else illegal
  | 0x13 =>
    if aluListed true f3 f7 = false then illegal
    else cleanX h c k [instRs1 w] (coreResult h c rd n (aluOp f3 (decide (f3 = 5 ∧ f7 = 0x20)) a ((immI w).signExtend 32))) s
  | 0x33 =>
    if aluListed false f3 f7 = false then illegal
    else cleanX h c k [instRs1 w, instRs2 w]
      (coreResult h c rd n (if f7 = 1 then mulDiv f3 a b else aluOp f3 (decide (f7 = 0x20)) a b)) s
  | 0x0F => if f3 = 0 then stateOf s (execFence h c s) else illegal
  | 0x73 =>
    if w = 0x00000073 then coreEcall h c k s
    else if w = 0x00100073 then coreEbreak h c s
    else if (f3 = 2 ∨ f3 = 3 ∨ f3 = 6 ∨ f3 = 7) ∧ instRs1 w = 0 then
      match csrValue s h c (bits w 31 20) with
      | none => illegal
      | some v => coreResult h c rd n v s
    else illegal
  | 0x0B =>
    let o : VOp := { hearth := h, core := c, ty := Fin.ofNat 8 f3, vd := fin32 rd, vs1 := fin32 (instRs1 w), vs2 := fin32 (instRs2 w) }
    match vecByCode o f7 s with
    | none => illegal
    | some r => stateOf s r
  | 0x2B =>
    match f3 with
    | 0 => stateOf s (execXeVld h c (fin32 rd) (fin32 (instRs1 w)) (immI w) f.errs f.rivals s)
    | 1 => stateOf s (execXeVst h c (fin32 (instRs2 w)) (fin32 (instRs1 w)) (immS w) f.rivals s)
    | 2 => stateOf s (execXeTake h c (fin32 rd) (Fin.ofNat 16 (immI w).toNat) s)
    | 3 => stateOf s (execXeDone h c (fin32 (instRs1 w)) (Fin.ofNat 16 (immI w).toNat) s)
    | 4 => stateOf s (execXeCwait h c (fin32 (instRs1 w)) (Fin.ofNat 64 (immI w).toNat) s)
    | 5 => stateOf s (execXeTrie h c (fin32 rd) (fin32 (instRs1 w)) (fin32 (instRs2 w)) s)
    | _ => illegal
  | _ => illegal

/-! ### Fetch (R45) -/

/-- Lines of the 8 KiB instruction cache. -/
def icLines : Nat := 256

/-- Bring the 32-byte line at `line` × 32 into core `c`'s instruction cache from its own hearth's scratchpad, where it is
not held yet; a full cache lets the line `evict` go, or its lowest one. -/
def icFill (h c line evict : Nat) (errs : List SpmErr) (s : State) : State :=
  let k := s.core h c
  if Table.get [] k.icache line ≠ [] then s
  else
    let (d, s) := coreFetchData h c h 0 (line * 32) 32 errs s
    modCore h c (fun k =>
      let t := k.icache
      let t := if t.length < icLines then t
        else if t.any (fun e => decide (e.1 = evict)) then Table.drop (fun x => decide (x = evict)) t else List.drop 1 t
      { k with icache := Table.set [] t line d }) s

/-- Two bytes of the instruction stream from the cache. -/
def icHalf (k : Core) (a : Nat) : Half × Bool :=
  let d := (Table.get [] k.icache (a / 32)).drop (a % 32)
  (ofBytes 16 ((d.take 2).map (·.1)), (d.take 2).any (·.2))

/-- The instruction at a core's program counter, fetched and executed. A program counter outside the own hearth's
scratchpad is an access fault, and poisoned instruction bytes are consumed poison. -/
def coreFetch (h : Fin 32) (c : Fin 64) (f : CoreFetch) (k : Core) (s : State) : State :=
  let pc := (k.pc &&& ~~~1#32).toNat
  if spmBytes ≤ pc then trap h c trapAccess k.pc s
  else if marchHolds s h pc 4 then s
  else
    let s := icFill h c (pc / 32) f.evict f.fetchErrs s
    let (lo, p) := icHalf (s.core h c) pc
    if p then trap h c trapPoison k.pc s
    else if bits lo 1 0 ≠ 3 then
      match expandC lo with
      | none => trap h c trapIllegal (lo.setWidth 32) s
      | some w => coreInst h c f (lo.setWidth 32) w 2 (s.core h c) s
    else if spmBytes ≤ pc + 2 then trap h c trapAccess k.pc s
    else
      let s := icFill h c ((pc + 2) / 32) f.evict f.fetchErrs s
      let (hi, p) := icHalf (s.core h c) (pc + 2)
      if p then trap h c trapPoison k.pc s else coreInst h c f (hi ++ lo) (hi ++ lo) 4 (s.core h c) s

/-- ECALL: the service request; with a fetch, the instruction at the program counter, whichever it is: the table has no row
for the other instructions of RV32IMC (assumption log 72). -/
def execEcall (h : Fin 32) (c : CoreTurn) (s : State) : Res :=
  rooted s (withCore h c.c (fun k s =>
    match c.fetch with
    | none => coreEcall h c.c k s
    | some f => coreFetch h c.c f k s) s)

end Sys2Proof.Machine
end

