-- ==== Sys2Proof/Machine/OpsFused.lean ====
section
/-! DEFINITION. FUSED commands: bands, stages, and the hand-overs between them through firmware hoops in the reserve
(R188–R191). -/

namespace Sys2Proof.Machine
open Sys2Proof

/-! ### Bands and rows (R188) -/

/-- Rows of X that rows [a, b) of a layer need (R188); rows of an image layer are its pixels. -/
def needed (l : Layer) (a b : Nat) : Nat × Nat :=
  if l.isGemm then (a, b) else
  let (b0, y0, _) := pixelOf l a
  let (b1, y1, _) := pixelOf l (b - 1)
  let clip := fun (i : Int) => (max 0 (min i l.hin)).toNat
  let lo := clip ((y0 * l.sh : Nat) - (l.top : Int))
  let hi := clip ((y1 * l.sh : Nat) - (l.top : Int) + (l.dh * (l.kh - 1) + 1 : Nat))
  ((b0 * l.hin + lo) * l.win, (b1 * l.hin + hi) * l.win)

/-- The rows [a, b) of M that each stage computes for the last stage's rows, last stage first. -/
def stageRanges : List Layer → Nat × Nat → List (Nat × Nat)
  | [], _ => []
  | l :: ls, r => r :: stageRanges ls (needed l r.1 r.2)

/-- The stages of a started FUSED command with their templates. -/
def Cmd.fusedStages (c : Cmd) : List (Layer × List Byte) :=
  (stageLayers (c.field 20 1) c.stages).zipIdx.map (fun p => (p.1, (c.desc.drop (64 * p.2)).take 64))

/-- Rows of M in band `i` of the final stage. -/
def bandRange (l : Layer) (i : Nat) : Nat × Nat :=
  let b := max l.band 1
  if l.isGemm then (i * b, min l.m ((i + 1) * b))
  else
    let per := max (cdiv l.hout b) 1
    let img := i / per
    let lo := i % per * b
    ((img * l.hout + lo) * l.wout, (img * l.hout + min l.hout (lo + b)) * l.wout)

/-- Cut rows [a, b) of a stage into runs of at most BAND rows of one image. `fuel` bounds the runs. -/
def bandRuns (l : Layer) : Nat → Nat → Nat → List (Nat × Nat)
  | 0, _, _ => []
  | fuel + 1, a, b =>
    if b ≤ a then [] else
    let img := if l.isGemm then b else (a / max (l.hout * l.wout) 1 + 1) * max (l.hout * l.wout) 1
    let e := min (min b (a + slotRows l)) img
    (a, e) :: bandRuns l fuel e b

/-! ### Hand-overs (R189) -/

/-- One stage of a band's run. -/
structure StageRun where
  num : Nat
  l : Layer
  d : List Byte
  /-- Rows of M that the band needs of it, in runs of BAND rows. -/
  runs : List (Nat × Nat)
  /-- The slots of its hand-over: first address, slots, bytes of one, bytes between rows. -/
  base : Nat
  slots : Nat
  slotBytes : Nat
  pitch : Nat
  deriving DecidableEq, Repr

/-- Firmware hoop and counters of the hand-over out of stage `i`: hoop 24 + i, tail counter 52 + 2i, head counter 53 + 2i
(assumption log 23). -/
def handHoop (i : Nat) : Nat := 24 + i
def handTail (i : Nat) : Nat := 52 + 2 * i
def handHead (i : Nat) : Nat := 53 + 2 * i

/-- Bytes of each hand-over of a stage list, first stage first. -/
def handoverSizes (st : List (Layer × List Byte)) : List Nat :=
  (st.zip (st.drop 1)).map (fun p => handoverBytes p.1.1 p.1.2 p.2.1)

/-- Hearth `h` holds the command's hand-over slots: hoop 24 stands at one of its blocks. -/
def handsBound (s : State) (h : Nat) (c : Cmd) : Bool :=
  let k := (s.hearth h).hoop (handHoop 0)
  decide (k.state = .bound) && (s.hearth h).reserve.any (fun r => decide (r.job = c.job.toNat ∧ r.seq = c.seq ∧ r.addr = k.base))

/-- Bind the hoops of the hand-overs from address `a` on, empty, with their counters at zero. -/
def bindHands (h : Nat) (st : List (Layer × List Byte)) (a : Nat) (s : State) : State :=
  ((st.zip (st.drop 1)).zipIdx.foldl (fun (q : Nat × State) p =>
    let ((x, y), i) := p
    let s := ctrSet h (handHead i) 0 (ctrSet h (handTail i) 0 q.2)
    (q.1 + handoverBytes x.1 x.2 y.1, modHoop h (handHoop i) (fun _ => { Hoop.dflt with
      state := .bound, tailCtr := some (handTail i), headCtr := some (handHead i), base := q.1, size := handoverSlots x.1 y.1 }) s))
    (a, s)).2

/-- Make ready the hand-overs of a command at hearth `h`; none while its reserve has no room. -/
def readyHands (h : Nat) (c : Cmd) (st : List (Layer × List Byte)) (s : State) : Option State :=
  if handsBound s h c then some s else
  let n := (handoverSizes st).foldl (· + ·) 0
  (reserveAt s h c.job.toNat n).map (fun a => bindHands h st a (takeReserve h c.job.toNat c.seq a n s))

/-- The stages of a band, last first, with the rows and slots of each. -/
def bandStages (s : State) (h : Nat) (st : List (Layer × List Byte)) (r : Nat × Nat) : List StageRun :=
  let rs := (stageRanges (st.map (·.1)).reverse r).reverse
  (((st.zip rs).zipIdx).map (fun p =>
    let ((x, r), i) := p
    let k := (s.hearth h).hoop (handHoop i)
    { num := i, l := x.1, d := x.2, runs := bandRuns x.1 (r.2 - r.1) r.1 r.2, base := k.base, slots := k.size
      slotBytes := slotRows x.1 * slotPitch x.1 x.2, pitch := slotPitch x.1 x.2 : StageRun })).reverse

/-- A run of rows that has landed in a slot: stage, first row, end, slot. -/
structure Landed where
  num : Nat
  lo : Nat
  hi : Nat
  slot : Nat
  deriving DecidableEq, Repr

/-- Read row `p` of a hand-over's stage, from the slot it last landed in, as master `m`. -/
def handRead (h m j : Nat) (g : StageRun) (ls : List Landed) (t : Touch) : XRead := fun p b n s =>
  match ls.reverse.find? (fun x => decide (x.num = g.num ∧ x.lo ≤ p ∧ p < x.hi)) with
  | none => (List.replicate n (0, true), s)
  | some x => localRead h m (g.base + x.slot * g.slotBytes + (p - x.lo) * g.pitch + b) n (.job (some j)) (touchAt t h) s

/-- The slots of stage `g` whose rows lie below `low` are done with: the head advances past them. -/
def releaseSlots (h : Nat) (g : StageRun) (low tag : Nat) (ls : List Landed) (s : State) : State :=
  let mine := ls.filter (fun x => decide (x.num = g.num))
  let gone := mine.length - ((s.hearth h).hoop (handHoop g.num)).occ
  headAdvance h (handHoop g.num) ((mine.filter (fun x => decide (x.hi ≤ low))).length - gone) (some h) tag s

/-! ### Computing a run of rows (R190) -/

/-- Rows per pass of a stage, as its layer alone would be planned (R182, R190). -/
def stageMt (l : Layer) : Nat := if l.m ≤ 512 then max l.m 1 else 512

/-- Cut rows [a, b) at multiples of a pass's rows. -/
def passRuns (mt a b : Nat) : List (Nat × Nat) :=
  (upTo (cdiv b mt - a / mt)).map (fun i => (max a ((a / mt + i) * mt), min b ((a / mt + i + 1) * mt)))

/-- Compute rows [a, b) of stage `g` on array `b`, or for a POOL on the cores; `out` takes a row, the offset in it and bytes. -/
def runStage (c : Cmd) (g : StageRun) (h b : Nat) (t : Touch) (xrd : Nat → XRead) (r : Nat × Nat)
    (out : Nat → Nat → Marked → State → State) (s : State) : State :=
  let l := g.l
  if l.isPool then
    forEach ((upTo (r.2 - r.1)).map (r.1 + ·)) (fun q s =>
      let (ds, s) := (poolTaps l q).foldl (fun (x : List Marked × State) p =>
        let (d, s) := xrd 0 p 0 (l.n * l.xSize) x.2
        (x.1 ++ [d], s)) ([], s)
      out q 0 (poolPixel l ds) s) s
  else
    forEach (passRuns (stageMt l) r.1 r.2) (fun q s =>
      forEach (upTo l.columnBlocks) (fun nb s =>
        let base := ((tileHalf s h b c)) * 512
        let s := forEach (upTo l.slices) (fun kb s =>
          tilePass l h b (xrd (4 + b)) q.1 (q.2 - q.1) kb base (decide (kb ≠ 0)) (ensureSet c l g.num h b nb kb t s)) s
        let s := drainTile c l h b g.d q.1 (q.2 - q.1) nb base (stageMt l) t
          (fun i bs s => out (q.1 + i) (nb * 128 * outSize (stageOut l g.d)) bs s) s
        modArr h b (fun x => { x with half := some (c.job, c.seq, 1 - base / 512) }) s) s) s

/-- Produce the runs of the first stage of the list, the one before it first, until rows up to `upto` have landed. Rows below
`low` are done with: before a slot is taken, those that hold them are released. -/
def produce (c : Cmd) (h b tag : Nat) (t : Touch) : List StageRun → Nat → Nat → List Landed × State → List Landed × State
  | [], _, _, q => q
  | g :: before, low, upto, q =>
    g.runs.foldl (fun q r =>
      if upto ≤ r.1 ∨ q.1.any (fun x => decide (x.num = g.num ∧ x.lo = r.1)) = true then q else
      let need := needed g.l r.1 r.2
      let q := produce c h b tag t before need.1 need.2 q
      let s := releaseSlots h g low tag q.1 q.2
      let k := (s.hearth h).hoop (handHoop g.num)
      let slot := k.tail.toNat % max g.slots 1
      let xrd := match before with
        | [] => fun m => commandX c g.l h m t
        | p :: _ => fun m => handRead h m c.job.toNat p q.1 t
      let a := g.base + slot * g.slotBytes
      let s := runStage c g h b t xrd r (fun row off d s =>
        localWrite h (a + (row - r.1) * g.pitch + off) (.job (some c.job.toNat)) (some h) tag d s) s
      (q.1 ++ [{ num := g.num, lo := r.1, hi := r.2, slot := slot }], tailAdvance h (handHoop g.num) 1 (some h) tag s)) q

/-- A band of the final stage, `g`: its rows go to Y as each run's input rows have landed; at its end every slot is free. -/
def runBand (c : Cmd) (h b tag : Nat) (t : Touch) (gs : List StageRun) (s : State) : State :=
  match gs with
  | [] => s
  | g :: before =>
    let (ls, s) := g.runs.foldl (fun q r =>
      let need := needed g.l r.1 r.2
      let (ls, s) := produce c h b tag t before need.1 need.2 q
      let xrd := match before with
        | [] => fun m => commandX c g.l h m t
        | p :: _ => fun m => handRead h m c.job.toNat p ls t
      let y := fun row off => g.l.y + row * g.l.yPitch (outSize (stageOut g.l g.d)) + off
      (ls, runStage c g h b t xrd r (fun row off d s => storeFar h c (y row off) d t s) s)) (([] : List Landed), s)
    forEach before (fun p s => releaseSlots h p (p.l.m + 1) tag ls s) s

end Sys2Proof.Machine
end

