-- ==== Sys2Proof/Machine/OpsTrack.lean ====
section
/-! DEFINITION. Trackers of the post-processing kernel: predict, match, update, create and count (R317–R319). What the manual
leaves open, the layout of a tracker's bytes among it, is in assumption log 77. -/

namespace Sys2Proof.Machine
open Sys2Proof

/-! ### FP32 arithmetic of the kernel -/

def f32OfFp16 (c : Nat) : Word := BitVec.ofNat 32 (fp32.encode false (fp16.decode c))

/-- A value rounded to the nearest integer, halves away from zero (R316); NaN gives 0 and an infinity saturates. -/
def roundAway : FVal → Int
  | .nan => 0
  | .inf s => sInt s (2 ^ 40)
  | .fin s m e => sInt s (if 0 ≤ e then m * 2 ^ e.toNat else (m + 2 ^ ((-e).toNat - 1)) / 2 ^ (-e).toNat)

def f32round (a : Word) : Int := roundAway (fp32.decode a.toNat)

def satI16 (i : Int) : Int := max (-32768) (min 32767 i)

/-! ### Post block (Table 12.1) -/

abbrev Post := List Byte

def Post.classes (p : Post) : Nat := fieldAt p 2 2
def Post.anchors (p : Post) : Nat := fieldAt p 4 2
def Post.preK (p : Post) : Nat := fieldAt p 6 2
def Post.maxDet (p : Post) : Nat := fieldAt p 8 1
def Post.confirm (p : Post) : Nat := fieldAt p 9 1
def Post.maxMiss (p : Post) : Nat := fieldAt p 10 1
def Post.scoreThr (p : Post) : Nat := fieldAt p 12 2
def Post.iouThr (p : Post) : Nat := fieldAt p 14 2
def Post.matchIou (p : Post) : Nat := fieldAt p 16 2
def Post.gain (p : Post) : Word := f32OfFp16 (fieldAt p 18 2)
def Post.vgain (p : Post) : Word := f32OfFp16 (fieldAt p 20 2)
def Post.maxTracks (p : Post) : Nat := fieldAt p 22 2
def Post.anchorAddr (p : Post) : Nat := fieldAt p 24 8
def Post.stateAddr (p : Post) : Nat := fieldAt p 32 8
def Post.flag (p : Post) (i : Nat) : Bool := bit (BitVec.ofNat 8 (fieldAt p 1 1)) i
def Post.agnostic (p : Post) : Bool := p.flag 0
def Post.track (p : Post) : Bool := p.flag 1
def Post.reportLost (p : Post) : Bool := p.flag 2
def Post.anyClass (p : Post) : Bool := p.flag 3
/-- Count line `i` as x0, y0, x1, y1. -/
def Post.line (p : Post) (i : Nat) : List Int := (upTo 4).map (fun k => signedOf 16 (fieldAt p (40 + 8 * i + 2 * k) 2))

/-- An FP16 field lies in 0.0–1.0. -/
def unitField (c : Nat) : Bool :=
  match fp16.decode c with
  | .nan => false
  | .inf _ => false
  | .fin s m e => decide (m = 0) || (!s && decide ((FVal.fin s m e).cmp (FVal.ofInt 1) ≠ some .gt))

/-- A field of the post block breaks its range (R313). -/
def Post.bad (p : Post) : Bool :=
  let out := fun (n lo hi : Nat) => decide (n < lo ∨ hi < n)
  decide (fieldAt p 0 1 ≠ 1) || out p.classes 1 1024 || out p.anchors 1 16 || out p.preK 1 4096 || out p.maxDet 1 255 ||
  out p.confirm 1 8 || out p.maxMiss 1 255 || out p.maxTracks 1 256 ||
  !([12, 14, 16, 18, 20].all (fun i => unitField (fieldAt p i 2))) || decide (p.stateAddr % 4096 ≠ 0)

/-! ### Tracker state -/

/-- States of a track that the tracker keeps or still reports (Table 12.2). -/
inductive TrackState where
  | tentative
  | confirmed
  | lost
  | ended
  deriving DecidableEq, Repr

def TrackState.code : TrackState → Nat
  | .tentative => 0
  | .confirmed => 1
  | .lost => 2
  | .ended => 3
def trackState (n : Nat) : TrackState :=
  match n with
  | 1 => .confirmed
  | 2 => .lost
  | 3 => .ended
  | _ => .tentative

/-- A track: its box as FP32 corners in picture units, its velocity per tick, and the side of each count line that its centre
was last on (0: of none yet, 1: the positive, 2: the negative). -/
structure Track where
  id : Word
  cls : Nat
  state : TrackState
  hits : Nat
  misses : Nat
  /-- Pictures since it opened. -/
  age : Nat
  sides : List Nat
  last : DWord
  box : List Word
  vx : Word
  vy : Word
  deriving DecidableEq, Repr

/-- A source's tracker; no track and no timestamp yet where its bytes are zero (R319). -/
structure Tracker where
  last : Option DWord
  next : Word
  totals : List Half
  tracks : List Track
  deriving DecidableEq, Repr

def trackBytes : Nat := 48
def trackerHead : Nat := 32
def trackerArea : Nat := 16384

def Track.toBytes (t : Track) : List Byte :=
  Machine.toBytes (pack 192 [(0, t.id.toNat), (32, t.cls), (48, t.state.code), (56, t.hits), (64, t.misses), (80, t.age),
    (96, t.sides.getD 0 0), (104, t.sides.getD 1 0), (128, t.last.toNat)] : BitVec 192) 24 ++
  (t.box ++ [t.vx, t.vy]).flatMap (fun w => Machine.toBytes w 4)

def parseTrack (b : List Byte) : Track :=
  let w := fun i => BitVec.ofNat 32 (fieldAt b i 4)
  { id := w 0, cls := fieldAt b 4 2, state := trackState (fieldAt b 6 1), hits := fieldAt b 7 1, misses := fieldAt b 8 2,
    age := fieldAt b 10 2, sides := [fieldAt b 12 1, fieldAt b 13 1], last := BitVec.ofNat 64 (fieldAt b 16 8),
    box := [w 24, w 28, w 32, w 36], vx := w 40, vy := w 44 }

def Tracker.toBytes (k : Tracker) : List Byte :=
  Machine.toBytes (pack 256 [(0, (k.last.getD 0).toNat), (64, if k.last.isSome then k.next.toNat else 0),
    (96, (k.totals.getD 0 0).toNat), (112, (k.totals.getD 1 0).toNat), (128, k.tracks.length)] : BitVec 256) trackerHead ++
  k.tracks.flatMap Track.toBytes

/-- Tracks that the head of a tracker's bytes counts. -/
def trackerCount (b : List Byte) : Nat := min (fieldAt b 16 2) 256

def parseTracker (b : List Byte) : Tracker :=
  let next := BitVec.ofNat 32 (fieldAt b 8 4)
  { last := if next = 0 then none else some (BitVec.ofNat 64 (fieldAt b 0 8)), next := if next = 0 then 1 else next,
    totals := [BitVec.ofNat 16 (fieldAt b 12 2), BitVec.ofNat 16 (fieldAt b 14 2)],
    tracks := (upTo (trackerCount b)).map (fun i => parseTrack ((b.drop (trackerHead + trackBytes * i)).take trackBytes)) }

/-! ### The tracker's steps (R318) -/

/-- A kept object of a picture: its pair's index, its key, its class, its box in picture units and its measurement. -/
structure Obj where
  pair : Nat
  key : Nat
  cls : Nat
  box : List Int
  value : Nat
  deriving DecidableEq, Repr

/-- A track after a picture, with the object that it took and the count line it crossed: (line, towards the positive side). -/
structure Tracked where
  track : Track
  obj : Option Nat
  cross : Option (Nat × Bool)
  deriving DecidableEq, Repr

/-- A box of integers as xe.iou takes it. -/
def boxGranule (b : List Int) : Granule := ofLanes 16 (b.map (wrapTo 16))
def boxIou (a b : List Int) : Nat := iouLane (boxGranule a) (boxGranule b) 0

/-- The corners of a track's box rounded to whole units and saturated to INT16. -/
def Track.corners (t : Track) : List Int := t.box.map (fun w => satI16 (f32round w))

/-- Step 1: the box moves by its velocity over `dt` ticks. -/
def Track.predict (dt : Word) (t : Track) : Track :=
  { t with
    age := min 65535 (t.age + 1)
    box := t.box.zipIdx.map (fun p => f32add p.1 (f32mul (if p.2 % 2 = 0 then t.vx else t.vy) dt)) }

/-- Step 2: pairs of track and object by descending IoU, then track id, then object. -/
def matchPairs (p : Post) (ts : List Track) (os : List Obj) : List (Nat × Nat) :=
  let pairs := ts.zipIdx.flatMap (fun t => os.zipIdx.filterMap (fun o =>
    let i := boxIou t.1.corners o.1.box
    if (p.anyClass || decide (t.1.cls = o.1.cls)) &&
        decide ((fp32.decode i).cmp (fp16.decode p.matchIou) ≠ some .lt) then
      some (((2 ^ 32 - i) * 2 ^ 32 + t.1.id.toNat) * 1024 + o.2, t.2, o.2)
    else none))
  (sortBy (·.1) pairs).map (·.2)

/-- Each track and each object is used at most once. -/
def greedy : List (Nat × Nat) → List (Nat × Nat) → List (Nat × Nat)
  | taken, [] => taken
  | taken, x :: xs => greedy (if taken.any (fun y => decide (y.1 = x.1 ∨ y.2 = x.2)) then taken else taken ++ [x]) xs

/-- The centre of corners a and b. -/
def centre (a b : Word) : Word := f32div (f32add a b) (f32ofInt 2)

/-- Step 3: box and velocity of a track that took an object. -/
def Track.update (p : Post) (ts : DWord) (dt : Word) (o : Obj) (t : Track) : Track :=
  let ob := o.box.map f32ofInt
  let at_ := fun (b : List Word) i => b.getD i 0
  let vel := fun v i => f32add v (f32div (f32mul p.vgain
    (f32sub (centre (at_ ob i) (at_ ob (i + 2))) (centre (at_ t.box i) (at_ t.box (i + 2))))) dt)
  let hits := t.hits + 1
  { t with
    box := (upTo 4).map (fun i => f32ofInt (f32round (f32add (at_ t.box i) (f32mul p.gain (f32sub (at_ ob i) (at_ t.box i))))))
    vx := vel t.vx 0
    vy := vel t.vy 1
    last := ts
    hits := if t.state = .tentative then hits else t.hits
    misses := 0
    state := match t.state with
      | .tentative => if p.confirm ≤ hits then .confirmed else .tentative
      | .confirmed | .lost | .ended => .confirmed }

/-- A track that took no object (Table 12.2); none where it is freed silently. -/
def Track.missed (p : Post) (t : Track) : Option Track :=
  match t.state with
  | .tentative => none
  | .confirmed => some { t with state := .lost, misses := 1 }
  | .lost | .ended =>
    some { t with misses := t.misses + 1, state := if p.maxMiss ≤ t.misses + 1 then .ended else .lost }

/-- Step 4: the track that an unmatched object opens. -/
def openTrack (p : Post) (id : Word) (ts : DWord) (o : Obj) : Track :=
  { id := id, cls := o.cls, state := if p.confirm = 1 then .confirmed else .tentative, hits := 1, misses := 0, age := 0,
    sides := [0, 0], last := ts, box := o.box.map f32ofInt, vx := 0, vy := 0 }

/-- The next track id: 1 after 0xFFFF_FFFF (R319). -/
def nextId (i : Word) : Word := if i = 0xFFFFFFFF then 1 else i + 1

/-- Open tracks for the objects `os` while fewer than MAX_TRACKS are live. -/
def openTracks (p : Post) (ts : DWord) : List (Obj × Nat) → Nat → Word → List Tracked × Word
  | [], _, id => ([], id)
  | o :: os, live, id =>
    if live < p.maxTracks then
      let (r, id') := openTracks p ts os (live + 1) (nextId id)
      ({ track := openTrack p id ts o.1, obj := some o.2, cross := none } :: r, id')
    else ([], id)

/-- The side of count line `i` on which a box's centre lies, its previous side where it lies on the line (step 5); none for an
unused line. -/
def lineSide (p : Post) (i : Nat) (t : Track) : Nat :=
  let l := p.line i
  let c := fun k => fp32.decode (centre (t.box.getD k 0) (t.box.getD (k + 2) 0)).toNat
  let x0 := l.getD 0 0
  let y0 := l.getD 1 0
  let dx := FVal.ofInt (l.getD 2 0 - x0)
  let dy := FVal.ofInt (l.getD 3 0 - y0)
  if l.all (fun v => decide (v = 0)) then 0 else
  match ((dx.mul ((c 1).add (FVal.ofInt (-y0)))).add (dy.mul ((c 0).add (FVal.ofInt (-x0)))).neg).cmp (FVal.ofInt 0) with
  | some .gt => 1
  | some .lt => 2
  | some .eq | none => t.sides.getD i 0

/-- Step 5 for one track: its new sides, and the lines that it crossed while CONFIRMED, each with its direction. -/
def crossings (p : Post) (t : Track) : Track × List (Nat × Bool) :=
  let new := [lineSide p 0 t, lineSide p 1 t]
  ({ t with sides := new }, (upTo 2).filterMap (fun i =>
    let a := t.sides.getD i 0
    let b := new.getD i 0
    if t.state = .confirmed ∧ a ≠ 0 ∧ b ≠ 0 ∧ a ≠ b then some (i, decide (b = 1)) else none))

/-- The track still stands in the table. -/
def Track.live (t : Track) : Bool := decide (t.state ≠ .ended)

/-- Run the tracker on a picture with timestamp `ts` (R318). On a CONCEALED picture nothing opens and nothing counts a miss
(R319). -/
def trackStep (p : Post) (ts : DWord) (concealed : Bool) (os : List Obj) (k : Tracker) : Tracker × List Tracked :=
  let dt := f32ofInt ((ts.toNat : Int) - ((k.last.getD 0).toNat : Int))
  let pred := k.tracks.map (Track.predict dt)
  let pairs := greedy [] (matchPairs p pred os)
  let kept : List Tracked := pred.zipIdx.filterMap (fun t =>
    match pairs.find? (fun x => decide (x.1 = t.2)) with
    | some x => (os[x.2]?).map (fun o => { track := t.1.update p ts dt o, obj := some x.2, cross := none })
    | none =>
      if concealed then some { track := t.1, obj := none, cross := none }
      else (t.1.missed p).map (fun t => { track := t, obj := none, cross := none }))
  let free := os.zipIdx.filter (fun o => !pairs.any (fun x => decide (x.2 = o.2)))
  let (opened, next) := if concealed then ([], k.next) else
    openTracks p ts free (kept.filter (fun t => t.track.live)).length k.next
  let done := (kept ++ opened).map (fun t => (t, crossings p t.track))
  let crossed := done.flatMap (fun t => t.2.2)
  let total := fun i => k.totals.getD i 0 + BitVec.ofNat 16 (crossed.filter (fun x => decide (x.1 = i))).length
  let out : List Tracked := done.map (fun t => { t.1 with track := t.2.1, cross := t.2.2.head? })
  ({ last := some ts, next := next, totals := [total 0, total 1],
     tracks := (out.map (·.track)).filter Track.live }, out)

end Sys2Proof.Machine
end

