-- ==== Sys2Proof/Machine/OpsPost.lean ====
section
/-! DEFINITION. Thimond's post-processing kernel: from the head output of a curd's slot to a record in an output hoop
(R313–R319, Tables 12.1–12.4). What the manual leaves open is in assumption log 77. -/

namespace Sys2Proof.Machine
open Sys2Proof

/-! ### From candidates to objects (R315) -/

/-- Bytes of one candidate. -/
def Post.stride (p : Post) : Nat := 8 + 2 * p.classes

/-- The score of pair `i` = c × CLASSES + class. -/
def Post.score (p : Post) (head : List Byte) (i : Nat) : FVal :=
  fp16.decode (fieldAt head (i / p.classes * p.stride + 8 + 2 * (i % p.classes)) 2)

/-- round(score × 65,535) as UINT16, ties to even. -/
def scoreKey (v : FVal) : Nat := ((v.mul (FVal.ofInt 65535)).toInt 0 65535).toNat

/-- Steps 1 and 2: the sorted lists, one per class, or one in all. -/
def sortedLists (p : Post) (head : List Byte) (n : Nat) : List (List Nat) :=
  let thr := fp16.decode p.scoreThr
  let kept := (upTo (n * p.classes)).filter (fun i =>
    match thr.cmp (p.score head i) with
    | some .lt | some .eq => true
    | some .gt | none => false)
  let order := sortBy (fun i => (65535 - scoreKey (p.score head i)) * (n * p.classes) + i)
  if p.agnostic then [(order kept).take (p.preK * p.classes)]
  else (upTo p.classes).map (fun k => (order (kept.filter (fun i => decide (i % p.classes = k)))).take p.preK)

/-- Step 3: the boxes of the candidates `cs` in tensor coordinates. A delta that xe.bdec gives no result for takes a free
value. -/
def decodeBoxes (p : Post) (head anchors : List Byte) : List Nat → State → List (Nat × List Nat) × State
  | [], s => ([], s)
  | c :: cs, s =>
    let (r, s) := draw 128 s
    let a : Granule := ofBytes 128 ((anchors.drop (8 * c)).take 8)
    let d : Granule := ofBytes 128 ((head.drop (c * p.stride)).take 8)
    let (bs, s) := decodeBoxes p head anchors cs s
    ((c, bdecBox a d 0 r) :: bs, s)

/-- Step 4: a pair is kept unless its IoU with a box kept before it is greater than `thr`. -/
def suppress (thr : FVal) (box : Nat → List Int) : List Nat → List Nat → List Nat
  | kept, [] => kept
  | kept, i :: is =>
    suppress thr box (if kept.any (fun k => decide ((fp32.decode (boxIou (box i) (box k))).cmp thr = some .gt)) then kept
      else kept ++ [i]) is

/-! ### Picture coordinates (R316) -/

/-- U: picture units per pixel. -/
def unitsPerPixel (width height : Nat) : Nat := if width ≤ 4095 ∧ height ≤ 4095 then 8 else 4

/-- x_pic from a tensor coordinate, in FP32. -/
def picCoord (u a0 a1 c0 cn : Nat) (x : Nat) : Word :=
  let off := f32mul (f32ofInt ((x : Int) - 8 * c0)) (f32div (f32ofInt u) (f32ofInt 8))
  let span := f32div (f32ofInt ((a1 : Int) - a0)) (f32ofInt 4)
  f32add (f32mul (f32div (f32ofInt u) (f32ofInt 4)) (f32ofInt a0)) (f32div (f32mul off span) (f32ofInt cn))

/-- Rounded, clamped to the display window and saturated. -/
def picClamp (u n : Nat) (w : Word) : Int := min (max 0 (min (f32round w) ((u * n : Nat) : Int))) 32767

/-- A box of tensor coordinates as a box of the picture, by the window and content area of its slot header. -/
def picBox (u width height : Nat) (hd : List Byte) (b : List Nat) : List Int :=
  let f := fun i => fieldAt hd i 2
  let x := fun k => picClamp u width (picCoord u (f 34) (f 38) (f 26) (f 30) (b.getD k 0))
  let y := fun k => picClamp u height (picCoord u (f 36) (f 40) (f 28) (f 32) (b.getD k 0))
  [x 0, y 1, x 2, y 3]

def emptyBox (b : List Int) : Bool := decide (b.getD 2 0 ≤ b.getD 0 0 ∨ b.getD 3 0 ≤ b.getD 1 0)

/-! ### Records (Tables 12.3, 12.4) -/

def i16 (i : Int) : Nat := wrapTo 16 i

/-- v × 90,000, rounded and saturated to INT16. -/
def velocityField (v : Word) : Nat := i16 (satI16 (f32round (f32mul v (f32ofInt 90000))))

def packBox (b : List Int) : Nat := leNat (b.flatMap (fun c => toBytes (BitVec.ofNat 16 (i16 c)) 2))

/-- An object entry; `t` is the track it reports, where it is CONFIRMED, LOST or ENDED. -/
def objEntry (cls key : Nat) (box : List Int) (value : Nat) (predicted : Bool) (t : Option Tracked) : Entry32 :=
  let cross := t.bind (·.cross)
  let f := b2n predicted + (match cross with
    | none => 0
    | some (l, pos) => (if pos then 2 else 4) + 8 * l)
  entry32 ([(0, 0x0012), (8, cls), (10, key), (12, packBox box), (21, f), (24, value)] ++ match t with
    | none => []
    | some t => [(4, t.track.id.toNat), (20, t.track.state.code), (22, t.track.age),
        (28, velocityField t.track.vx), (30, velocityField t.track.vy)])

/-- The head entry of a slot's record: of a frame record for a picture's own slot, else of a side record. -/
def recHead (c : Cmd) (version : Nat) (hd : List Byte) (coarse invalid skipped : Bool) (status entries dets : Nat) (k : Tracker) :
    Entry32 :=
  let kind := fieldAt hd 2 1
  let frame := decide (kind = 2 ∨ (kind = 0 ∧ fieldAt hd 3 1 = 0))
  let fl := fieldAt hd 18 1 % 8 + 8 * b2n invalid + 32 * b2n skipped + 128 * b2n coarse
  let live := (k.tracks.filter (fun t => decide (t.state ≠ .tentative))).length
  entry32 ([(0, if frame then 0x0010 else 0x0011), (4, fieldAt hd 0 2), (6, entries), (7, fl), (8, fieldAt hd 8 8), (16, status),
    (18, c.model.toNat), (20, version)] ++
    if frame then [(24, (k.totals.getD 0 0).toNat), (26, (k.totals.getD 1 0).toNat), (30, min 255 dets), (31, min 255 live)]
    else [(24, fieldAt hd 4 4)])

/-- Hoop slots of a record: two entries each, an odd one padded with zeros. -/
def hoopSlots : List Entry32 → List (List Byte)
  | [] => []
  | [e] => [toBytes e 32 ++ List.replicate 32 0]
  | e :: f :: es => (toBytes e 32 ++ toBytes f 32) :: hoopSlots es

/-- Write a record into a general hoop and advance its TAIL; none while it has no room. -/
def putRecord (h hoop j : Nat) (es : List Entry32) (s : State) : Option State :=
  let k := (s.hearth h).hoop hoop
  let ss := hoopSlots es
  if k.state ≠ .bound ∨ k.size - k.occ < ss.length then none else
  some (tailAdvance h hoop ss.length (some h) 15 (forEach ss.zipIdx (fun x s =>
    spmWrite h (k.base + (k.tail + BitVec.ofNat 32 x.2).toNat % max k.size 1 * 64) (.job (some j)) (x.1.map (fun b => (b, false))) s) s))

/-! ### One slot -/

/-- Object entries of a picture: its objects in their order, then the tracks that the record reports without one (R319). -/
def objEntries (p : Post) (os : List Obj) (ts : List Tracked) : List Entry32 :=
  os.zipIdx.map (fun o =>
    objEntry o.1.cls o.1.key o.1.box o.1.value false
      (ts.find? (fun t => decide (t.obj = some o.2 ∧ t.track.state = .confirmed)))) ++
  ts.filterMap (fun t =>
    match t.obj, t.track.state with
    | none, .confirmed => some (objEntry t.track.cls 0 t.track.corners 0x7E00 true (some t))
    | none, .lost => if p.reportLost then some (objEntry t.track.cls 0 t.track.corners 0x7E00 true (some t)) else none
    | none, .ended => some (objEntry t.track.cls 0 t.track.corners 0x7E00 true (some t))
    | _, _ => none)

/-- The kernel's finding for a valid slot: objects kept in all, and those it reports (R315, R316). -/
def slotObjects (p : Post) (w : PostTurn) (hd head anchors : List Byte) (s : State) : Nat × List Obj × State :=
  let n := w.positions * p.anchors
  let ls := sortedLists p head n
  let cs := (upTo n).filter (fun c => ls.any (fun l => l.any (fun i => decide (i / p.classes = c))))
  let (bs, s) := decodeBoxes p head anchors cs s
  let box : Nat → List Nat := fun i => ((bs.find? (fun b => decide (b.1 = i / p.classes))).map (·.2)).getD []
  let kept := ls.flatMap (suppress (fp16.decode p.iouThr) (fun i => (box i).map (fun (v : Nat) => (v : Int))) [])
  let merged := sortBy (fun i => (65535 - scoreKey (p.score head i)) * (n * p.classes) + i) kept
  let u := unitsPerPixel w.width w.height
  let os := (merged.take p.maxDet).map (fun i =>
    ({ pair := i, key := scoreKey (p.score head i), cls := i % p.classes, box := picBox u w.width w.height hd (box i),
       value := (((w.values.find? (fun v => decide (v.1 = i / p.classes))).map (·.2.toNat)).getD 0x7E00) } : Obj))
  (kept.length, os.filter (fun o => !emptyBox o.box), s)

/-- The tracker's place in the vat's partition, and its bytes. -/
def trackerAt (p : Post) (source : Nat) : Nat := farOffset p.stateAddr + trackerArea * source
def trackerRead (s : State) (v a : Nat) : Marked :=
  let b := vatDramBase s v + a
  let hd := dramRead s b trackerHead
  hd ++ dramRead s (b + trackerHead) (trackBytes * trackerCount (hd.map (·.1)))

/-- STATUS of a slot whose outputs are suppressed (R314). -/
def suppressedStatus (hd : List Byte) (poisoned : Bool) : Nat :=
  let st := fieldAt hd 16 2
  if st ≠ 0 then st else if poisoned then 0x0604 else 0x0603

/-- ST_POST_PARAM: the command ends with a job fault (R313). -/
def postParam (c : Cmd) (s : State) : State :=
  jobFault c.job.toNat 0x0701 0 true (postJobStatus c.job.toNat 0x0701 0 c.seq.toNat s)

/-- Every earlier slot of the source in the curd has been done, on this core of this hearth (R317). -/
def slotTurn (c : Cmd) (h : Nat) (w : PostTurn) (sources : List Nat) : Bool :=
  let src := sources.getD w.slot 0xFFFF
  !c.posted.any (fun x => decide (x.1 = w.slot.val)) &&
  c.posted.all (fun x => decide (x.2.1 = src → x.2.2 = (h, w.core.val))) &&
  (upTo w.slot).all (fun i => decide (sources.getD i 0xFFFF ≠ src) || c.posted.any (fun x => decide (x.1 = i)))

/-- Write a slot's record and mark the slot done; a full hoop holds the core up and nothing changes. -/
def postRecord (c : Cmd) (h : Nat) (w : PostTurn) (source : Nat) (es : List Entry32) (s0 s : State) : State :=
  match putRecord h (16 + w.hoop.val) c.job.toNat es s with
  | none => s0
  | some s => modCmd c.job.toNat c.seq (fun c => { c with posted := c.posted ++ [(w.slot.val, source, h, w.core.val)] }) s

/-- A valid slot: its objects, its source's tracker and its record. Poison in what the core loads traps (R51). -/
def postValid (c : Cmd) (h : Nat) (w : PostTurn) (t : Touch) (p : Post) (hd : List Byte) (s0 s : State) : State :=
  let v := jobVat s c.job.toNat
  let n := w.positions * p.anchors
  let version := ((boundVersion s c.job.toNat c.model).map (·.version.toNat)).getD 0
  let (head, s) := farRead h 0 c w.head.toNat (n * p.stride) t s
  let (anchors, s) := farRead h 0 c p.anchorAddr (n * 8) t s
  let src := fieldAt hd 0 2
  let a := trackerAt p src
  let tr := if p.track then trackerRead s v a else []
  if (head ++ anchors ++ tr).any (·.2) then trap h w.core trapPoison 0 s else
  let (dets, os, s) := slotObjects p w hd (head.map (·.1)) (anchors.map (·.1)) s
  let k := parseTracker (tr.map (·.1))
  let ts : DWord := BitVec.ofNat 64 (fieldAt hd 8 8)
  let coarse := decide (unitsPerPixel w.width w.height = 4)
  let skipped := p.track && (match k.last with
    | none => false
    | some l => decide (ts ≤ l))
  let (k, tracked) := if p.track && !skipped then trackStep p ts (bit (BitVec.ofNat 8 (fieldAt hd 18 1)) 0) os k else (k, [])
  let es := (objEntries p os tracked).take 255
  let s := if p.track && !skipped then
      modVat v (fun x => { x with trackers := if a ∈ x.trackers then x.trackers else x.trackers ++ [a] })
        (dramWrite (vatDramBase s v + a) (k.toBytes.map (fun b => (b, false))) s) else s
  postRecord c h w src (recHead c version hd coarse false skipped (fieldAt hd 16 2) es.length dets k :: es) s0 s

/-- The kernel's work for one slot of a curd, on a running core of the command (R313–R319). -/
def postSlot (c : Cmd) (h : Nat) (w : PostTurn) (t : Touch) (s0 : State) : State :=
  let j := c.job.toNat
  let (p, s) := spRead h 0 j (c.field 28 4) 64 t (touchMeet t s0)
  let (ch, s) := spRead h 0 j w.curd.toNat 64 t s
  let nslots := fieldAt (ch.map (·.1)) 5 1
  let (hs, s) := spRead h 0 j (w.curd.toNat + 64) (nslots * 64) t s
  if (p ++ ch ++ hs).any (·.2) then trap h w.core trapPoison 0 s else
  let post : Post := p.map (·.1)
  if post.bad then postParam c s else
  let hdr := fun i => ((hs.map (·.1)).drop (64 * i)).take 64
  let hd := hdr w.slot.val
  let src := fieldAt hd 0 2
  if nslots ≤ w.slot.val ∨ 272 ≤ src ∨ slotTurn c h w ((upTo nslots).map (fun i => fieldAt (hdr i) 0 2)) = false then s0 else
  let valid := bit (BitVec.ofNat 64 (fieldAt (ch.map (·.1)) 8 8)) w.slot
  let poisoned := bit (BitVec.ofNat 8 (fieldAt hd 18 1)) 1
  if valid && !poisoned then postValid c h w t post hd s0 s else
  let v := jobVat s j
  let k := if post.track then parseTracker ((trackerRead s v (trackerAt post src)).map (·.1)) else parseTracker []
  let version := ((boundVersion s j c.model).map (·.version.toNat)).getD 0
  postRecord c h w src [recHead c version hd (decide (unitsPerPixel w.width w.height = 4)) true false
    (suppressedStatus hd poisoned) 0 0 k] s0 s

end Sys2Proof.Machine
end

