-- ==== Sys2Proof/Machine/OpsToken.lean ====
section
/-! DEFINITION. Thimond's tokenizer: its dictionary in scratchpad, the preparation of a prompt and the longest match by xe.trie
(R310, Table 11.8). What the manual leaves open is in assumption log 78. -/

namespace Sys2Proof.Machine
open Sys2Proof

/-! ### The dictionary -/

/-- Byte offsets of the child-table entries of a dictionary, found from the nodes `todo`. `fuel` bounds the nodes. -/
def trieEntries (d : List Byte) : Nat → List Nat → List Nat → List Nat
  | 0, _, acc => acc
  | _ + 1, [], acc => acc
  | fuel + 1, n :: ns, acc =>
    let tab := n + 8 * fieldAt d (n + 6) 2
    let es := ((upTo (min (fieldAt d (n + 4) 2) 256)).map (fun i => tab + 4 * i)).filter (fun e => decide (e ∉ acc))
    trieEntries d fuel (ns ++ es.map (fun e => 8 * fieldAt d e 3)) (acc ++ es)

/-- The dictionary as it stands at `base`: base / 8 is added to every entry's offset. -/
def placeDict (d : List Byte) (base : Nat) : List Byte :=
  let es := trieEntries d (d.length + 1) [fieldAt d 4 4] []
  es.foldl (fun o e => o.take e ++ toBytes (BitVec.ofNat 24 (fieldAt d e 3 + base / 8)) 3 ++ o.drop (e + 3)) d

/-- The kernel loads a dictionary into the hearth's scratchpad at an 8-byte-aligned base other than 0. -/
def loadDict (c : Cmd) (h : Nat) (w : DictTurn) (t : Touch) (s : State) : State :=
  if w.base.toNat % 8 ≠ 0 ∨ w.base = 0 then s else
  let (d, s) := farRead h 0 c w.src.toNat w.len t (touchMeet t s)
  if d.any (·.2) then trap h w.core trapPoison 0 s
  else spWrite h c.job.toNat w.base.toNat ((placeDict (d.map (·.1)) w.base.toNat).map (fun b => (b, false))) s

/-! ### Preparation -/

def foldCase (b : Byte) : Byte := if 0x41 ≤ b.toNat ∧ b.toNat ≤ 0x5A then b + 0x20 else b
def blank (b : Byte) : Bool := decide (b.toNat = 0x09 ∨ b.toNat = 0x0A ∨ b.toNat = 0x0D ∨ b.toNat = 0x20)

/-- Each run of blanks becomes one 0x20; `gap` says that one has just been written. -/
def squeeze : Bool → List Byte → List Byte
  | _, [] => []
  | gap, b :: bs => if blank b then (if gap then squeeze true bs else 0x20 :: squeeze true bs) else b :: squeeze false bs

/-- Steps 1 to 3 of R310. -/
def prepare (fold space : Bool) (text : List Byte) : List Byte :=
  let x := squeeze true (if fold then text.map foldCase else text)
  let x := if x.getLast? = some 0x20 then x.dropLast else x
  if space then 0x20 :: x else x

/-! ### Longest match -/

/-- Bytes of the character that a lead byte starts. -/
def charLen (b : Byte) : Nat :=
  if b.toNat / 32 = 6 then 2 else if b.toNat / 16 = 14 then 3 else if b.toNat / 8 = 30 then 4 else 1

/-- One xe.trie step of a core of hearth `h`, with the child's TERMINAL bit and token number. -/
def trieStep (h j : Nat) (t : Touch) (node : Nat) (b : Byte) (s : State) : (Nat × Bool × Nat) × Bool × State :=
  let (nd, s) := spRead h 0 j node 8 t s
  let raw := nd.map (·.1)
  let n := min (fieldAt raw 4 2) 256
  let (ts, s) := spRead h 0 j (node + 8 * fieldAt raw 6 2) (4 * n) t s
  let child := trieChild n b.toNat (fun i => ((ts.drop (4 * i)).take 4).map (·.1))
  if child = 0 then ((0, false, 0), (nd ++ ts).any (·.2), s) else
  let (cd, s) := spRead h 0 j child 4 t s
  let w := fieldAt (cd.map (·.1)) 0 4
  ((child, decide (2 ^ 31 ≤ w), w % 2 ^ 24), (nd ++ ts ++ cd).any (·.2), s)

/-- Walk the trie along the text from a node `depth` bytes below the root: length and token of the longest terminal. -/
def trieWalk (h j : Nat) (t : Touch) : List Byte → Nat → Nat → Nat × Nat → State → (Nat × Nat) × Bool × State
  | [], _, _, best, s => (best, false, s)
  | b :: bs, node, depth, best, s =>
    let ((child, terminal, tok), p, s) := trieStep h j t node b s
    if p then (best, true, s)
    else if child = 0 then (best, false, s)
    else trieWalk h j t bs child (depth + 1) (if terminal then (depth + 1, tok) else best) s

/-- Tokens of the text, as many as `room`, and whether some did not fit. `fuel` bounds the tokens. -/
def tokenLoop (h j : Nat) (t : Touch) (root unk : Nat) : Nat → List Byte → Nat → State → List Nat × Bool × Bool × State
  | 0, _, _, s => ([], false, false, s)
  | _ + 1, [], _, s => ([], false, false, s)
  | fuel + 1, b :: bs, room, s =>
    let ((len, tok), p, s) := trieWalk h j t (b :: bs) root 0 (0, unk) s
    if p then ([], false, true, s) else
    let n := if len = 0 then min (charLen b) (bs.length + 1) else len
    let (ts, cut, p, s) := tokenLoop h j t root unk fuel ((b :: bs).drop n) (room - 1) s
    if room = 0 then ([], true, p, s) else (tok :: ts, cut, p, s)

/-- The tokenizer on one prompt: MAX_TOKENS INT32 numbers at `out`, the count of tokens before EOS in a0 and the truncated flag in
a1 of the core. Poison in what it loads traps (R51). -/
def tokenize (c : Cmd) (h : Nat) (w : TokenTurn) (t : Touch) (s : State) : State :=
  let j := c.job.toNat
  let (hd, s) := spRead h 0 j w.base.toNat 32 t (touchMeet t s)
  let (tx, s) := spRead h 0 j w.prompt.toNat w.len t s
  if (hd ++ tx).any (·.2) then trap h w.core trapPoison 0 s else
  let d := hd.map (·.1)
  let fl := fieldAt d 16 1
  let text := prepare (decide (fl % 2 = 1)) (decide (fl / 2 % 2 = 1)) (tx.map (·.1))
  let max := fieldAt d 2 2
  let (ts, cut, p, s) := tokenLoop h j t (w.base.toNat + fieldAt d 4 4) (fieldAt d 8 2) text.length text (max - 2) s
  if p then trap h w.core trapPoison 0 s else
  let out := fieldAt d 10 2 :: ts ++ [fieldAt d 12 2] ++ List.replicate (max - (ts.length + 2)) (fieldAt d 14 2)
  modCore h w.core (fun x => (x.setX 10 (BitVec.ofNat 32 (ts.length + 1)) false).setX 11 (if cut then 1 else 0) false)
    (spWrite h j w.out.toNat ((out.flatMap (fun n => toBytes (BitVec.ofNat 32 n) 4)).map (fun b => (b, false))) s)

end Sys2Proof.Machine
end

