-- ==== Sys2Proof/Machine/Layers.lean ====
section
/-! DEFINITION. Layer commands and kernels: the tiles that arrays and cores run (R159, R176–R193, R286–R289). -/

namespace Sys2Proof.Machine
open Sys2Proof

/-- Ladle `l` of hearth `h` can still give its arrays a tile: from its own queue or pending range, from a steal on its way or
an index that one has brought, or by a steal from another hearth of the group. -/
def ladleTiles (s : State) (h l : Nat) (hs : List Nat) : Bool :=
  let d := (s.hearth h).ladle l
  decide (d.head < d.tail ∨ d.held ≠ []) || d.pending.isSome || d.steal.isSome ||
    (d.stealEn && hs.any (fun g => decide (g ≠ h ∧ ((s.hearth g).ladle l).head < ((s.hearth g).ladle l).tail)))

/-- An older started layer command still has tiles for hearth `h` in its ladles (R159). -/
def olderTiles (s : State) (h : Nat) (c : Cmd) : Bool :=
  s.cmds.any (fun d => decide (d.state = .executing ∧ d.execOrder < c.execOrder ∧ h ∈ d.hearths ∧
    (d.op = opGemm ∨ d.op = opConv ∨ d.op = opFused)) &&
    (match d.ladle with
      | none => false
      | some l => ladleTiles s h l (d.hearths.filter (fun g => decide ((s.hearth g).state = .active)))))

/-- Array `b` of hearth `h` can take a tile: no raw pass is in it, and no set stands in its shadow for one. -/
def arrayFree (s : State) (h b : Nat) : Bool :=
  let x := (s.hearth h).arr b
  decide (x.flight = [] ∧ x.shadow.rows = [])

/-- The next index of a ladle for an array: one it holds from a steal, else a take (R58). -/
def nextIndex (h a l : Nat) (s : State) : Option Nat × State :=
  match ((s.hearth h).ladle l).held with
  | i :: _ => (some i, s)
  | [] =>
    match ladleTake h l (.array a) s with
    | (some r, s) => (r, s)
    | (none, s) => (none, s)

/-- One tile of a GEMM or CONV on one array. -/
def layerTile (op : Nat) (job : Half) (seq : Word) (h : Nat) (w : ArrTurn) (s : State) : State :=
  match executing s job.toNat seq op with
  | none => s
  | some c =>
    match c.ladle, c.plan with
    | some l, some p =>
      if h ∉ c.hearths ∨ (s.hearth h).state ≠ .active ∨ olderTiles s h c = true ∨ arrayFree s h w.a = false then s else
      match nextIndex h w.a l s with
      | (none, s) => s
      | (some i, s) =>
        let s := withhold h w.a w.withheld (stallArrs h w.stalls (touchMeet w.touch s))
        sendDone h l i (runTile c p (tileOf c.layer p i) h w.a (stallTag w.stalls) w.touch s)
    | _, _ => s

/-- GEMM: array `a` of hearth `h` takes and runs its next tile (R182). -/
def execGemm (job : Half) (seq : Word) (h : Fin 32) (a : ArrTurn) (s : State) : Res := rooted s (layerTile opGemm job seq h a s)
/-- CONV: the same on the GEMM sizes of R176. -/
def execConv (job : Half) (seq : Word) (h : Fin 32) (a : ArrTurn) (s : State) : Res := rooted s (layerTile opConv job seq h a s)

/-- POOL: the cores of hearth `h` take the next output row of an image and write its pixels (R288, R289). -/
def execPool (job : Half) (seq : Word) (h : HearthTurn) (s : State) : Res :=
  rooted s (match executing s job.toNat seq opPool with
    | none => s
    | some c =>
      match c.ladle with
      | none => s
      | some l =>
        if h.h.val ∉ c.hearths ∨ (s.hearth h.h).state ≠ .active then s else
        match nextIndex h.h 0 l s with
        | (none, s) => s
        | (some i, s) =>
          let y := c.layer
          let s := forEach h.stalls (fun c s => stallEmb h.h c.1 c.2 s) (touchMeet h.touch s)
          let g : StageRun := { num := 0, l := y, d := [], runs := [], base := 0, slots := 0, slotBytes := 0, pitch := 0 }
          sendDone h.h l i (runStage c g h.h 0 h.touch (fun m => commandX c y h.h m h.touch) (i * y.wout, (i + 1) * y.wout)
            (fun r _ d s => storeFar h.h c (y.y + r * y.yPitch y.xSize) d h.touch s) s))

/-- FUSED: hearth `h` takes the next band, on the array that the band's number picks, and computes in every stage the rows
it needs (R188–R190). -/
def execFused (job : Half) (seq : Word) (h : HearthTurn) (s : State) : Res :=
  rooted s (match executing s job.toNat seq opFused with
    | none => s
    | some c =>
      match c.ladle, c.fusedStages.getLast? with
      | some l, some (last, _) =>
        if h.h.val ∉ c.hearths ∨ (s.hearth h.h).state ≠ .active ∨ olderTiles s h.h c = true ∨
            arrayFree s h.h 0 = false ∨ arrayFree s h.h 1 = false then s else
        match readyHands h.h c c.fusedStages s with
        | none => s
        | some s =>
          match nextIndex h.h 0 l s with
          | (none, s) => s
          | (some i, s) =>
            let s := withhold h.h (i % 2) h.withheld (stallArrs h.h h.stalls (touchMeet h.touch s))
            sendDone h.h l i (runBand c h.h (i % 2) (stallTag h.stalls) h.touch (bandStages s h.h c.fusedStages (bandRange last i)) s)
      | _, _ => s)

/-! ### Raw passes, drains and kernels (R192, R193) -/

/-- ARRAY_PASS: the pass is put into the array's queue (R192). -/
def execArrayPass (job : Half) (seq : Word) (s : State) : Res :=
  rooted s (match executing s job.toNat seq opArrayPass with
    | none => s
    | some c =>
      let ar := c.field 18 1
      let p : Pass :=
        { job := job, seq := seq, mode := ar / 32, group := ar / 8 % 4, grid := ar % 8, model := c.model, wbase := c.field 20 4,
          xbase := c.field 24 4, xStride := c.field 28 2, rows := c.field 30 2, accBase := c.field 32 2, kValid := c.field 34 2,
          nValid := c.field 36 2, mask := if c.field 40 4 = 0xFFFFFFFF then none else some (c.field 40 4),
          wait := if 128 ≤ c.field 44 1 then some (c.field 44 1 % 64, BitVec.ofNat 32 (c.field 48 4)) else none,
          acc := decide (c.opf % 2 = 1), reuse := decide (c.opf / 2 % 2 = 1), fed := [], own := none }
      if c.moved ≠ 0 then s else
      forEach c.partsLeft (fun h s => modArr h (c.field 17 1) (fun x => { x with queue := x.queue ++ [p] }) s)
        (modCmd job.toNat seq (fun c => { c with moved := 1 }) s))

/-- DRAIN: the drain is put into the array's queue, with the descriptor its start read (R82, R192). -/
def execDrain (job : Half) (seq : Word) (s : State) : Res :=
  rooted s (match executing s job.toNat seq opDrain with
    | none => s
    | some c =>
      let d : DrainRun := { job := job, seq := seq, desc := c.desc, entryBase := c.field 24 2, count := c.field 26 2, done := 0 }
      if c.moved ≠ 0 then s else
      forEach c.partsLeft (fun h s => modArr h (c.field 17 1) (fun x => { x with drains := x.drains ++ [d] }) s)
        (modCmd job.toNat seq (fun c => { c with moved := 1 }) s))

/-- CORES of a KERNEL. -/
def Cmd.kernelCores (c : Cmd) : Nat := if c.field 38 1 = 0 then 64 else c.field 38 1

/-- Start cores 0 to CORES − 1 of hearth `h` on the code at `base`, their instruction caches empty (R193). -/
def startCores (c : Cmd) (h base : Nat) (s : State) : State :=
  let a1 : Word := match c.ladle with
    | none => 0xFFFFFFFF
    | some l => BitVec.ofNat 32 l
  forEach (upTo c.kernelCores) (fun k s => modCore h k (fun x =>
    { (((x.setX 10 (BitVec.ofNat 32 (c.field 28 4)) false).setX 11 a1 false).setX 12 (BitVec.ofNat 32 (vatIndex s h)) false) with
      pc := BitVec.ofNat 32 (base + c.field 24 4), run := .running, trap := 0, wait := none, icache := [], delay := 15 }) s) s

/-- Hearth `g` copies a KERNEL's code into its reserve, waiting while that has no room, and starts its cores (R193). -/
def startKernel (c : Cmd) (g : Nat) (t : Touch) (s : State) : State :=
  let cs := upTo c.kernelCores
  let n := c.field 44 4
  if g ∉ c.partsLeft ∨ (s.hearth g).state ≠ .active ∨ cs.any (fun k => decide ((s.core g k).run ≠ .idle)) = true ∨
      c.cores.any (fun p => decide (p.1 = g)) = true then s else
  match reserveAt s g c.job.toNat n with
  | none => s
  | some a =>
    let (d, s) := farRead g 1 c (c.field 16 8) n t (touchMeet t s)
    let s := spmWrite g a (.job (some c.job.toNat)) d (takeReserve g c.job.toNat c.seq a n s)
    finishPart c.job.toNat c.seq g (modCmd c.job.toNat c.seq (fun c => { c with cores := c.cores ++ cs.map (fun k => (g, k)) })
      (startCores c g a s))

/-- Core `k` of hearth `g` runs for the command, as the kernels that the manual describes do. -/
def kernelRuns (s : State) (c : Cmd) (g k : Nat) : Bool :=
  decide ((g, k) ∈ c.cores ∧ (s.hearth g).state = .active ∧ (s.core g k).run = .running)

/-- KERNEL: the HCC of hearth `h` starts its cores (R193), or one of them does a piece of the post-processing kernel's or the
tokenizer's work (R310, R313–R319). -/
def execKernel (job : Half) (seq : Word) (h : KernelTurn) (s : State) : Res :=
  rooted s (match executing s job.toNat seq opKernel with
    | none => s
    | some c =>
      let g := h.h.val
      match h.work with
      | .start => startKernel c g h.touch s
      | .post p => if kernelRuns s c g p.core then postSlot c g p h.touch s else s
      | .dict p => if kernelRuns s c g p.core then loadDict c g p h.touch s else s
      | .tokens p => if kernelRuns s c g p.core then tokenize c g p h.touch s else s)

end Sys2Proof.Machine
end

