-- ==== Sys2Proof/Machine/Moves.lean ====
section
/-! DEFINITION. The fetch engine's commands: LOAD, STORE, FILL, the end of a transfer, prefetched weights (R173–R175,
R187). -/

namespace Sys2Proof.Machine
open Sys2Proof

def Cmd.far (c : Cmd) : Nat := c.field 16 8
def Cmd.near (c : Cmd) : Nat := c.field 24 4
def Cmd.rowBytes (c : Cmd) : Nat := c.field 28 4
def Cmd.rows (c : Cmd) : Nat := c.field 32 2
def Cmd.srcStride (c : Cmd) : Nat := c.field 36 4
def Cmd.dstStride (c : Cmd) : Nat := c.field 40 4

/-- The outbound flue port that a transfer into the vat goes to, if its row at `a` names one (R54). -/
def nearPort (s : State) (c : Cmd) (a : Nat) : Option Nat :=
  match decodeAddr s (cmdHearth s c) a with
  | .outPort p _ => if c.op = opStore then none else some p
  | _ => none

/-- One row of a LOAD, STORE or FILL. A vat-scratchpad range wraps inside its window (R26). -/
def moveRow (c : Cmd) (r : Nat) (t : Touch) (s : State) : State :=
  let h := cmdHearth s c
  let j := c.job.toNat
  let near := fun (stride : Nat) => windowAddr c.near (r * stride)
  if c.op = opLoad then
    let (d, s) := farRead h 8 c (c.far + r * c.srcStride) c.rowBytes t s
    spWrite h j (near c.dstStride) d s
  else if c.op = opStore then
    let (d, s) := spRead h 8 j (near c.srcStride) c.rowBytes t s
    farWrite h j (c.far + r * c.dstStride) d s
  else
    spWrite h j (near c.dstStride) ((upTo c.rowBytes).map (fun i => (BitVec.ofNat 8 (c.field (16 + i % 4) 1), false))) s

/-- Move up to `n` rows in order; a row for a flue without credits for it holds the engine (R55). -/
def moveMany (c : Cmd) (t : Touch) : Nat → Nat → State → Nat × State
  | 0, r, s => (r, s)
  | n + 1, r, s =>
    if c.rows ≤ r then (r, s) else
    let room := match nearPort s c (windowAddr c.near (r * c.dstStride)) with
      | none => true
      | some p => flueRoom s (cmdHearth s c) p (cdiv c.rowBytes 64)
    if room then moveMany c t n (r + 1) (moveRow c r t s) else (r, s)

/-- The engine moves the next rows. -/
def moveRows (op : Nat) (job : Half) (seq : Word) (n : MoveTurn) (s : State) : State :=
  match executing s job.toNat seq op with
  | none => s
  | some c =>
    let (k, s) := moveMany c n.touch n.n c.moved (touchMeet n.touch s)
    modCmd job.toNat seq (fun c => { c with moved := k }) s

/-- LOAD (R173) -/
def execLoad (job : Half) (seq : Word) (n : MoveTurn) (s : State) : Res := rooted s (moveRows opLoad job seq n s)
/-- STORE (R173) -/
def execStore (job : Half) (seq : Word) (n : MoveTurn) (s : State) : Res := rooted s (moveRows opStore job seq n s)
/-- FILL (R173) -/
def execFill (job : Half) (seq : Word) (n : MoveTurn) (s : State) : Res := rooted s (moveRows opFill job seq n s)

/-- FETCH_TRANSFER_COMPLETE: BUMP and ADVANCE are applied once, after the last row has landed (R174). -/
def execFetchTransferComplete (job : Half) (seq : Word) (tag : Fin 16) (s : State) : Res :=
  rooted s (match findCmd s job.toNat seq with
    | none => s
    | some c =>
      if c.state = .executing ∧ c.op ∈ [opLoad, opStore, opFill] ∧ jobRuns s job.toNat = true ∧ c.moved = c.rows ∧ c.partsLeft ≠ [] then
        let h := cmdHearth s c
        let ctl := c.field 44 1
        let s := if 128 ≤ ctl then ctrAdd h (ctl % 64) (BitVec.ofNat 32 (c.field 48 4)) (some h) tag s else s
        let s := if ctl / 64 % 2 = 1 then
            (if c.op = opStore then headAdvance h (c.field 45 1) (c.field 52 4) (some h) tag s
             else tailAdvance h (c.field 45 1) (c.field 52 4) (some h) tag s) else s
        forEach c.partsLeft (fun h s => finishPart job.toNat seq h s) s
      else s)

/-! ### Prefetched weights (R187) -/

/-- The weight sets of a tile in the order of its passes. -/
def tileSets (l : Layer) (p : Plan) (i : Nat) : List Nat :=
  let t := tileOf l p i
  dedup ((tilePasses p t).map (fun x => l.setIndex (t.block + x.2.1) (t.slice + x.2.2)))

/-- The first two weight units of hearth number `k`'s initial range of a GEMM or CONV. -/
def firstSets (l : Layer) (p : Plan) (v k : Nat) : List Nat :=
  let (a, b) := shareRange 0 (min p.u roundSize) v k
  (dedup ((((upTo 2).map (a + ·)).filter (· < b)).flatMap (tileSets l p))).take 2

/-- The layer whose weights are fetched ahead and the plan of its tiles, from what the reserve's owner reads now: a tile block
for the modes that have one, the stage list of a FUSED, whose first stage with weights runs through all its sets. -/
def aheadPlan (b : Job) (c : Cmd) (t : Touch) (s : State) : Option (Layer × Plan) × State :=
  let v := (activeHearths s b.vat).length
  let l := c.layer
  if c.op = opFused then
    let (st, s) := fwRead c (c.field 16 4) (64 * c.field 20 1) t s
    match (stageLayers (c.field 20 1) (st.map (·.1))).find? (fun l => !l.isPool) with
    | none => (none, s)
    | some l => (some (l, planAuto l v true), s)
  else if l.tileMode = 0 then (some (l, planAuto l v false), s)
  else
    let (k, s) := fwRead c l.block 16 t s
    ((planBlock l v b.fwBanks (k.map (·.1))).map (fun p => (l, p)), s)

/-- Fetch one set ahead into a free weight buffer of hearth `h`. -/
def fetchAhead (h : Nat) (c : Cmd) (l : Layer) (t : Touch) (i : Nat) (s : State) : State :=
  let j := c.job.toNat
  let a := l.w + i * l.setBytes
  if ownResident s h { c with resident := (boundVersion s j c.model).elim [] (residentTensors s (jobVat s j)) } a l.setBytes then s else
  match reserveAt s h j l.setBytes with
  | none => s
  | some p =>
    let (d, s) := farRead h 8 c a l.setBytes t s
    modCmd j c.seq (fun c => { c with prefetch := c.prefetch ++ [(h, a, p)] })
      (spmWrite h p (.job (some j)) d (takeReserve h j c.seq p l.setBytes s))

/-- WEIGHT_PREFETCH: the first weights of a WAITING GEMM, CONV or FUSED with PREFETCH_OK are copied into the reserve as they
are now, where it has room (R187). -/
def execWeightPrefetch (job : Half) (seq : Word) (h : FetchTurn) (s : State) : Res :=
  rooted s (match findCmd s job.toNat seq, s.job job.toNat with
    | some c, some b =>
      if c.state = .waiting ∧ c.prefetchOk = true ∧ (c.op = opGemm ∨ c.op = opConv ∨ c.op = opFused) ∧ h.h.val ∈ c.hearths ∧
          jobRuns s job.toNat = true ∧ c.prefetch.all (fun p => decide (p.1 ≠ h.h.val)) = true then
        match aheadPlan b c h.touch (touchMeet h.touch s) with
        | (none, s) => s
        | (some (l, p), s) =>
          forEach (firstSets l p c.hearths.length (c.hearths.findIdx (· = h.h.val))) (fetchAhead h.h c l h.touch) s
      else s
    | _, _ => s)

end Sys2Proof.Machine
end

