-- ==== Sys2Proof/Machine/Pools.lean ====
section
/-! DEFINITION. The rows of the buffer pools (R344–R352); BUFFER_REQUEST stands with the decode cores. -/

namespace Sys2Proof.Machine
open Sys2Proof

/-- ENABLE of a pool (Table 13.4). -/
def poolEnable (group : Nat) (s : State) : State :=
  match (s.pool group).state with
  | .disabled => poolOpen group s
  | .stopping => modPool group (fun p => { p with state := .stoppingPendingEnable }) s
  | .running | .stoppingPendingEnable => s
/-- POOL_ENABLE (R349) -/
def execPoolEnable (group : Fin 32) (s : State) : Res := .next (guard (bpmOff group + 0x18) (poolEnable group) s)

/-- DISABLE of an ENABLED pool: waiting requests are refused with ST_POOL_CONFIG. -/
def poolStop (g : Nat) (s : State) : State :=
  let waits := (s.pool g).waits
  let s := modPool g (fun p => { p with state := .stopping, waits := [], streak := [] }) s
  poolSettle g (forEach waits (fun w s => dropPicture w.ses 0x0503 s) s)

/-- DISABLE of a pool (Table 13.4). -/
def poolDisable (group : Nat) (s : State) : State :=
  match (s.pool group).state with
  | .running => poolStop group s
  | .stoppingPendingEnable => modPool group (fun p => { p with state := .stopping }) s
  | .disabled | .stopping => s
/-- POOL_DISABLE (R349) -/
def execPoolDisable (group : Fin 32) (s : State) : Res := .next (guard (bpmOff group + 0x18) (poolDisable group) s)

/-- BUFFER_MARK_CHANGE (R345) -/
def execBufferMarkChange (engineGroup : Fin 32) (handle : Word) (change : MarkChange) (s : State) : Res :=
  rooted s (markChange engineGroup handle change s)

/-- Waiting sessions of class `k` that hold a buffer above their floor: with two or more, each waits on the others
(R348). -/
def cycleOf (s : State) (g k : Nat) : List Nat :=
  let ws := ((s.pool g).waits.map (·.ses)).filter (fun i => decide (sizeClass s i = some k ∧ sesUse s i > sesFloor s i))
  if ws.length ≥ 2 then ws else []

/-- One pool's evaluation: a cycle that has stood for 2 ms, 21 evaluations, loses the request that began waiting last. -/
def deadlockEval (g : Nat) (s : State) : State :=
  let cyc := (upTo 4).flatMap (cycleOf s g)
  let s := modPool g (fun p => { p with streak := cyc.foldl (fun t i => Table.set 0 t i (Table.get 0 p.streak i + 1)) [] }) s
  forEach (upTo 4) (fun k s =>
    let old := (cycleOf s g k).filter (fun i => decide (Table.get 0 (s.pool g).streak i ≥ 21))
    if old.length < 2 then s else
    match ((s.pool g).waits.filter (fun w => decide (w.ses ∈ old))).getLast? with
    | none => s
    | some w =>
      let s := modPool g (fun p => { p with
        waits := p.waits.filter (fun v => v.ses ≠ w.ses), deadlocks := satAdd p.deadlocks 1
        streak := old.foldl (fun t i => Table.set 0 t i 0) p.streak }) s
      dropPicture w.ses 0x0501 s) s

/-- DEADLOCK_EVAL (R348): 100 µs have passed. -/
def execDeadlockEval (s : State) : Res := rooted s (forEach (upTo 32) deadlockEval s)

/-- BPM_CLEAR_POOL (R352) -/
def clearBpm (s : State) : State :=
  modMedia (fun m => { m with pools := Table.remap Pool.dflt (fun _ p =>
    { p with deadlocks := 0, quotaRefused := 0, badHandle := 0, waitMax := 0 }) m.pools }) s
def execBpmClearPool (s : State) : Res := .next (guard (bpmBase + 0x2000) clearBpm s)

end Sys2Proof.Machine
end

