-- ==== Sys2Proof/Machine/Record.lean ====
section
/-! DEFINITION. The event recorder's rows: flushes, erases, budgets, checkpoints, flash pages, soot snapshots
(R414, R416, R420, R421). -/

namespace Sys2Proof.Machine
open Sys2Proof

def flashPageOff : Nat := evrBase + 0x24

/-- FLUSH_TIMER: 10 s have passed since the oldest unflushed record was written (R416). -/
def execFlushTimer (s : State) : Res := .next (modRec (startFlush s.now) s)

/-- FLUSH_COMPLETE -/
def execFlushComplete (s : State) : Res := .next (modRec (flushComplete s.now) s)

/-- ERASE_COMPLETE -/
def execEraseComplete (s : State) : Res := .next (modRec (eraseComplete s.now) s)

/-- RATE_BUDGET_REFILL: each code's budget rises by one, up to 8 (R414). -/
def execRateBudgetRefill (s : State) : Res :=
  .next (modRec (fun r => { r with spent := Table.remap 0 (fun _ n => n - 1) r.spent }) s)

/-- SOOT_CHECKPOINT_TIMER: a checkpoint falls due every 600 s (R420). -/
def execSootCheckpointTimer (s : State) : Res := .next (modRec startCheckpoint s)

/-- CHECKPOINT_COMPLETE -/
def execCheckpointComplete (s : State) : Res := .next (modRec (checkpointComplete s.now) s)

/-- A write of EVR_FLASH_PAGE: discarded and recorded while LOAD reads 1; otherwise PAGE is stored and LOAD
starts a load (R421). -/
def writeFlashPage (v : Word) (s : State) : State :=
  if s.recorder.loading then recordWrite flashPageOff v s
  else
    let s := cfgSet flashPageOff (v &&& 0x3FF) s
    if bit v 31 then modRec (fun r => { r with loading := true }) s else s

/-- FLASH_PAGE_LOAD: a write of LOAD with PAGE. -/
def execFlashPageLoad (page : Fin 1024) (s : State) : Res :=
  .next (guard flashPageOff (writeFlashPage (BitVec.ofNat 32 (2 ^ 31 + page))) s)

/-- FLASH_PAGE_READY: the window holds the page's 128 places; LOAD reads 0. -/
def execFlashPageReady (s : State) : Res :=
  .next (if s.recorder.loading then
    let p := bits (cfgGet s flashPageOff) 9 0
    modRec (fun r => { r with
      loading := false
      flashWin := (upTo 128).foldl (fun t i => Table.set none t i (Table.get none r.flash (128 * p + i))) [] }) s
  else s)

/-- SNAP: the live totals are copied into the EVR_SOOT window (R420). -/
def sootSnap (s : State) : State := modRec (fun r => { r with sootWin := some (sootImage r) }) s

/-- SOOT_SNAP -/
def execSootSnap (s : State) : Res := .next (guard (evrBase + 0x28) sootSnap s)

end Sys2Proof.Machine
end

