-- ==== Sys2Proof/Machine/RegMap.lean ====
section
/-! DEFINITION. What a register map is made of: rows of one or many registers with their read, write and lock (R5, R8). -/

namespace Sys2Proof.Machine
open Sys2Proof

/-- One row of a register map: registers at `base + i × step + j × sub`, i below `n`, j below `m`. -/
structure Reg where
  base : Nat
  n : Nat := 1
  step : Nat := 0
  m : Nat := 1
  sub : Nat := 0
  /-- A 64-bit register (R11). -/
  wide : Bool := false
  read : Nat → Nat → State → DWord := fun _ _ _ => 0
  /-- Writes are discarded and recorded. -/
  lock : Nat → Nat → State → Bool := fun _ _ _ => false
  write : Nat → Nat → DWord → State → State := fun _ _ _ s => s

/-- The indices of the register of the row at an offset. -/
def Reg.find (r : Reg) (off : Nat) : Option (Nat × Nat) :=
  if off < r.base then none else
  let d := off - r.base
  let i := if r.n = 1 then 0 else d / r.step
  let e := d - i * r.step
  let j := if r.m = 1 then 0 else e / r.sub
  if i < r.n ∧ j < r.m ∧ e = j * r.sub then some (i, j) else none

/-- The low half of a 64-bit value, and its high half. -/
def loHalf (v : DWord) : Word := v.setWidth 32
def hiHalf (v : DWord) : Word := (v >>> 32).setWidth 32

/-- RO and LC registers (R5): the current value; writes are ignored. -/
def ro (base n step : Nat) (f : Nat → State → Word) : Reg :=
  { base, n, step, read := fun i _ s => (f i s).setWidth 64 }
def ro2 (base n step m sub : Nat) (f : Nat → Nat → State → Word) : Reg :=
  { base, n, step, m, sub, read := fun i j s => (f i j s).setWidth 64 }
def ro64 (base n step m sub : Nat) (f : Nat → Nat → State → DWord) : Reg :=
  { base, n, step, m, sub, wide := true, read := f }

/-- RW and RWS registers: the bits of `mask` are stored, reserved ones are not (R8). -/
def rw2 (base n step m sub : Nat) (mask : Word) (lock : Nat → Nat → State → Bool := fun _ _ _ => false) : Reg :=
  { base, n, step, m, sub, lock
    read := fun i j s => (cfgGet s (base + i * step + j * sub)).setWidth 64
    write := fun i j v => cfgSet (base + i * step + j * sub) (loHalf v &&& mask) }
def rw (base n step : Nat) (mask : Word) (lock : Nat → State → Bool := fun _ _ => false) : Reg :=
  rw2 base n step 1 0 mask (fun i _ => lock i)
def rw64 (base n step : Nat) (mask : DWord) (lock : Nat → State → Bool := fun _ _ => false) : Reg :=
  { base, n, step, wide := true, lock := fun i _ => lock i
    read := fun i _ s => cfgGet64 s (base + i * step)
    write := fun i _ v => cfgSet64 (base + i * step) (v &&& mask) }

/-- WO, W1C and W1S registers: a write acts, a read returns `read` (R5). -/
def act (base n step : Nat) (f : Nat → Word → State → State) (read : Nat → State → Word := fun _ _ => 0) : Reg :=
  { base, n, step, read := fun i _ s => (read i s).setWidth 64, write := fun i _ v => f i (loHalf v) }

/-- An ENABLE and DISABLE register (Table 9.11); a write with both bits set is discarded and recorded. -/
def ctl (base n step : Nat) (enable disable : Nat → State → State) : Reg :=
  act base n step (fun i v s =>
    if bit v 1 && bit v 0 then recordWrite (base + i * step) v s
    else if bit v 1 then enable i s else if bit v 0 then disable i s else s)

/-- The row of a map at an offset, with the indices of the register. -/
def findReg (off : Nat) : List Reg → Option (Reg × Nat × Nat)
  | [] => none
  | r :: rs => match r.find off with
    | some (i, j) => some (r, i, j)
    | none => findReg off rs

/-- Word `k` of a byte list, 0 past its end. -/
def wordAt (bs : List Byte) (k : Nat) : Word := BitVec.ofNat 32 (fieldAt bs (4 * k) 4)
/-- Word `k` of a wide value. -/
def wordOf {w : Nat} (x : BitVec w) (k : Nat) : Word := (x >>> (32 * k)).setWidth 32
/-- The numbers of a list that `p` accepts, as a mask. -/
def maskOf (n : Nat) (p : Nat → Bool) : Word := BitVec.ofNat 32 (((upTo n).filter p).map (2 ^ ·)).sum

end Sys2Proof.Machine
end

