-- ==== Sys2Proof/Machine/RegsHearth.lean ====
section
/-! DEFINITION. Register maps of a hearth: HRT_, ARR_, SPM_ and EMB_ (R62, R92, R155; Tables 2.11–2.20, 3.9–3.12, 5.13–5.24). -/

namespace Sys2Proof.Machine
open Sys2Proof

/-- A register of every hearth, `m` of them at stride `sub`. -/
def hro (off m sub : Nat) (f : Hearth → Nat → Word) : Reg :=
  ro2 (hearthBase 0 + off) 32 0x80000 m sub (fun h j s => f (s.hearth h) j)
def hro64 (off m sub : Nat) (f : Hearth → Nat → DWord) : Reg :=
  ro64 (hearthBase 0 + off) 32 0x80000 m sub (fun h j s => f (s.hearth h) j)

def nat32 (n : Nat) : Word := BitVec.ofNat 32 n

/-- HRT_ID (Table 2.12) -/
def hrtId (h : Nat) (s : State) : Word :=
  pack 32 [(24, vatIndex s h), (16, (vatOf s h).getD 0xFF), (11, h / 8), (8, h % 8), (0, h)]

/-- HRT_CMD_OCC (Table 2.15) -/
def hrtCmdOcc (h : Nat) (s : State) : Word :=
  pack 32 [(16, max (s.hearth h).cmdHwm (cmdOcc s h)), (0, cmdOcc s h)]

/-- HRT_LADLE_CFG (Table 2.16) -/
def ladleCfg (l : Ladle) : Word :=
  pack 32 [(31, b2n l.valid), (30, b2n l.stealEn), (21, l.stealMax % 256), (16, l.home), (0, l.job.toNat)]

/-- HRT_FLUE_OUT_CFG and HRT_FLUE_IN_CFG (Table 2.17) -/
def flueCfg (p : FluePort) : Word :=
  pack 32 [(31, b2n p.valid), (29, p.state.code), (24, p.width), (16, p.peer), (0, p.flue)]

/-- HRT_CTRL (Table 2.14) -/
def hrtCtrl (h : Nat) (v : Word) (s : State) : State :=
  if bit v 1 && bit v 0 then recordWrite (hearthBase h + 8) v s
  else if bit v 1 then restore h s else if bit v 0 then retire h s else s

/-- HRT_STALL_CLEAR (Table 2.18) -/
def hrtStallClear (h : Nat) (v : Word) (s : State) : State :=
  when (bit v 2) (clearCmdHwm h) (when (bit v 1) (clearStallEmb h) (when (bit v 0) (clearStallArr h) s))

def hrtRegs : List Reg := [
  ro (hearthBase 0) 32 0x80000 hrtId,
  hro 0x004 1 0 (fun x _ => nat32 x.state.code),
  act (hearthBase 0 + 0x008) 32 0x80000 hrtCtrl,
  hro 0x00C 1 0 (fun x _ => x.heartbeat),
  ro (hearthBase 0 + 0x010) 32 0x80000 hrtCmdOcc,
  hro 0x018 1 0 (fun x _ => x.counts.dupDone),
  hro 0x01C 1 0 (fun x _ => x.counts.badDone),
  hro 0x020 1 0 (fun x _ => x.counts.stealOk),
  hro 0x024 1 0 (fun x _ => x.counts.stealFail),
  hro 0x028 1 0 (fun x _ => x.counts.flueDiscard),
  hro 0x100 16 0x20 (fun x l => nat32 (x.ladle l).head),
  hro 0x104 16 0x20 (fun x l => nat32 (x.ladle l).tail),
  hro 0x108 16 0x20 (fun x l => ladleCfg (x.ladle l)),
  hro 0x10C 16 0x20 (fun x l => nat32 (x.ladle l).total),
  hro 0x110 16 0x20 (fun x l => nat32 (x.ladle l).done),
  hro 0x114 16 0x20 (fun x l => nat32 ((x.ladle l).bitmap % 2 ^ 22 / 8 * 8)),
  hro 0x300 16 8 (fun x p => flueCfg (x.outPort p)),
  hro 0x304 16 8 (fun x p => pack 32 [(16, (x.outPort p).depth), (0, (x.outPort p).credits)]),
  hro 0x380 16 8 (fun x p => flueCfg (x.inPort p)),
  hro 0x384 16 8 (fun x p => pack 32 [(16, (x.inPort p).depth), (0, if (x.inPort p).valid then (x.hoop p).occ else 0)]),
  hro64 0x400 11 8 (fun x c => Table.get 0 x.counts.stallArr c),
  hro64 0x480 11 8 (fun x c => Table.get 0 x.counts.stallEmb c),
  act (hearthBase 0 + 0x500) 32 0x80000 hrtStallClear]

/-- A wave is under way whose set the feeder has still to finish: the array stands frozen before the first row that is
missing (R71, R72, assumption log 66). -/
def frozen (a : Arr) : Bool := a.flight.any (fun p => !p.reuse) && !a.active.complete

/-- ARR_STATUS (Table 3.10). FED shows the oldest pass in the array, and SHADOW a wave until its set is whole (assumption log
66). -/
def arrStatus (a : Arr) : Word :=
  let shadow := if frozen a then 3 else if a.shadow.rows = [] then 0 else if a.shadow.complete then 2 else 1
  pack 32 [(26, shadow), (25, b2n a.tag), (24, b2n (decide (a.flight ≠ []))), (16, if intMode a.active.mode then a.active.group else 2),
    (13, a.active.mode), (11, b2n (frozen a)), (0, (a.flight.head?.map (fun p => p.fed.length)).getD 0)]

/-- ARR_DRAIN_STATUS (Table 3.11) -/
def arrDrainStatus (a : Arr) : Word :=
  match a.drain with
  | none => 0
  | some d => pack 32 [(16, 1), (0, d.count - d.done)]

/-- ARR_COUNT_CLEAR (Table 3.12) -/
def arrCountClear (h : Nat) (v : Word) (s : State) : State := when (bit v 1) (clearArr h 1) (when (bit v 0) (clearArr h 0) s)

def arrRegs : List Reg := [
  hro 0x10000 2 0x100 (fun x a => arrStatus (x.arr a)),
  hro 0x10004 2 0x100 (fun x a => arrDrainStatus (x.arr a)),
  hro64 0x10008 2 0x100 (fun x a => (x.arr a).passes),
  hro64 0x10010 2 0x100 (fun x a => (x.arr a).fed),
  hro64 0x10018 2 0x100 (fun x a => (x.arr a).drainRows),
  hro64 0x10020 2 0x100 (fun x a => (x.arr a).throttle),
  hro 0x10028 2 0x100 (fun x a => (x.arr a).poisonRows),
  act (hearthBase 0 + 0x10200) 32 0x80000 arrCountClear]

/-- SPM_SCRUB_STATUS (Table 5.15) -/
def scrubStatus (x : Hearth) : Word :=
  match x.scrubLeft with
  | [] => 0
  | b :: bs => pack 32 [(31, 1), (16, b), (0, bs.length + 1)]

/-- SPM_MARCH_STATUS (Table 5.19) -/
def marchStatus (m : March) : Word :=
  pack 32 [(16, if m.preserving then m.bank else 0), (2, m.result), (0, b2n m.running)]

/-- SPM_BANK_TAG (Table 5.21) -/
def bankTag (k : Bank) : Word :=
  match k.tag with
  | none => 0
  | some m => pack 32 [(31, 1), (0, m.toNat)]

/-- SPM_HOOP_CFG and SPM_HOOP_BASE (Table 5.22) -/
def hoopCfg (p : Nat) (j : Hoop) : Word :=
  pack 32 [(31, b2n (decide (j.state = .bound))), (30, b2n j.flue), (29, b2n j.err), (24, if j.flue then p else 0), (23, b2n j.tailCtr.isSome),
    (22, b2n j.headCtr.isSome), (16, j.tailCtr.getD 0), (8, j.headCtr.getD 0)]
def hoopBase (j : Hoop) : Word := pack 32 [(16, j.size - 1), (0, j.base / 64 % 65536)]

/-- SPM_COUNT_CLEAR (Table 5.24) -/
def spmCountClear (h : Nat) (v : Word) (s : State) : State :=
  when (bit v 3) (clearBankConflict h) (when (bit v 2) (clearConflict h) (when (bit v 1) (clearSpmEcc h) (when (bit v 0) (clearSpmAccess h) s)))

def spmRegs : List Reg := [
  hro64 0x20000 1 0 (fun x _ => pack 64 ((upTo 32).map (fun b => (2 * b, (x.bank b).cls.code)))),
  hro 0x20008 1 0 (fun x _ => maskOf 32 (fun b => decide ((x.bank b).state = .ready))),
  hro 0x2000C 1 0 (fun x _ => scrubStatus x),
  hro 0x20010 1 0 (fun x _ => x.counts.eccCorr),
  hro 0x20014 1 0 (fun x _ => x.counts.eccUncorr),
  hro 0x20018 1 0 (fun x _ => x.counts.eccLast),
  hro 0x2001C 1 0 (fun x _ => x.counts.offAccess),
  hro 0x20020 1 0 (fun x _ => x.counts.resDenied),
  hro 0x20024 1 0 (fun x _ => x.counts.ctlDiscard),
  hro 0x20028 1 0 (fun x _ => x.counts.bar4Discard),
  rw (hearthBase 0 + 0x2002C) 32 0x80000 0xFFFF,
  act (hearthBase 0 + 0x20040) 32 0x80000 writeMarchCtrl
    (fun h s => pack 32 [(31, b2n (s.hearth h).march.running), (0, bits (cfgGet s (marchCtrlOff h)) 0 0)]),
  rw (hearthBase 0 + 0x20044) 32 0x80000 0xFFFFFFFF,
  hro 0x20048 1 0 (fun x _ => marchStatus x.march),
  hro 0x2004C 1 0 (fun x _ => x.march.fail),
  hro 0x20050 1 0 (fun x _ => x.march.failAddr),
  hro 0x20100 32 4 (fun x b => bankTag (x.bank b)),
  hro 0x20200 14 4 (fun x m => Table.get 0 x.counts.conflict m),
  hro 0x20300 32 4 (fun x b => Table.get 0 x.counts.bankConflict b),
  hro 0x20400 32 16 (fun x j => hoopCfg j (x.hoop j)),
  hro 0x20404 32 16 (fun x j => hoopBase (x.hoop j)),
  hro 0x20408 32 16 (fun x j => (x.hoop j).head),
  hro 0x2040C 32 16 (fun x j => (x.hoop j).tail),
  hro 0x20800 64 16 (fun x c => (x.ctr c).value),
  hro 0x20804 64 16 (fun x c => pack 32 [(31, b2n (x.ctr c).broken), (0, (x.ctr c).tag)]),
  hro 0x20808 64 16 (fun x c => (x.ctr c).sources),
  act (hearthBase 0 + 0x20C00) 32 0x80000 spmCountClear]

def embRegs : List Reg := [
  hro 0x40000 64 0x400 (fun x c => pack 32 [(8, (x.core c).trap), (0, (x.core c).run.code)]),
  hro 0x40004 64 0x400 (fun x c => (x.core c).stopPc),
  hro 0x40008 64 0x400 (fun x c => (x.core c).tval),
  hro 0x4000C 64 0x400 (fun x c => (x.core c).removedAcc)]

end Sys2Proof.Machine
end

