-- ==== Sys2Proof/Machine/RegsCore.lean ====
section
/-! DEFINITION. Register maps of the DRAM controllers, the structure configuration and the scheduler (R215, R238, R350;
Tables 7.13–7.19, 8.7–8.13, 13.5–13.8). -/

namespace Sys2Proof.Machine
open Sys2Proof

/-- A register of every channel. -/
def cro (off : Nat) (f : Channel → Word) : Reg := ro (drcBase + off) 32 0x1000 (fun c s => f (s.chan c))
def cro64 (off : Nat) (f : Channel → DWord) : Reg := ro64 (drcBase + off) 32 0x1000 1 0 (fun c _ s => f (s.chan c))
/-- A register of the shared set, which every channel's block shows. -/
def dro (off m sub : Nat) (f : DramShared → Nat → Word) : Reg := ro2 (drcBase + off) 32 0x1000 m sub (fun _ j s => f s.drams j)

/-- DRC_CH_STATUS (Table 8.8) -/
def chStatus (c : Nat) (k : Channel) : Word :=
  pack 32 [(16, c / 8), (8, b2n k.latched), (4, k.attempt), (0, k.state.code)]

/-- DRC_QUEUE (Table 8.11) -/
def chQueue (k : Channel) : Word :=
  pack 32 [(24, max k.wqHwm k.writes.length), (16, max k.rqHwm k.reads.length), (8, k.writes.length), (0, k.reads.length)]

/-- DRC_REF_NEXT: cycles, of 1 ns, until the next window starts. -/
def refNext (s : State) : Word :=
  match s.drams.next with
  | none => 0
  | some t => nat32 (min (t - s.now) (s.drams.interval - 1))

/-- DRC_DIE_TEMP (Table 8.12): whole degrees (assumption log 40). -/
def dieTemp (d : DramShared) : Word :=
  pack 32 ((upTo 4).map (fun i => (8 * i, ((Table.get 0 d.temps i).sshiftRight 2).toNat % 256)))

def drcRegs : List Reg := [
  ro drcBase 32 0x1000 (fun c s => chStatus c (s.chan c)),
  act (drcBase + 0x004) 32 0x1000 (fun c v s => when (bit v 0) (fullRetrainReq c) s),
  cro 0x008 (·.eccCorr), cro 0x00C (·.eccUncorr), cro64 0x010 (·.lastAddr), cro 0x018 (·.lastInfo),
  cro64 0x020 (·.rowHits), cro64 0x028 (·.rowMisses), cro64 0x030 (·.readLines), cro64 0x038 (·.writeLines),
  cro 0x040 (·.retrainCount), cro 0x044 (fun k => k.fullUs ++ k.pauseNs), cro 0x048 chQueue, cro 0x04C (·.fwdCount),
  act (drcBase + 0x060) 32 0x1000 (fun c v s =>
    when (bit v 2) (clearTraffic c) (when (bit v 1) (clearDramEcc c) (when (bit v 0) (clearQueueHwm c) s))),
  dro 0x800 1 0 (fun d _ => pack 32 [(31, b2n d.hot), (0, d.interval)]),
  ro (drcBase + 0x804) 32 0x1000 (fun _ => refNext),
  ro64 (drcBase + 0x808) 32 0x1000 1 0 (fun _ _ s => s.drams.refCount),
  dro 0x810 1 0 (fun d _ => dieTemp d),
  dro 0x814 1 0 (fun d _ => d.hotEntries),
  act (drcBase + 0x818) 32 0x1000 (fun _ v s => when (bit v 1) clearPorts (when (bit v 0) clearHot s)),
  dro 0x900 40 8 (fun d p => Table.get 0 d.overdue p),
  dro 0x904 40 8 (fun d p => Table.get 0 d.maxLat p)]

/-- A vat's region has a hearth that is not ACTIVE. -/
def vatDegraded (s : State) (v : Nat) : Bool := (vatHearths s v).any (fun h => decide ((s.hearth h).state ≠ .active))

/-- STC_VAT_CFG (Table 7.17) -/
def vatCfg (v : Nat) (s : State) : Word :=
  pack 32 [(31, b2n (regionOf s.image v).isSome), (30, b2n (vatDegraded s v)), (29, b2n (bit s.boot.fuses.locked v)),
    (24, homeHearth s v), (16, Nat.log2 (vatHearths s v).length), (8, (s.vat v).latch.code), (0, (s.vat v).state.code)]

/-- STC_VAT_DRAM (Table 7.18) -/
def vatDram (v : Nat) (s : State) : Word :=
  match regionOf s.image v with
  | none => 0
  | some r => pack 32 [(16, r.dramBase), (0, r.dramUnits)]

/-- STC_GROUP (Table 7.19) -/
def stcGroup (g : Nat) (s : State) : Word :=
  match (s.image.regions.flatMap (·.groups)).find? (fun x => x.group = g) with
  | none => 0
  | some x => pack 32 [(31, 1), (24, x.vat), (16, x.scalers), (0, x.decoders)]

def stcRegs : List Reg := [
  ro stcBase 1 0 (fun _ s => s.image.version),
  ro (stcBase + 0x04) 1 0 (fun _ s => nat32 s.image.imageBytes),
  act reloadCtrlOff 1 0 (fun _ => writeReloadCtrl) (fun _ s => cfgGet s reloadCtrlOff),
  ro (stcBase + 0x14) 1 0 (fun _ s => pack 32 [(24, s.reload.region), (16, s.reload.detail), (8, s.reload.result), (0, s.reload.state.code)]),
  ro (stcBase + 0x18) 1 0 (fun _ => reloadTime),
  ro (stcBase + 0x1C) 1 0 (fun _ s => s.reload.count),
  ro (stcBase + 0x100) 32 0x10 vatCfg,
  ro (stcBase + 0x104) 32 0x10 (fun v s => maskOf 32 (fun h => decide (h ∈ vatHearths s v))),
  ctl (stcBase + 0x108) 32 0x10 vatEnable vatDisable,
  ro (stcBase + 0x10C) 32 0x10 vatDram,
  ro (stcBase + 0x400) 32 4 stcGroup]

/-- SCH_VAT_STATUS (Table 13.6) -/
def vatStatus (v : Nat) (s : State) : Word :=
  let (j, p) := match activeJob s v with
    | none => (0xFFFF, 0)
    | some (j, b) => (j, b.prio)
  let queued := ((liveJobs s).filter (fun x => decide (x.2.vat = v ∧ x.2.state = .queued))).length
  pack 32 [(16, j), (13, p), (12, b2n (s.vat v).deferral.isSome), (10, suspendedCount s v), (0, min queued 255)]

/-- SCH_CAVE_STATUS (Table 13.7) -/
def caveStatus (v : Nat) (s : State) : Word :=
  let ks := (vatHearths s v).flatMap (fun h => (upTo 32).map (fun b => (s.hearth h).bank b))
  let res := ks.filter (fun k => decide (k.cls = .resident))
  pack 32 [(16, (res.filter (fun k => k.tag.isSome)).length), (0, res.length)]

/-- SCH_SEM_OWNER (Table 13.7) -/
def semOwnerWord (i : Nat) (s : State) : Word :=
  match semOwner s i with
  | none => 0
  | some j => pack 32 [(31, 1), (0, j.toNat)]

def schRegs : List Reg := [
  ro schBase 32 0x20 vatStatus,
  ro (schBase + 0x04) 32 0x20 (fun v s => (s.vat v).switchLast),
  ro (schBase + 0x08) 32 0x20 (fun v s => (s.vat v).switches),
  ro (schBase + 0x0C) 32 0x20 (fun v s => (s.vat v).deferrals),
  ro (schBase + 0x10) 32 0x20 caveStatus,
  ro (schBase + 0x14) 32 0x20 (fun v s => (s.vat v).evictions),
  ro (schBase + 0x18) 32 0x20 (fun v s => (s.vat v).spilledCount),
  act (schBase + 0x400) 1 0 (fun _ v => killJob (v.setWidth 16)),
  ro (schBase + 0x404) 1 0 (fun _ s => s.killStatus),
  ro (schBase + 0x500) 32 4 semOwnerWord,
  act (schBase + 0x600) 1 0 (fun _ v s => when (bit v 1) clearSchCave (when (bit v 0) clearSchVat s))]

end Sys2Proof.Machine
end

