-- ==== Sys2Proof/Machine/RegsMedia.lean ====
section
/-! DEFINITION. Register maps of the streams' blocks: VCD_, SCL_, SNS_, INP_ and BPM_ (R268, R290, R311, R351; Tables 9.8–9.14,
10.8–10.11, 11.9–11.13, 13.9–13.11). -/

namespace Sys2Proof.Machine
open Sys2Proof

/-- Bits [39:12], the offset of a ring, hoop or pool in a partition. -/
def baseMask : DWord := 0xFFFFFFF000

/-- VCD_SESSIONS (Table 9.9) -/
def vcdSessions (s : State) : Word :=
  pack 32 [(16, s.media.requests.length), (0, ((upTo 256).filter (fun i => decide ((s.ses i).state ≠ .closed))).length)]

/-- VCD_DEC_STATUS (Table 9.10) -/
def decStatus (d : Decoder) : Word :=
  pack 32 [(25, d.group), (24, b2n d.work.isSome), (16, (d.work.map (·.1)).getD 0), (0, d.state.code)]

/-- VCD_SES_SIZE (Table 9.13) -/
def sesSize (x : Session) : Word :=
  match x.sps with
  | none => 0
  | some p => pack 32 [(16, p.height), (0, p.width)]

/-- VCD_SES_WIN_BYTES: the window of the latest access unit (R248). -/
def sesWinBytes (x : Session) : Word := satNat 32 ((x.windows.head?.map (·.2.1)).getD 0)

/-- The registers of R249 are written in CLOSED only. -/
def sesLock (i : Nat) (s : State) : Bool := decide ((s.ses i).state ≠ .closed)

def vro (base n step : Nat) (f : State → Nat → Word) : Reg := ro (vcdBase + base) n step (fun i s => f s i)
def vro64 (base n step : Nat) (f : State → Nat → DWord) : Reg := ro64 (vcdBase + base) n step 1 0 (fun i _ s => f s i)

def vcdRegs : List Reg := [
  vro 0x0000 1 0 (fun s _ => vcdSessions s),
  act (vcdBase + 0x0004) 1 0 (fun _ v s => when (bit v 2) clearVcdSes (when (bit v 1) clearVcdEnc (when (bit v 0) clearVcdDec s))),
  vro 0x0100 16 0x20 (fun s i => decStatus (s.dec i)),
  ctl (vcdBase + 0x0104) 16 0x20 decEnable decDisable,
  vro64 0x0108 16 0x20 (fun s i => (s.dec i).busy),
  vro64 0x0110 16 0x20 (fun s i => (s.dec i).units),
  vro 0x0118 16 0x20 (fun s i => (s.dec i).stallCredit),
  vro 0x011C 16 0x20 (fun s i => (s.dec i).stallMem),
  vro 0x0400 4 0x20 (fun s e => nat32 (s.enc e).state.code),
  ctl (vcdBase + 0x0404) 4 0x20 encEnable encDisable,
  vro64 0x0408 4 0x20 (fun s e => (s.enc e).busy),
  vro64 0x0410 4 0x20 (fun s e => (s.enc e).pictures),
  vro 0x0418 4 0x20 (fun s e => (s.enc e).retries),
  vro 0x041C 4 0x20 (fun s e => (s.enc e).fallback),
  rw (vcdBase + 0x10000) 256 0x40 0xF31F0F01 sesLock,
  ctl (vcdBase + 0x10004) 256 0x40 sesEnable sesDisable,
  vro 0x10008 256 0x40 (fun s i => pack 32 [(31, b2n (s.ses i).concealing), (16, (s.ses i).reason.toNat), (0, (s.ses i).state.code)]),
  vro 0x1000C 256 0x40 (fun s i => sesSize (s.ses i)),
  rw64 (vcdBase + 0x10010) 256 0x40 baseMask sesLock,
  rw (vcdBase + 0x10018) 256 0x40 0xFFFFFFFF sesLock,
  vro 0x1001C 256 0x40 (fun s i => (s.ses i).head),
  act (vcdBase + 0x10020) 256 0x40 writeSesTail (fun i s => (s.ses i).tail),
  vro 0x10024 256 0x40 (fun s i => (s.ses i).concealedCount),
  vro64 0x10028 256 0x40 (fun s i => (s.ses i).pictures),
  vro 0x10030 256 0x40 (fun s i => (s.ses i).dropped),
  vro 0x10034 256 0x40 (fun s i => sesWinBytes (s.ses i))]

/-- Committed program `p`, zeros before its first commit. -/
def progBytes (s : State) (p : Nat) : List Byte := Table.get (List.replicate 128 0) s.media.programs p

def scro (base n step : Nat) (f : State → Nat → Word) : Reg := ro (sclBase + base) n step (fun i s => f s i)
def scro64 (base n step : Nat) (f : State → Nat → DWord) : Reg := ro64 (sclBase + base) n step 1 0 (fun i _ s => f s i)

def sclRegs : List Reg := [
  scro 0x0000 8 0x40 (fun s i => pack 32 [(16, (s.scl i).group), (8, (s.scl i).jobs.length), (0, (s.scl i).state.code)]),
  ctl (sclBase + 0x0004) 8 0x40 scalerEnable scalerDisable,
  scro64 0x0008 8 0x40 (fun s i => (s.scl i).busy),
  scro64 0x0010 8 0x40 (fun s i => (s.scl i).done),
  scro64 0x0018 8 0x40 (fun s i => (s.scl i).outPixels),
  scro 0x0020 8 0x40 (fun s i => (s.scl i).invalid),
  scro 0x0024 8 0x40 (fun s i => (s.scl i).stallMem),
  act (sclBase + 0x0200) 1 0 (fun _ => writeProgCommit) (fun _ s => cfgGet s (sclBase + 0x200)),
  scro 0x0204 1 0 (fun s _ => s.media.progStatus),
  act (sclBase + 0x0208) 1 0 (fun _ v s => when (bit v 1) clearSclGroup (when (bit v 0) clearSclScaler s)),
  rw64 (sclBase + 0x0400) 32 0x20 baseMask (fun g s => (s.grp g).cropOn),
  act (sclBase + 0x0408) 32 0x20 writeCropCfg (fun g s => cfgGet s (sclBase + 0x408 + 0x20 * g)),
  scro 0x040C 32 0x20 (fun s g => (s.grp g).cropHead),
  rw (sclBase + 0x0410) 32 0x20 0x3FF,
  scro 0x0414 32 0x20 (fun s g => (s.grp g).cropExpired),
  scro 0x0418 32 0x20 (fun s g => (s.grp g).badWindow),
  rw (sclBase + 0x0800) 272 4 0x8000003F,
  rw (sclBase + 0x2000) 32 4 0xFFFFFFFF,
  ro2 (sclBase + 0x4000) 64 0x80 32 4 (fun p k s => wordAt (progBytes s p) k)]

/-- A write of SNS_RX_CFG: LANES keeps its value while ENABLE is 1 (Table 11.10). -/
def writeRxCfg (r : Nat) (v : Word) (s : State) : State :=
  let off := snsBase + 0x20 * r
  let old := cfgGet s off
  let new := v &&& 0x8000031F
  cfgSet off (if bit old 31 then setBits new 9 8 (bits old 9 8) else new) s

/-- Sensor and bucket configuration is written in DISABLED only (R309). -/
def snsLock (i : Nat) (s : State) : Bool := decide ((s.sns i).state ≠ .disabled)
def bktLock (b : Nat) (s : State) : Bool := decide ((s.bkt b).state ≠ .disabled)

def snro (base n step : Nat) (f : State → Nat → Word) : Reg := ro (snsBase + base) n step (fun i s => f s i)
def snrw (base : Nat) (mask : Word) : Reg := rw (snsBase + 0x400 + base) 16 0x40 mask snsLock

def snsRegs : List Reg := [
  act snsBase 4 0x20 writeRxCfg (fun r s => cfgGet s (snsBase + 0x20 * r)),
  snro 0x0004 4 0x20 (fun s r => pack 32 [(16, (s.rcv r).ulps.toNat), (8, (s.rcv r).stop.toNat), (0, b2n (s.rcv r).hs)]),
  snro 0x0008 4 0x20 (fun s r => (s.rcv r).eccCorr),
  snro 0x000C 4 0x20 (fun s r => (s.rcv r).discard),
  snro 0x0010 4 0x20 (fun s r => (s.rcv r).crc),
  snrw 0x00 0xC01F3F0F,
  ctl (snsBase + 0x0404) 16 0x40 sensorEnable sensorDisable,
  snro 0x0408 16 0x40 (fun s i => pack 32 [(24, (s.sns i).reason.toNat), (0, (s.sns i).state.code)]),
  snrw 0x0C 0xFFFFFFFF,
  rw64 (snsBase + 0x0410) 16 0x40 baseMask snsLock,
  snrw 0x18 0x1F, snrw 0x1C 0x80000FFF, snrw 0x20 0xFFFFFFFF, snrw 0x24 0xFFFFFFFF,
  ro64 (snsBase + 0x0428) 16 0x40 1 0 (fun i _ s => (s.sns i).completed),
  snro 0x0430 16 0x40 (fun s i => (s.sns i).dropped),
  snro 0x0434 16 0x40 (fun s i => (s.sns i).corrupt),
  snro 0x0438 16 0x40 (fun s i => (s.sns i).estimated),
  rw (snsBase + 0x0800) 8 0x20 0x8000030F,
  rw64 (snsBase + 0x0808) 8 0x20 0x01FF01FF01FF01FF,
  rw (snsBase + 0x0810) 8 0x20 0xFFFFFFFF,
  snro 0x0814 8 0x20 (fun s a => (s.alignSet a).blocks),
  snro 0x0818 8 0x20 (fun s a => (s.alignSet a).incomplete),
  act (snsBase + 0x0C00) 1 0 (fun _ v s => when (bit v 2) clearSnsSet (when (bit v 1) clearSnsSrc (when (bit v 0) clearSnsRx s)))]

/-- INP_BKT_STATUS (Table 11.13) -/
def bktStatus (b : Bucket) : Word :=
  let count := fun (st : CurdState) => (b.curds.filter (fun c => decide (c.state = st))).length
  pack 32 [(24, b.reason.toNat), (16, count .ready), (8, count .taken), (0, b.state.code)]

def inro (base : Nat) (f : Bucket → Word) : Reg := ro (inpBase + base) 16 0x40 (fun b s => f (s.bkt b))

def inpRegs : List Reg := [
  rw inpBase 16 0x40 0x001F7F01 bktLock,
  ctl (inpBase + 0x04) 16 0x40 bucketEnable bucketDisable,
  inro 0x08 bktStatus,
  rw (inpBase + 0x0C) 16 0x40 0xFFFFFFFF bktLock,
  rw64 (inpBase + 0x10) 16 0x40 baseMask bktLock,
  rw (inpBase + 0x18) 16 0x40 0xFFFFF0FF bktLock,
  rw (inpBase + 0x1C) 16 0x40 0xFF,
  inro 0x20 (·.seqNext), inro 0x24 (·.short), inro 0x28 (·.dropped), inro 0x2C (·.lowEvents), inro 0x30 (·.fullWait),
  act (inpBase + 0x400) 1 0 (fun _ v s => when (bit v 0) clearInpBkt s)]

/-- Pool registers are written in DISABLED only (R349). -/
def poolLock (g : Nat) (s : State) : Bool := decide ((s.pool g).state ≠ .disabled)

/-- The floors of a class exceed its COUNT (Table 13.11). -/
def overcommit (s : State) (g : Nat) : Bool :=
  (upTo 4).any (fun k => decide (classCount s g k < ((classSessions s g k).map (sesFloor s)).sum))

/-- BPM_SES_HELD (Table 13.11) -/
def sesHeld (i : Nat) (s : State) : Word :=
  pack 32 [(31, b2n ((s.pool (s.ses i).group).waits.any (fun w => decide (w.ses = i)))), (16, (sizeClass s i).getD 0), (0, sesUse s i)]

def bro (base : Nat) (f : State → Nat → Word) : Reg := ro (bpmBase + base) 32 0x40 (fun g s => f s g)

def bpmRegs : List Reg := [
  rw64 bpmBase 32 0x40 baseMask poolLock,
  rw2 (bpmBase + 0x08) 32 0x40 4 4 0xFFF0FFFF (fun g _ => poolLock g),
  ctl (bpmBase + 0x18) 32 0x40 poolEnable poolDisable,
  bro 0x1C (fun s g => pack 32 [(31, b2n (overcommit s g)), (16, (s.pool g).detail), (0, (s.pool g).state.code)]),
  ro2 (bpmBase + 0x20) 32 0x40 4 4 (fun g k s => pack 32 [(16, min (classFree s g k) 4095), (0, min (classOwed s g k) 4095)]),
  bro 0x30 (fun s g => (s.pool g).deadlocks),
  bro 0x34 (fun s g => (s.pool g).quotaRefused),
  bro 0x38 (fun s g => (s.pool g).badHandle),
  bro 0x3C (fun s g => (s.pool g).waitMax),
  rw (bpmBase + 0x1000) 256 8 0xFFFF,
  ro (bpmBase + 0x1004) 256 8 sesHeld,
  act (bpmBase + 0x2000) 1 0 (fun _ v s => when (bit v 0) clearBpm s)]

end Sys2Proof.Machine
end

