-- ==== Sys2Proof/Machine/RegsHost.lean ====
section
/-! DEFINITION. Register maps of the host queues, the PCIe endpoint and the Ethernet block (R378, R379, R401; Tables 14.10–14.15,
15.8–15.11). -/

namespace Sys2Proof.Machine
open Sys2Proof

/-- Registers sampled on entry to ENABLED are written in DISABLED only (R365). -/
def qpLock (q : Nat) (s : State) : Bool := decide ((s.qp q).state ≠ .disabled)

def qro (base : Nat) (f : Qp → Word) : Reg := ro (hqBase + base) 64 0x40 (fun q s => f (s.qp q))

/-- HQ_QP_STATUS (Table 14.12) -/
def qpStatus (x : Qp) : Word :=
  pack 32 [(16, (x.openJob.map (·.toNat)).getD 0xFFFF), (8, x.reason.toNat), (0, x.state.code)]

/-- The bases hold every bit that is written: ENABLE finds one that is not 4 KiB aligned (Table 14.5, REASON 0x01). -/
def hqRegs : List Reg := [
  rw64 hqBase 64 0x40 0xFFFFFFFFFFFFFFFF qpLock,
  rw64 (hqBase + 0x08) 64 0x40 0xFFFFFFFFFFFFFFFF qpLock,
  rw (hqBase + 0x10) 64 0x40 0x73FFF qpLock,
  ctl (hqBase + 0x14) 64 0x40 qpEnable qpDisable,
  qro 0x18 qpStatus,
  act (hqBase + 0x1C) 64 0x40 writeCmdTail,
  qro 0x20 (·.cmdHead),
  act (hqBase + 0x24) 64 0x40 writeRspHead,
  qro 0x28 (·.rspTail),
  rw (hqBase + 0x2C) 64 0x40 0xFFFFFFFF,
  rw64 (hqBase + 0x30) 64 0x40 0xFFFFFFFFFFFFFFFF qpLock,
  qro 0x38 (·.cmdTail),
  qro 0x3C (·.rspHead),
  rw (hqBase + 0x1000) 1 0 0x3F,
  ro (hqBase + 0x1004) 1 0 (fun _ s => pack 32 [(16, max s.pcie.msgHwm s.store.length), (0, s.store.length)]),
  ro (hqBase + 0x1008) 1 0 (fun _ s => s.pcie.msgDropped),
  ro (hqBase + 0x100C) 1 0 (fun _ s => s.pcie.doorbellDiscard),
  act (hqBase + 0x1010) 1 0 (fun _ v s => when (bit v 1) clearHqHwm (when (bit v 0) clearHqCounts s))]

/-- PEP_TAGS (Table 14.13): tags in use, and those of them in quarantine. -/
def pepTags (s : State) : Word :=
  let ts := s.pcie.tags.filterMap (·.2)
  pack 32 [(16, (ts.filter (·.quarantined)).length), (0, (ts.filter (fun t => !t.quarantined)).length)]

/-- A write to the MSI-X table: a vector that is no longer masked sends what is pending. -/
def msixWrite (k : Nat) (mask : Word) (v : Nat) (w : Word) (s : State) : State :=
  msixUnmasked (cfgSet (msixOff v + 4 * k) (w &&& mask) s)
def msixReg (k : Nat) (mask : Word) : Reg :=
  act (pepBase + 0x8000 + 4 * k) 64 16 (msixWrite k mask) (fun v s => cfgGet s (msixOff v + 4 * k))

def pro (base : Nat) (f : Pcie → Word) : Reg := ro (pepBase + base) 1 0 (fun _ s => f s.pcie)

def pepRegs : List Reg := [
  pro 0x00 (fun p => pack 32 [(31, b2n p.dlActive), (16, p.speed), (8, p.width), (0, p.pm)]),
  act (pepBase + 0x04) 1 0 (fun _ v => winCommit (v.setWidth 8)),
  pro 0x08 (·.commitStatus),
  ro (pepBase + 0x0C) 1 0 (fun _ => pepTags),
  pro 0x10 (·.cplTimeout), pro 0x14 (·.lateCpl), pro 0x18 (·.unexpCpl), pro 0x1C (·.poisonRx), pro 0x20 (·.poisonTx), pro 0x24 (·.winMiss),
  act (pepBase + 0x28) 1 0 (fun _ v s => when (bit v 0) clearPep s),
  rw64 (pepBase + 0x100) 8 0x20 0x3FFE00000,
  rw (pepBase + 0x108) 8 0x20 0xE00001FF,
  ro64 (pepBase + 0x110) 8 0x20 1 0 (fun w _ s => (s.window w).base),
  ro (pepBase + 0x118) 8 0x20 (fun w s => (s.window w).cfg),
  msixReg 0 0xFFFFFFFC, msixReg 1 0xFFFFFFFF, msixReg 2 0xFFFFFFFF, msixReg 3 1,
  ro (pepBase + 0x9000) 2 4 (fun k s => wordOf s.pcie.pba k)]

/-- What is sampled on entry to RUNNING is written in DISABLED only (R383, R401). -/
def portLock (p : Nat) (s : State) : Bool := decide ((s.port p).state ≠ .disabled)
def joinLock (s : State) : Bool := decide (s.ether.join ≠ .disabled)

def lro (base : Nat) (f : EthLink → Word) : Reg := ro (ethBase + 0x200 + base) 8 0x40 (fun l s => f (s.link l))
def lro64 (base : Nat) (f : EthLink → DWord) : Reg := ro64 (ethBase + 0x200 + base) 8 0x40 1 0 (fun l _ s => f (s.link l))
def rtro (base : Nat) (f : Rtp → Word) : Reg := ro (ethBase + 0x1000 + base) 256 0x20 (fun i s => f (s.rtp i))

/-- ETH_CC_STATUS: off, ACTIVE or STALLED. -/
def ccStatus (d : Nat) (s : State) : Word := if destOn s d then (if (s.dest d).stalled then 2 else 1) else 0

/-- ETH_JOIN_STATUS: the members UP, and the state. -/
def joinStatus (s : State) : Word :=
  pack 32 [(8, (maskOf 8 (fun m => decide ((s.member m).state = .up))).toNat), (0, s.ether.join.code)]

def ethRegs : List Reg := [
  rw ethBase 2 0x40 0x000F3FFF portLock,
  ctl (ethBase + 0x04) 2 0x40 portEnable portDisable,
  ro (ethBase + 0x08) 2 0x40 (fun p s => nat32 (s.port p).state.code),
  rw (ethBase + 0x200) 8 0x40 0xFE0FFFFF,
  lro 0x04 (fun l => pack 32 [(31, b2n l.up), (30, b2n l.fecLock), (0, l.speed)]),
  rw64 (ethBase + 0x208) 8 0x40 0xFFFFFFFFFFFF,
  rw (ethBase + 0x210) 8 0x40 0xFFFFFFFF,
  rw2 (ethBase + 0x214) 8 0x40 4 4 0xFFFFFFFF,
  lro 0x24 (·.rxDrop), lro64 0x28 (·.rxFrames), lro64 0x30 (·.txFrames), lro 0x38 (·.fecCorr), lro 0x3C (·.fecUncorr),
  rw (ethBase + 0x1000) 256 0x20 0xF87FFFFF sesLock,
  rw (ethBase + 0x1004) 256 0x20 0xFFFFFFFF sesLock,
  rw64 (ethBase + 0x1008) 256 0x20 0xFFFFFFFF00 sesLock,
  rtro 0x10 (fun x => pack 32 [(31, b2n x.overflowing), (0, x.rtsp)]),
  rtro 0x14 (·.lost), rtro 0x18 (·.late), rtro 0x1C (·.overflow),
  rw (ethBase + 0x3000) 1 0 0xFFFF,
  rw (ethBase + 0x3100) 16 0x20 0xF83FFFFF (fun d s => destOn s d),
  rw2 (ethBase + 0x3104) 16 0x20 4 4 0xFFFFFFFF (fun d _ s => destOn s d),
  ro (ethBase + 0x3114) 16 0x20 ccStatus,
  ro (ethBase + 0x3118) 16 0x20 (fun d s => (s.dest d).retx),
  rw joinOff 1 0 0x7FFFF (fun _ => joinLock),
  ctl (joinOff + 4) 1 0 (fun _ => joinEnable) (fun _ => joinDisable),
  ro (joinOff + 8) 1 0 (fun _ => joinStatus),
  rw (joinOff + 0xC) 1 0 0xFFFFFFFF (fun _ => joinLock),
  rw (ethBase + 0x3500) 8 0x20 0xF8000000 (fun _ => joinLock),
  rw2 (ethBase + 0x3504) 8 0x20 4 4 0xFFFFFFFF (fun _ _ => joinLock),
  ro (ethBase + 0x3514) 8 0x20 (fun m s => pack 32 [(24, (s.member m).reason.toNat), (0, (s.member m).state.code)]),
  ro (ethBase + 0x3518) 8 0x20 (fun m s => (s.member m).retx),
  ro (ethBase + 0x351C) 8 0x20 (fun m s => (s.member m).ece),
  act countClearOff 1 0 (fun _ v s =>
    when (bit v 3) clearEthJoin (when (bit v 2) clearEthCc (when (bit v 1) clearEthRtp (when (bit v 0) clearEthLink s))))]

end Sys2Proof.Machine
end

