-- ==== Sys2Proof/Machine/RegsIsland.lean ====
section
/-! DEFINITION. Register maps of the GLB_, CPM_, LCS_, EVR_ and SVC_ blocks (R421, R443, R444, R468; Tables 0.6, 0.7, 1.6–1.9,
16.3, 16.6–16.9, 17.11–17.14, 18.11, 18.12). -/

namespace Sys2Proof.Machine
open Sys2Proof

def glbRegs : List Reg := [
  ro 0 1 0 (fun _ _ => glbId),
  ro 4 1 0 (fun _ _ => glbRev),
  rw 8 1 0 0xFFFFFFFF]

def cpro (base : Nat) (f : State → Word) : Reg := ro (cpmBase + base) 1 0 (fun _ s => f s)

def cpmRegs : List Reg := [
  cpro 0x00 classStatus,
  rw budgetOff 1 0 0xFFFF,
  cpro 0x08 cpmPower,
  cpro 0x0C cpmThrottle,
  ro64 (cpmBase + 0x10) 1 0 1 0 (fun _ _ s => s.elec.throttleUs),
  act thermStatusOff 1 0 (fun _ v s => when (bit v 31) (clearTripped false) s) (fun _ => thermStatus),
  rw (cpmBase + 0x1C) 1 0 0xFF,
  cpro 0x20 railStatus,
  cpro 0x24 (fun s => pack 32 [(16, s.elec.vmeas), (0, s.elec.vset)]),
  cpro 0x28 (fun s => s.elec.smbBudget.setWidth 32),
  act cpmClearOff 1 0 (fun _ v s => when (bit v 1) clearPeak (when (bit v 0) clearThrottleTime s)),
  ro (cpmBase + 0x40) 20 4 (fun i s => (Table.get 0 s.elec.sensors i).setWidth 32),
  act pstateCtrlOff 1 0 (fun _ => writePstate) (fun _ s => cfgGet s pstateCtrlOff),
  cpro 0x104 pstateStatus,
  rw (cpmBase + 0x108) 1 0 0x1FF,
  cpro 0x10C (·.power.bankedCount),
  rw (cpmBase + 0x200) 1 0 0xFF,
  rw gpioOutOff 1 0 0xFF,
  cpro 0x208 (fun s => (gpioIn s).setWidth 32),
  cpro 0x20C (fun s => s.elec.strap.setWidth 32)]

def fro (base n : Nat) (f : State → Nat → Word) : Reg := ro (lcsBase + base) n 4 (fun i s => f s i)

def lcsRegs : List Reg := [
  fro 0x00 1 (fun s _ => lcsPowerClass s.boot.fuses),
  fro 0x04 1 (fun s _ => lcsOwner s.boot.fuses),
  fro 0x08 1 (fun s _ => lcsRollback s.boot.fuses),
  fro 0x0C 1 (fun s _ => lcsKeys s.boot.fuses),
  fro 0x10 1 (fun s _ => s.boot.fuses.locked),
  fro 0x20 4 (fun s i => pack 32 ((upTo 8).map (fun n => (4 * n, lockLeft s.boot.fuses (8 * i + n))))),
  fro 0x40 4 (fun s i => wordOf s.boot.nonce i),
  act orderCtrlOff 1 0 (fun _ v s => when (bit v 0) orderSubmit s),
  fro 0x54 1 (fun s _ => s.boot.orderStatus),
  rw (lcsBase + 0x1000) 160 4 0xFFFFFFFF,
  ro2 (lcsBase + 0x2000) 32 0x20 8 4 (fun r k s => wordOf (Table.get 0 s.boot.fuses.digests r) k)]

/-- The 32 bytes of a record (Table 16.3). -/
def EvRec.entry (e : EvRec) : Entry32 :=
  entry32 [(0, e.seq.toNat), (4, e.code.toNat), (6, e.sev.toNat), (7, e.kind.toNat), (8, e.id.toNat), (10, e.supp.toNat), (12, e.opSeconds.toNat),
    (16, e.powerCycles.toNat), (20, e.arg.toNat), (28, e.seqEnd.toNat)]

/-- Word `k` of a 64-bit array's entry `k / 2`. -/
def halfOf (t : Table DWord) (k : Nat) : Word := if k % 2 = 0 then loHalf (Table.get 0 t (k / 2)) else hiHalf (Table.get 0 t (k / 2))

/-- Word `k` of the soot image, its CRC apart (Table 16.6). -/
def sootWord (c : SootCopy) (k : Nat) : Word :=
  let t := c.soot
  if k = 0 then 1 else if k = 1 then t.checkpoints else if k = 2 then c.opSeconds else if k = 3 then c.powerCycles
  else if k < 20 then Table.get 0 t.tempHist (k - 4)
  else if k < 24 then Table.get 0 t.classTime (k - 20)
  else if k = 24 then t.hotEntries else if k = 25 then t.pcieReplays else if k = 26 then t.pcieLinkDown else if k = 27 then t.flrCount
  else if k < 44 then Table.get 0 t.hearthFaults (2 * (k - 28) + 1) ++ Table.get 0 t.hearthFaults (2 * (k - 28))
  else if k = 44 then t.channelFailed else if k = 45 then t.pfailCount
  else if k = 46 then loHalf t.spmEccCorr else if k = 47 then hiHalf t.spmEccCorr
  else if k = 48 then loHalf t.spmEccUncorr else if k = 49 then hiHalf t.spmEccUncorr
  else if k < 64 then 0
  else if k < 128 then halfOf t.dramCorr (k - 64)
  else if k < 160 then Table.get 0 t.dramUncorr (k - 128)
  else if k < 182 then halfOf t.stallArr (k - 160)
  else if k < 192 then 0
  else if k < 256 then Table.get 0 t.streamFaults (k - 192)
  else 0

/-- Word `k` of the EVR_SOOT window; zeros before the first SNAP since power-on (assumption log 58). -/
def sootWindow (s : State) (k : Nat) : Word :=
  match s.recorder.sootWin with
  | none => 0
  | some c => if k = 1023 then crc32 ((upTo 1023).flatMap (fun i => toBytes (sootWord c i) 4)) else sootWord c k

/-- Word `k` of record `i` of the SRAM page in EVR_RD_PAGE; zeros in a slot never written since power-on (assumption log 58). -/
def ringWord (s : State) (i k : Nat) : Word :=
  match Table.get none s.recorder.ring (128 * bits (cfgGet s (evrBase + 0x20)) 5 0 + i) with
  | none => 0
  | some e => wordOf e.entry k

/-- Word `k` of record place `i` of the loaded flash page; an erased place reads all ones (R421). -/
def flashWord (s : State) (i k : Nat) : Word :=
  match Table.get none s.recorder.flashWin i with
  | none => 0xFFFFFFFF
  | some e => wordOf e.entry k

def ero (base : Nat) (f : Recorder → Word) : Reg := ro (evrBase + base) 1 0 (fun _ s => f s.recorder)

def evrRegs : List Reg := [
  ero 0x00 (fun r => pack 32 [(3, b2n r.pfail), (2, b2n r.checkpoint.isSome), (1, b2n r.erasing.isSome), (0, b2n r.flushing.isSome)]),
  ero 0x04 (·.seqNext), ero 0x08 (·.seqFlushed), ero 0x0C (·.opSeconds), ero 0x10 (·.powerCycles),
  rw (evrBase + 0x14) 1 0 0xF,
  ero 0x18 (·.suppressed), ero 0x1C (·.lost),
  rw (evrBase + 0x20) 1 0 0x3F,
  act flashPageOff 1 0 (fun _ => writeFlashPage) (fun _ s => pack 32 [(31, b2n s.recorder.loading), (0, bits (cfgGet s flashPageOff) 9 0)]),
  act (evrBase + 0x28) 1 0 (fun _ v s => when (bit v 31) sootSnap s),
  ero 0x2C (·.sootAge),
  ro2 (evrBase + 0x1000) 128 32 8 4 (fun i k s => ringWord s i k),
  ro (evrBase + 0x2000) 1024 4 (fun k s => sootWindow s k),
  ro2 (evrBase + 0x3000) 128 32 8 4 (fun i k s => flashWord s i k)]

/-- SVC_CONFIRM_LEFT: ms left of the 60 s of R438. -/
def confirmLeft (s : State) : Word :=
  match s.boot.confirmAt with
  | none => 0
  | some t => nat32 (60000 - (s.now - t) / 1000000)

/-- The service port's addresses are written while its ENABLE is 0. -/
def svcLock (s : State) : Bool := svcOn s

/-- A write of a word of the SVC_RECOVERY window: discarded outside recovery. -/
def writeRecWindow (k : Nat) (v : Word) (s : State) : State :=
  if s.power.state = .recovery then
    modBoot (fun b => { b with recWindow := (upTo 4).foldl (fun t i => Table.set 0 t (4 * k + i) (byteAt (toBytes v 4) i)) b.recWindow }) s
  else s
def recWindowWord (k : Nat) (s : State) : Word :=
  if s.power.state = .recovery then ofBytes 32 ((upTo 4).map (fun i => Table.get 0 s.boot.recWindow (4 * k + i))) else 0

def sro (base n : Nat) (f : State → Nat → Word) : Reg := ro (svcBase + base) n 4 (fun i s => f s i)

def svcRegs : List Reg := [
  sro 0x00 1 (fun s _ => svcStatus s),
  sro 0x04 1 (fun s _ => s.boot.updStatus),
  sro 0x08 1 (fun s _ => nat32 s.boot.update.rxBytes),
  sro 0x0C 1 (fun s _ => nat32 s.boot.update.pkgBytes),
  act svcConfirmOff 1 0 (fun _ v s => when (bit v 0) confirm s),
  sro 0x14 1 (fun s _ => confirmLeft s),
  act updCtrlOff 1 0 (fun _ v s => when (bit v 1) forwardOffer (when (bit v 0) hostAbort s)),
  sro 0x1C 1 (fun s _ => svcFwVersion s),
  rw (svcBase + 0x20) 1 0 0xC000FFFF (fun _ => svcLock),
  rw (svcBase + 0x24) 1 0 1,
  act svcSaveOff 1 0 (fun _ v s => when (bit v 0) saveSettings s),
  rw64 svcMacOff 1 0 0xFFFFFFFFFFFF,
  rw (svcBase + 0x40) 4 4 0xFFFFFFFF (fun _ => svcLock),
  rw (svcBase + 0x50) 4 4 0xFFFFFFFF (fun _ => svcLock),
  rw (svcBase + 0x60) 1 0 0xFFFF (fun _ => svcLock),
  rw (svcBase + 0x100) 8 4 0xFFFFFFFF,
  act attestCtrlOff 1 0 (fun _ v s => when (bit v 0) attestGo s),
  sro 0x124 1 (fun s _ => pack 32 [(1, b2n s.boot.attestReady), (0, b2n s.boot.attestBusy)]),
  sro 0x128 1 (fun s _ => nat32 s.boot.identity.cert.length),
  act recCtrlOff 1 0 (fun _ => writeRecCtrl) (fun _ s => cfgGet s recCtrlOff),
  sro 0x1000 160 (fun s k => wordAt s.boot.attest k),
  sro 0x4000 2048 (fun s k => wordAt s.boot.identity.cert k),
  act (svcBase + 0x10000) 16384 4 writeRecWindow recWindowWord]

end Sys2Proof.Machine
end

