-- ==== Sys2Proof/Machine/Registers.lean ====
section
/-! DEFINITION. Accesses to BAR0: the map of registers, the halves of 64-bit registers, byte enables (R5–R12, R33, R373, R377). -/

namespace Sys2Proof.Machine
open Sys2Proof

/-- The map of the block that an offset lies in (Table 0.4). -/
def regMap (off : Nat) : List Reg :=
  if off < cpmBase then glbRegs
  else if off < lcsBase then cpmRegs
  else if off < evrBase then lcsRegs
  else if off < hqBase then evrRegs
  else if off < pepBase then hqRegs
  else if off < ethBase then pepRegs
  else if off < snsBase then ethRegs
  else if off < vcdBase then snsRegs
  else if off < sclBase then vcdRegs
  else if off < inpBase then sclRegs
  else if off < bpmBase then inpRegs
  else if off < schBase then bpmRegs
  else if off < stcBase then schRegs
  else if off < drcBase then stcRegs
  else if off < svcBase then drcRegs
  else if off < hearthBase 0 then svcRegs
  else
    let o := (off - hearthBase 0) % 0x80000
    if o < 0x10000 then hrtRegs else if o < 0x20000 then arrRegs else if o < 0x40000 then spmRegs else embRegs

/-- What a 4-byte offset of BAR0 holds. -/
inductive RegHit where
  /-- No register (R10). -/
  | empty
  /-- A 4-byte register. -/
  | word (r : Reg) (i j : Nat)
  /-- The low half, or the high half, of a 64-bit register (R11). -/
  | low (r : Reg) (i j : Nat)
  | high (r : Reg) (i j : Nat)

def regHit (off : Nat) : RegHit :=
  match findReg off (regMap off) with
  | some (r, i, j) => if r.wide then .low r i j else .word r i j
  | none =>
    if off < 4 then .empty else
    match findReg (off - 4) (regMap (off - 4)) with
    | some (r, i, j) => if r.wide then .high r i j else .empty
    | none => .empty

/-- The register that a low-half offset names: the shared DRC_ set is one set in every channel's block. -/
def holdKey (off : Nat) : Nat :=
  if drcBase ≤ off ∧ off < drcBase + 0x20000 ∧ 0x800 ≤ off % 0x1000 then drcBase + off % 0x1000 else off

/-! ### Reads -/

/-- The aligned word that holds an offset. -/
def alignedOff (off : BitVec 26) : Nat := off.toNat / 4 * 4

/-- What a 4-byte read of a served offset returns; the high half is the held one (R11). -/
def bar0Word (off : Nat) (s : State) : Word :=
  match regHit off with
  | .empty => 0
  | .word r i j => loHalf (r.read i j s)
  | .low r i j => loHalf (r.read i j s)
  | .high _ _ _ => Table.get 0 s.readHold (holdKey (off - 4))

/-- What an 8-byte read of a served offset returns: both halves of a 64-bit register from the same instant, with the
holding register unused, and otherwise its two words (R9, R11). -/
def bar0Pair (off : Nat) (s : State) : DWord :=
  match regHit off with
  | .low r i j => r.read i j s
  | _ => bar0Word (off + 4) s ++ bar0Word off s

/-- A 4-byte read of a low half copies the high half into the register's read holding register (R11). -/
def holdHigh (off : Nat) (s : State) : State :=
  match regHit off with
  | .low r i j => { s with readHold := Table.set 0 s.readHold (holdKey off) (hiHalf (r.read i j s)) }
  | _ => s

/-- A read of `len` bytes: 8 aligned bytes, or 4 bytes, those of the enclosing aligned word for any other size or
alignment (R9). Outside service a read returns zeros in Banked and in recovery, and is aborted and recorded before the
end of a boot or an FLR (R33, R377). -/
def bar0Read (off len : Nat) (s : State) : State :=
  let a := off / 4 * 4
  if s.pcie.notReady then abortRead 0 a (recordBar a s)
  else if len = 8 ∧ off % 8 = 0 then
    emit (.barRead 0 a (toBytes (if bar0Served s a then bar0Pair a s else 0) 8) false .success) s
  else if bar0Served s a then emit (.barRead 0 a (toBytes (bar0Word a s) 4) false .success) (holdHigh a s)
  else emit (.barRead 0 a (toBytes (0 : Word) 4) false .success) s

/-! ### Writes -/

/-- A full 4-byte write at a served offset (R5, R10, R11). -/
def writeReg (off : Nat) (v : Word) (s : State) : State :=
  match regHit off with
  | .empty => s
  | .word r i j => if r.lock i j s then recordWrite off v s else r.write i j (v.setWidth 64) s
  | .low r i j =>
    if r.lock i j s then recordWrite off v s
    else { s with writeHold := Table.set none s.writeHold (holdKey off) (some v) }
  | .high r i j =>
    if r.lock i j s then recordWrite off v s
    else
      let k := holdKey (off - 4)
      let lo := (Table.get none s.writeHold k).getD (loHalf (r.read i j s))
      r.write i j (v ++ lo) { s with writeHold := Table.set none s.writeHold k none }

/-- A full 8-byte write of a 64-bit register; none where the offset is not one's low half (R11). -/
def writeWide (off : Nat) (v : DWord) (s : State) : Option State :=
  match regHit off with
  | .low r i j =>
    some (if r.lock i j s then recordWrite off (loHalf v) s
      else r.write i j v { s with writeHold := Table.set none s.writeHold (holdKey off) none })
  | _ => none

/-- One aligned word of a write with its byte enables (R9). -/
def writeWord (off : Nat) (v : Word) (be : BitVec 4) (s : State) : State :=
  if be = 0 then s else if be = 15 then writeReg off v s else recordBar off s

/-- A write of one word, or of an aligned pair (R9). -/
def bar0Write (off : Nat) (lo : Word) (loBe : BitVec 4) (hi : Option (Word × BitVec 4)) (s : State) : State :=
  match hi with
  | none => writeWord off lo loBe s
  | some (h, be) =>
    let apart := writeWord (off + 4) h be (writeWord off lo loBe s)
    if off % 8 = 0 ∧ loBe = 15 ∧ be = 15 then (writeWide off (h ++ lo) s).getD apart else apart

/-- REGISTER_WRITE; a poisoned write changes no register (R373). -/
def execRegisterWrite (off : BitVec 26) (lo : Word) (loBe : BitVec 4) (hi : Option (Word × BitVec 4)) (poisoned : Bool) (s : State) : Res :=
  rooted s (if poisoned then poisonedTlp s else guard (alignedOff off) (bar0Write (alignedOff off) lo loBe hi) s)

/-- LOW_HALF_READ, and with its length every other read of BAR0 (R9, R11). -/
def execLowHalfRead (off : BarSpan) (s : State) : Res := rooted s (bar0Read off.off.toNat off.len.toNat s)

/-- LOW_HALF_WRITE -/
def execLowHalfWrite (off : BitVec 26) (value : Word) (s : State) : Res :=
  .next (guard (alignedOff off) (writeReg (alignedOff off) value) s)

/-- HIGH_HALF_WRITE -/
def execHighHalfWrite (off : BitVec 26) (value : Word) (s : State) : Res :=
  .next (guard (alignedOff off) (writeReg (alignedOff off) value) s)

end Sys2Proof.Machine
end

