-- ==== Sys2Proof/Machine/Dispatch.lean ====
section
/-! DEFINITION. One arm per command: the meaning it calls. -/

namespace Sys2Proof.Machine
open Sys2Proof

def exec (i : Instr) (s : State) : Host.Outcome State Fault Refusal :=
  match i with
  | .registerWrite off lo loBe hi poisoned => Sys2Proof.Machine.execRegisterWrite off lo loBe hi poisoned s
  | .lowHalfRead off => Sys2Proof.Machine.execLowHalfRead off s
  | .lowHalfWrite off value => Sys2Proof.Machine.execLowHalfWrite off value s
  | .highHalfWrite off value => Sys2Proof.Machine.execHighHalfWrite off value s
  | .powerOnReset gpio => Sys2Proof.Machine.execPowerOnReset gpio s
  | .perstNAssert => Sys2Proof.Machine.execPerstNAssert s
  | .perstNRelease => Sys2Proof.Machine.execPerstNRelease s
  | .pllLock => Sys2Proof.Machine.execPllLock s
  | .pllLockLost => Sys2Proof.Machine.execPllLockLost s
  | .sysclkLoss => Sys2Proof.Machine.execSysclkLoss s
  | .sysclkReturn => Sys2Proof.Machine.execSysclkReturn s
  | .bankedRequest => Sys2Proof.Machine.execBankedRequest s
  | .litRequest => Sys2Proof.Machine.execLitRequest s
  | .bankedEntryComplete => Sys2Proof.Machine.execBankedEntryComplete s
  | .bankedExitComplete => Sys2Proof.Machine.execBankedExitComplete s
  | .gpioWake pin => Sys2Proof.Machine.execGpioWake pin s
  | .pfailAssert => Sys2Proof.Machine.execPfailAssert s
  | .pfailDeassertConfirmed => Sys2Proof.Machine.execPfailDeassertConfirmed s
  | .supplyLoss => Sys2Proof.Machine.execSupplyLoss s
  | .updateInhibitAssert => Sys2Proof.Machine.execUpdateInhibitAssert s
  | .updateInhibitDeassert => Sys2Proof.Machine.execUpdateInhibitDeassert s
  | .flr => Sys2Proof.Machine.execFlr s
  | .flrReady => Sys2Proof.Machine.execFlrReady s
  | .scalarLoad h c rd rs1 imm size compressed errs rivals => Sys2Proof.Machine.execScalarLoad h c rd rs1 imm size compressed errs rivals s
  | .scalarStore h c rs1 rs2 imm size compressed tag rivals => Sys2Proof.Machine.execScalarStore h c rs1 rs2 imm size compressed tag rivals s
  | .fence h c => Sys2Proof.Machine.execFence h c s
  | .ecall h c => Sys2Proof.Machine.execEcall h c s
  | .ebreak h c compressed => Sys2Proof.Machine.execEbreak h c compressed s
  | .xeVadd o => Sys2Proof.Machine.execXeVadd o s
  | .xeVsub o => Sys2Proof.Machine.execXeVsub o s
  | .xeVmul o => Sys2Proof.Machine.execXeVmul o s
  | .xeVmax o => Sys2Proof.Machine.execXeVmax o s
  | .xeVmin o => Sys2Proof.Machine.execXeVmin o s
  | .xeVcmp o => Sys2Proof.Machine.execXeVcmp o s
  | .xeVdot o => Sys2Proof.Machine.execXeVdot o s
  | .xeVcvt o => Sys2Proof.Machine.execXeVcvt o s
  | .xeVshuf o => Sys2Proof.Machine.execXeVshuf o s
  | .xeVmvx o toX => Sys2Proof.Machine.execXeVmvx o toX s
  | .xeIou o => Sys2Proof.Machine.execXeIou o s
  | .xeBdec o => Sys2Proof.Machine.execXeBdec o s
  | .xeBsort o => Sys2Proof.Machine.execXeBsort o s
  | .xeVld h c vd rs1 imm errs rivals => Sys2Proof.Machine.execXeVld h c vd rs1 imm errs rivals s
  | .xeVst h c vs2 rs1 imm rivals => Sys2Proof.Machine.execXeVst h c vs2 rs1 imm rivals s
  | .xeTake h c rd ladle => Sys2Proof.Machine.execXeTake h c rd ladle s
  | .xeDone h c rs1 ladle => Sys2Proof.Machine.execXeDone h c rs1 ladle s
  | .xeCwait h c rs1 ctr => Sys2Proof.Machine.execXeCwait h c rs1 ctr s
  | .xeTrie h c rd rs1 rs2 => Sys2Proof.Machine.execXeTrie h c rd rs1 rs2 s
  | .remoteLoadResponse h c errs cycles cause => Sys2Proof.Machine.execRemoteLoadResponse h c errs cycles cause s
  | .storeAck h c dst tag => Sys2Proof.Machine.execStoreAck h c dst tag s
  | .cwaitRelease h c cycles => Sys2Proof.Machine.execCwaitRelease h c cycles s
  | .stealProbe h ladle => Sys2Proof.Machine.execStealProbe h ladle s
  | .stealSwap h ladle => Sys2Proof.Machine.execStealSwap h ladle s
  | .stealReply h ladle cycles => Sys2Proof.Machine.execStealReply h ladle cycles s
  | .completionReport home => Sys2Proof.Machine.execCompletionReport home s
  | .heartbeatTimeout h => Sys2Proof.Machine.execHeartbeatTimeout h s
  | .hearthInternalError h parity => Sys2Proof.Machine.execHearthInternalError h parity s
  | .removalComplete h => Sys2Proof.Machine.execRemovalComplete h s
  | .restore h => Sys2Proof.Machine.execRestore h s
  | .retire h => Sys2Proof.Machine.execRetire h s
  | .hearthTestComplete h selfTestPass => Sys2Proof.Machine.execHearthTestComplete h selfTestPass s
  | .flitLand h port tag => Sys2Proof.Machine.execFlitLand h port tag s
  | .flueCreditReturn h port cycles => Sys2Proof.Machine.execFlueCreditReturn h port cycles s
  | .flueDrainComplete h port => Sys2Proof.Machine.execFlueDrainComplete h port s
  | .stallClearArr h => Sys2Proof.Machine.execStallClearArr h s
  | .stallClearEmb h => Sys2Proof.Machine.execStallClearEmb h s
  | .cmdHwmClear h => Sys2Proof.Machine.execCmdHwmClear h s
  | .passStart h a errs stalls withheld => Sys2Proof.Machine.execPassStart h a errs stalls withheld s
  | .weightRowWrite h a errs => Sys2Proof.Machine.execWeightRowWrite h a errs s
  | .passComplete h a => Sys2Proof.Machine.execPassComplete h a s
  | .drainStart h a => Sys2Proof.Machine.execDrainStart h a s
  | .drainRowsLanded h a n tag stalls => Sys2Proof.Machine.execDrainRowsLanded h a n tag stalls s
  | .arrCountClear h a => Sys2Proof.Machine.execArrCountClear h a s
  | .adaptStepComplete job runs grads acts => Sys2Proof.Machine.execAdaptStepComplete job runs grads acts s
  | .quantiseComplete job place touch => Sys2Proof.Machine.execQuantiseComplete job place touch s
  | .modelPublish model version package => Sys2Proof.Machine.execModelPublish model version package s
  | .versionDelete model version => Sys2Proof.Machine.execVersionDelete model version s
  | .bankPowerSettled h bank => Sys2Proof.Machine.execBankPowerSettled h bank s
  | .scrubBankComplete h => Sys2Proof.Machine.execScrubBankComplete h s
  | .counterAdd h ctr v src tag poison => Sys2Proof.Machine.execCounterAdd h ctr v src tag poison s
  | .counterSet h ctr v poison => Sys2Proof.Machine.execCounterSet h ctr v poison s
  | .hoopHeadAdvance h hoop n src tag poison => Sys2Proof.Machine.execHoopHeadAdvance h hoop n src tag poison s
  | .hoopTailAdvance h hoop n src tag poison => Sys2Proof.Machine.execHoopTailAdvance h hoop n src tag poison s
  | .spmEccWriteback h granule => Sys2Proof.Machine.execSpmEccWriteback h granule s
  | .marchStart h ctrl => Sys2Proof.Machine.execMarchStart h ctrl s
  | .marchBankComplete h pass => Sys2Proof.Machine.execMarchBankComplete h pass s
  | .marchComplete h fail element word => Sys2Proof.Machine.execMarchComplete h fail element word s
  | .spmClearBankConflict h => Sys2Proof.Machine.execSpmClearBankConflict h s
  | .spmClearMasterConflict h => Sys2Proof.Machine.execSpmClearMasterConflict h s
  | .spmClearEcc h => Sys2Proof.Machine.execSpmClearEcc h s
  | .spmClearAccess h => Sys2Proof.Machine.execSpmClearAccess h s
  | .bar4Read offset len errs rivals => Sys2Proof.Machine.execBar4Read offset len errs rivals s
  | .bar4Write offset data poisoned rivals => Sys2Proof.Machine.execBar4Write offset data poisoned rivals s
  | .nop job seq => Sys2Proof.Machine.execNop job seq s
  | .jobBegin job seq => Sys2Proof.Machine.execJobBegin job seq s
  | .jobEnd job seq => Sys2Proof.Machine.execJobEnd job seq s
  | .bindHoop job seq => Sys2Proof.Machine.execBindHoop job seq s
  | .setCounter job seq => Sys2Proof.Machine.execSetCounter job seq s
  | .semAcquire job seq => Sys2Proof.Machine.execSemAcquire job seq s
  | .semRelease job seq => Sys2Proof.Machine.execSemRelease job seq s
  | .load job seq n => Sys2Proof.Machine.execLoad job seq n s
  | .store job seq n => Sys2Proof.Machine.execStore job seq n s
  | .fill job seq n => Sys2Proof.Machine.execFill job seq n s
  | .fetchTransferComplete job seq tag => Sys2Proof.Machine.execFetchTransferComplete job seq tag s
  | .gemm job seq h a => Sys2Proof.Machine.execGemm job seq h a s
  | .conv job seq h a => Sys2Proof.Machine.execConv job seq h a s
  | .pool job seq h => Sys2Proof.Machine.execPool job seq h s
  | .fused job seq h => Sys2Proof.Machine.execFused job seq h s
  | .arrayPass job seq => Sys2Proof.Machine.execArrayPass job seq s
  | .drain job seq => Sys2Proof.Machine.execDrain job seq s
  | .kernel job seq h => Sys2Proof.Machine.execKernel job seq h s
  | .curdTake job seq tag => Sys2Proof.Machine.execCurdTake job seq tag s
  | .curdTakeServe bucket => Sys2Proof.Machine.execCurdTakeServe bucket s
  | .emit job seq tag => Sys2Proof.Machine.execEmit job seq tag s
  | .emitHandover job seq tag => Sys2Proof.Machine.execEmitHandover job seq tag s
  | .commandStart job seq => Sys2Proof.Machine.execCommandStart job seq s
  | .weightPrefetch job seq h => Sys2Proof.Machine.execWeightPrefetch job seq h s
  | .commandRetire job seq => Sys2Proof.Machine.execCommandRetire job seq s
  | .reloadStart region kill => Sys2Proof.Machine.execReloadStart region kill s
  | .reloadCancel region kill => Sys2Proof.Machine.execReloadCancel region kill s
  | .reloadVerifyComplete => Sys2Proof.Machine.execReloadVerifyComplete s
  | .reloadQuiesceComplete => Sys2Proof.Machine.execReloadQuiesceComplete s
  | .reloadApplyComplete => Sys2Proof.Machine.execReloadApplyComplete s
  | .vatEnable vat => Sys2Proof.Machine.execVatEnable vat s
  | .vatDisable vat => Sys2Proof.Machine.execVatDisable vat s
  | .refreshWindowStart => Sys2Proof.Machine.execRefreshWindowStart s
  | .refreshWindowEnd => Sys2Proof.Machine.execRefreshWindowEnd s
  | .retrainDue c => Sys2Proof.Machine.execRetrainDue c s
  | .retrainPauseEnd c marginOk => Sys2Proof.Machine.execRetrainPauseEnd c marginOk s
  | .dramTempRead t0 t1 t2 t3 => Sys2Proof.Machine.execDramTempRead t0 t1 t2 t3 s
  | .dramRequest port addr len hint write poisoned => Sys2Proof.Machine.execDramRequest port addr len hint write poisoned s
  | .dramReadDeliver c errs => Sys2Proof.Machine.execDramReadDeliver c errs s
  | .patrolRead c errs => Sys2Proof.Machine.execPatrolRead c errs s
  | .rowIdleClose c bank => Sys2Proof.Machine.execRowIdleClose c bank s
  | .fullRetrain c => Sys2Proof.Machine.execFullRetrain c s
  | .fullRetrainAttemptEnd c pass => Sys2Proof.Machine.execFullRetrainAttemptEnd c pass s
  | .trainingAttemptEnd c pass => Sys2Proof.Machine.execTrainingAttemptEnd c pass s
  | .drcClearTraffic c => Sys2Proof.Machine.execDrcClearTraffic c s
  | .drcClearEcc c => Sys2Proof.Machine.execDrcClearEcc c s
  | .drcClearQueueHwm c => Sys2Proof.Machine.execDrcClearQueueHwm c s
  | .drcClearPort => Sys2Proof.Machine.execDrcClearPort s
  | .drcClearHot => Sys2Proof.Machine.execDrcClearHot s
  | .sessionEnable ses => Sys2Proof.Machine.execSessionEnable ses s
  | .sessionDisable ses => Sys2Proof.Machine.execSessionDisable ses s
  | .sessionTailWrite ses value => Sys2Proof.Machine.execSessionTailWrite ses value s
  | .sessionStopComplete ses => Sys2Proof.Machine.execSessionStopComplete ses s
  | .decodeClaim core parse => Sys2Proof.Machine.execDecodeClaim core parse s
  | .decodeUnitComplete core blocks memStall => Sys2Proof.Machine.execDecodeUnitComplete core blocks memStall s
  | .scalerRowCredit scaler => Sys2Proof.Machine.execScalerRowCredit scaler s
  | .streamedRow core blocks creditStall => Sys2Proof.Machine.execStreamedRow core blocks creditStall s
  | .decoderEnable core => Sys2Proof.Machine.execDecoderEnable core s
  | .decoderDisable core => Sys2Proof.Machine.execDecoderDisable core s
  | .encoderEnable core => Sys2Proof.Machine.execEncoderEnable core s
  | .encoderDisable core => Sys2Proof.Machine.execEncoderDisable core s
  | .encodeAttemptComplete core qp data => Sys2Proof.Machine.execEncodeAttemptComplete core qp data s
  | .vcdClearSes => Sys2Proof.Machine.execVcdClearSes s
  | .vcdClearEnc => Sys2Proof.Machine.execVcdClearEnc s
  | .vcdClearDec => Sys2Proof.Machine.execVcdClearDec s
  | .progCommit value => Sys2Proof.Machine.execProgCommit value s
  | .scalerEnable scaler => Sys2Proof.Machine.execScalerEnable scaler s
  | .scalerDisable scaler => Sys2Proof.Machine.execScalerDisable scaler s
  | .scalerJobStart scaler => Sys2Proof.Machine.execScalerJobStart scaler s
  | .scalerJobComplete scaler job memStall => Sys2Proof.Machine.execScalerJobComplete scaler job memStall s
  | .cropRingPoll scaler => Sys2Proof.Machine.execCropRingPoll scaler s
  | .cropHoldExpire source ts => Sys2Proof.Machine.execCropHoldExpire source ts s
  | .cropRingEnable group value => Sys2Proof.Machine.execCropRingEnable group value s
  | .cropRingDisable group value => Sys2Proof.Machine.execCropRingDisable group value s
  | .sclClearGroup => Sys2Proof.Machine.execSclClearGroup s
  | .sclClearScaler => Sys2Proof.Machine.execSclClearScaler s
  | .csiFrameStart source frame => Sys2Proof.Machine.execCsiFrameStart source frame s
  | .csiFrameEnd source frame => Sys2Proof.Machine.execCsiFrameEnd source frame s
  | .csiLongPacket source vcx dataType ecc crcOk data => Sys2Proof.Machine.execCsiLongPacket source vcx dataType ecc crcOk data s
  | .sensorEnable source => Sys2Proof.Machine.execSensorEnable source s
  | .sensorDisable source => Sys2Proof.Machine.execSensorDisable source s
  | .sensorStopComplete source => Sys2Proof.Machine.execSensorStopComplete source s
  | .bucketEnable bucket => Sys2Proof.Machine.execBucketEnable bucket s
  | .bucketDisable bucket => Sys2Proof.Machine.execBucketDisable bucket s
  | .bucketStopComplete bucket => Sys2Proof.Machine.execBucketStopComplete bucket s
  | .curdFillTimeout bucket => Sys2Proof.Machine.execCurdFillTimeout bucket s
  | .curdReady bucket => Sys2Proof.Machine.execCurdReady bucket s
  | .alignBlockTimeout set => Sys2Proof.Machine.execAlignBlockTimeout set s
  | .snsClearSet => Sys2Proof.Machine.execSnsClearSet s
  | .snsClearSrc => Sys2Proof.Machine.execSnsClearSrc s
  | .snsClearRx => Sys2Proof.Machine.execSnsClearRx s
  | .inpClearBkt => Sys2Proof.Machine.execInpClearBkt s
  | .recordPost source => Sys2Proof.Machine.execRecordPost source s
  | .snapshot route entry => Sys2Proof.Machine.execSnapshot route entry s
  | .clip route entry => Sys2Proof.Machine.execClip route entry s
  | .clipStop route entry => Sys2Proof.Machine.execClipStop route entry s
  | .clipTimeTake route reqId => Sys2Proof.Machine.execClipTimeTake route reqId s
  | .jobDispatch vat => Sys2Proof.Machine.execJobDispatch vat s
  | .semHoldLimitExpire vat => Sys2Proof.Machine.execSemHoldLimitExpire vat s
  | .switchOutComplete vat => Sys2Proof.Machine.execSwitchOutComplete vat s
  | .switchInComplete vat => Sys2Proof.Machine.execSwitchInComplete vat s
  | .jobKill job => Sys2Proof.Machine.execJobKill job s
  | .teardownComplete job => Sys2Proof.Machine.execTeardownComplete job s
  | .caveTensorLanded vat model version tensor => Sys2Proof.Machine.execCaveTensorLanded vat model version tensor s
  | .schClearCave => Sys2Proof.Machine.execSchClearCave s
  | .schClearVat => Sys2Proof.Machine.execSchClearVat s
  | .poolEnable group => Sys2Proof.Machine.execPoolEnable group s
  | .poolDisable group => Sys2Proof.Machine.execPoolDisable group s
  | .bufferRequest ses => Sys2Proof.Machine.execBufferRequest ses s
  | .bufferMarkChange engineGroup handle change => Sys2Proof.Machine.execBufferMarkChange engineGroup handle change s
  | .deadlockEval => Sys2Proof.Machine.execDeadlockEval s
  | .bpmClearPool => Sys2Proof.Machine.execBpmClearPool s
  | .cmdTailDoorbell q t => Sys2Proof.Machine.execCmdTailDoorbell q t s
  | .rspHeadDoorbell q head => Sys2Proof.Machine.execRspHeadDoorbell q head s
  | .qpEnable q => Sys2Proof.Machine.execQpEnable q s
  | .qpDisable q => Sys2Proof.Machine.execQpDisable q s
  | .qpStopComplete q => Sys2Proof.Machine.execQpStopComplete q s
  | .commandFetch q => Sys2Proof.Machine.execCommandFetch q s
  | .commandReadComplete tag entries => Sys2Proof.Machine.execCommandReadComplete tag entries s
  | .completionTimeout tag => Sys2Proof.Machine.execCompletionTimeout tag s
  | .lateCompletion tag => Sys2Proof.Machine.execLateCompletion tag s
  | .unexpectedCompletion tag => Sys2Proof.Machine.execUnexpectedCompletion tag s
  | .quarantineExpire tag => Sys2Proof.Machine.execQuarantineExpire tag s
  | .messagePost q => Sys2Proof.Machine.execMessagePost q s
  | .irqTimer q => Sys2Proof.Machine.execIrqTimer q s
  | .windowCommit mask => Sys2Proof.Machine.execWindowCommit mask s
  | .bar2Read offset len => Sys2Proof.Machine.execBar2Read offset len s
  | .bar2Write offset data poisoned => Sys2Proof.Machine.execBar2Write offset data poisoned s
  | .ecrcRequestError => Sys2Proof.Machine.execEcrcRequestError s
  | .noBarRequest => Sys2Proof.Machine.execNoBarRequest s
  | .fatalTlpError err => Sys2Proof.Machine.execFatalTlpError err s
  | .linkReplay n => Sys2Proof.Machine.execLinkReplay n s
  | .configRequest field write => Sys2Proof.Machine.execConfigRequest field write s
  | .pepClear => Sys2Proof.Machine.execPepClear s
  | .hqClearHwm => Sys2Proof.Machine.execHqClearHwm s
  | .hqClearCounts => Sys2Proof.Machine.execHqClearCounts s
  | .portEnable port => Sys2Proof.Machine.execPortEnable port s
  | .portDisable port => Sys2Proof.Machine.execPortDisable port s
  | .portShutdownComplete port => Sys2Proof.Machine.execPortShutdownComplete port s
  | .ethLinkUp link speed fec => Sys2Proof.Machine.execEthLinkUp link speed fec s
  | .ethLinkDown link => Sys2Proof.Machine.execEthLinkDown link s
  | .pfcFrame link priority pause => Sys2Proof.Machine.execPfcFrame link priority pause s
  | .udpDatagram link ok src srcPort dst dstPort ce payload fec => Sys2Proof.Machine.execUdpDatagram link ok src srcPort dst dstPort ce payload fec s
  | .rtpPacket session packet => Sys2Proof.Machine.execRtpPacket session packet s
  | .rtpGapTimeout session => Sys2Proof.Machine.execRtpGapTimeout session s
  | .rtcpSenderReport session ssrc ntp rtpTs => Sys2Proof.Machine.execRtcpSenderReport session ssrc ntp rtpTs s
  | .rtcpReportTimer session => Sys2Proof.Machine.execRtcpReportTimer session s
  | .rtspReply session ok pt sprop => Sys2Proof.Machine.execRtspReply session ok pt sprop s
  | .rtspRetryTimer session => Sys2Proof.Machine.execRtspRetryTimer session s
  | .rtspKeepaliveTimer session => Sys2Proof.Machine.execRtspKeepaliveTimer session s
  | .dataFrame flow seq ack limit epoch more ece ce payload => Sys2Proof.Machine.execDataFrame flow seq ack limit epoch more ece ce payload s
  | .ackFrame flow ack limit epoch ece ce => Sys2Proof.Machine.execAckFrame flow ack limit epoch ece ce s
  | .ackTimer flow => Sys2Proof.Machine.execAckTimer flow s
  | .retxTimeout flow => Sys2Proof.Machine.execRetxTimeout flow s
  | .hello member hello => Sys2Proof.Machine.execHello member hello s
  | .leave member => Sys2Proof.Machine.execLeave member s
  | .helloTimer member => Sys2Proof.Machine.execHelloTimer member s
  | .memberTimeout member => Sys2Proof.Machine.execMemberTimeout member s
  | .ccStallTimeout d => Sys2Proof.Machine.execCcStallTimeout d s
  | .ccProbeTimer d => Sys2Proof.Machine.execCcProbeTimer d s
  | .joinEnable => Sys2Proof.Machine.execJoinEnable s
  | .joinDisable => Sys2Proof.Machine.execJoinDisable s
  | .joinShutdownComplete => Sys2Proof.Machine.execJoinShutdownComplete s
  | .ethClearJoin => Sys2Proof.Machine.execEthClearJoin s
  | .ethClearCc => Sys2Proof.Machine.execEthClearCc s
  | .ethClearRtp => Sys2Proof.Machine.execEthClearRtp s
  | .ethClearLink => Sys2Proof.Machine.execEthClearLink s
  | .engineHangTimeout engine blocks data => Sys2Proof.Machine.execEngineHangTimeout engine blocks data s
  | .mantelWatchdogTimeout core => Sys2Proof.Machine.execMantelWatchdogTimeout core s
  | .flushTimer => Sys2Proof.Machine.execFlushTimer s
  | .flushComplete => Sys2Proof.Machine.execFlushComplete s
  | .eraseComplete => Sys2Proof.Machine.execEraseComplete s
  | .rateBudgetRefill => Sys2Proof.Machine.execRateBudgetRefill s
  | .opSecondTick => Sys2Proof.Machine.execOpSecondTick s
  | .sootCheckpointTimer => Sys2Proof.Machine.execSootCheckpointTimer s
  | .checkpointComplete => Sys2Proof.Machine.execCheckpointComplete s
  | .flashPageLoad page => Sys2Proof.Machine.execFlashPageLoad page s
  | .flashPageReady => Sys2Proof.Machine.execFlashPageReady s
  | .sootSnap => Sys2Proof.Machine.execSootSnap s
  | .firmwareStart faulted models => Sys2Proof.Machine.execFirmwareStart faulted models s
  | .drawCheckComplete codecOk => Sys2Proof.Machine.execDrawCheckComplete codecOk s
  | .confirm => Sys2Proof.Machine.execConfirm s
  | .confirmTimeout => Sys2Proof.Machine.execConfirmTimeout s
  | .recoveryWrite offset => Sys2Proof.Machine.execRecoveryWrite offset s
  | .recoveryEnd offset => Sys2Proof.Machine.execRecoveryEnd offset s
  | .attestGo => Sys2Proof.Machine.execAttestGo s
  | .attestReady => Sys2Proof.Machine.execAttestReady s
  | .orderSubmit => Sys2Proof.Machine.execOrderSubmit s
  | .fuseBurnComplete => Sys2Proof.Machine.execFuseBurnComplete s
  | .updateOffer flow => Sys2Proof.Machine.execUpdateOffer flow s
  | .updateChunk flow => Sys2Proof.Machine.execUpdateChunk flow s
  | .updateEnd flow => Sys2Proof.Machine.execUpdateEnd flow s
  | .updateVerifyComplete modelsOk => Sys2Proof.Machine.execUpdateVerifyComplete modelsOk s
  | .updateResult flow => Sys2Proof.Machine.execUpdateResult flow s
  | .updateAbortOp flow => Sys2Proof.Machine.execUpdateAbortOp flow s
  | .updateConfirmOp flow => Sys2Proof.Machine.execUpdateConfirmOp flow s
  | .chunkTimeout => Sys2Proof.Machine.execChunkTimeout s
  | .updateForward => Sys2Proof.Machine.execUpdateForward s
  | .updateAbort => Sys2Proof.Machine.execUpdateAbort s
  | .settingsSave => Sys2Proof.Machine.execSettingsSave s
  | .railLow rail => Sys2Proof.Machine.execRailLow rail s
  | .railRecovered rail => Sys2Proof.Machine.execRailRecovered rail s
  | .avsStep up measured => Sys2Proof.Machine.execAvsStep up measured s
  | .avsFailure => Sys2Proof.Machine.execAvsFailure s
  | .powerStep p => Sys2Proof.Machine.execPowerStep p s
  | .thermalSensorRead readings => Sys2Proof.Machine.execThermalSensorRead readings s
  | .thermalBudgetStep => Sys2Proof.Machine.execThermalBudgetStep s
  | .budgetWrite value => Sys2Proof.Machine.execBudgetWrite value s
  | .cpmClearPeak => Sys2Proof.Machine.execCpmClearPeak s
  | .cpmClearTime => Sys2Proof.Machine.execCpmClearTime s
  | .trippedClear tripNow => Sys2Proof.Machine.execTrippedClear tripNow s
  | .gpioOutWrite value => Sys2Proof.Machine.execGpioOutWrite value s
  | .smbId => Sys2Proof.Machine.execSmbId s
  | .smbState => Sys2Proof.Machine.execSmbState s
  | .smbTemp => Sys2Proof.Machine.execSmbTemp s
  | .smbPower => Sys2Proof.Machine.execSmbPower s
  | .smbBudgetRead => Sys2Proof.Machine.execSmbBudgetRead s
  | .smbBudgetWrite value => Sys2Proof.Machine.execSmbBudgetWrite value s
  | .smbStatus => Sys2Proof.Machine.execSmbStatus s
  | .smbWake => Sys2Proof.Machine.execSmbWake s
  | .smbTherm => Sys2Proof.Machine.execSmbTherm s
  | .smbAlertResponse => Sys2Proof.Machine.execSmbAlertResponse s
  | .smbTimeout => Sys2Proof.Machine.execSmbTimeout s
  | .jtagBypass => Sys2Proof.Machine.execJtagBypass s
  | .jtagIdcode => Sys2Proof.Machine.execJtagIdcode s
  | .jtagSamplePreload captured update => Sys2Proof.Machine.execJtagSamplePreload captured update s
  | .jtagExtest captured update => Sys2Proof.Machine.execJtagExtest captured update s
  | .jtagExtestPulse captured update => Sys2Proof.Machine.execJtagExtestPulse captured update s
  | .jtagExtestTrain captured update => Sys2Proof.Machine.execJtagExtestTrain captured update s
  | .jtagClamp => Sys2Proof.Machine.execJtagClamp s
  | .jtagHighz => Sys2Proof.Machine.execJtagHighz s
  | .bootComplete => Sys2Proof.Machine.execBootComplete s
  | .dramCommandIssue c => Sys2Proof.Machine.execDramCommandIssue c s
  | .csiShortPacket source vcx dataType ecc => Sys2Proof.Machine.execCsiShortPacket source vcx dataType ecc s
  | .dphyLaneStateChange receiver stop ulps hs => Sys2Proof.Machine.execDphyLaneStateChange receiver stop ulps hs s
  | .pcieLinkUp speed width => Sys2Proof.Machine.execPcieLinkUp speed width s
  | .pcieLinkDown => Sys2Proof.Machine.execPcieLinkDown s
  | .aspmL1Entry l11 => Sys2Proof.Machine.execAspmL1Entry l11 s
  | .aspmL1Exit => Sys2Proof.Machine.execAspmL1Exit s
  | .completionErrorStatus tag err => Sys2Proof.Machine.execCompletionErrorStatus tag err s
  | .ethFrameReceived link answer fec => Sys2Proof.Machine.execEthFrameReceived link answer fec s
  | .smbOtherCommand => Sys2Proof.Machine.execSmbOtherCommand s
  | .hccHeartbeat h => Sys2Proof.Machine.execHccHeartbeat h s

end Sys2Proof.Machine
end

