-- ==== Sys2Proof/Machine/Step.lean ====
section
/-! DEFINITION. One step: the command at the front of the queue, or a tick of the model's clock where none waits. -/

namespace Sys2Proof.Machine
open Sys2Proof

/-- Take the command at the front and run it on the state with the queue's rest; with no command the block idles, and
1 ns passes on the model's clock (assumption log 2). -/
def step (s : State) : Host.Outcome State Fault Refusal :=
  match s.pending with
  | [] => .next { s with now := s.now + 1 }
  | c :: cs => exec c { s with pending := cs }

/-- `s` with the command that the word spells in front of its queue; unchanged where the word spells none. -/
def State.withFetchWord (s : State) (nbits w : Nat) : State :=
  match decodeTableWord nbits w with
  | none => s
  | some c => { s with pending := c :: s.pending }

end Sys2Proof.Machine
end

