-- ==== Sys2Proof/Safety.lean ====
section
/-! DEFINITION. What a safe run is and the terms that statements use: a command that completes, what a command may
change, and the invariants of fuses and memories. -/

namespace Sys2Proof
open Sys2Proof.Machine

/-- The command completes in `s`: it answers a next state, of which `P` holds. -/
def Completes (c : Instr) (s : State) (P : State → Prop) : Prop := ∃ t, exec c s = .next t ∧ P t

/-- The command completes and changes nothing. -/
def Idles (c : Instr) (s : State) : Prop := exec c s = .next s

/-- A step that goes on: no fault and no refusal. -/
def Safe (s : State) : Prop := ∃ t, step s = .next t

/-- The device serves every BAR0 block: Lit, past the boot or an FLR, its root clocks running (R29, R33, R377). -/
abbrev Serving (s : State) : Prop := s.power.state = .lit ∧ s.pcie.notReady = false ∧ clocked s = true

/-! ### Resets -/

/-- `t` is what a fundamental reset leaves of `s` (Table 0.5, R29, R36): everything outside the always-on island is as at
reset, DRAM and its poison included; flash, fuses, the registers of `keptCfg`, the join's entry count and the count of Banked
entries stay. -/
def RootReset (s t : State) : Prop :=
  t = { State.reset with
    pending := s.pending, now := s.now, out := s.out, fresh := t.fresh, cfg := t.cfg, readHold := t.readHold, recorder := t.recorder
    power := { Power.reset with bankedCount := s.power.bankedCount }
    ether := { State.reset.ether with joinEntries := s.ether.joinEntries }
    channels := t.channels, drams := { DramShared.dflt with temps := s.drams.temps }, boot := t.boot, elec := t.elec } ∧
  t.boot = { s.boot.atStart t.boot.nonce with phase := t.boot.phase } ∧ t.elec.pllLocked = false ∧
  (∀ o, o ∉ keptCfg → cfgGet t o = regReset o) ∧ (∀ o, o ∈ keptCfg → cfgGet t o = cfgGet s o) ∧
  ∀ c, c < 32 → t.chan c = Channel.atStart s.now

/-! ### What a command may change -/

/-- Nothing but the hearth `h` has changed. -/
def OnlyHearth (h : Nat) (s t : State) : Prop :=
  t = { s with hearths := t.hearths } ∧ ∀ g, g ≠ h → t.hearth g = s.hearth g

/-- Nothing but the ember core `c` of hearth `h` has changed. -/
def OnlyCore (h c : Nat) (s t : State) : Prop :=
  OnlyHearth h s t ∧ t.hearth h = { s.hearth h with cores := (t.hearth h).cores } ∧
    ∀ d, d ≠ c → (t.hearth h).core d = (s.hearth h).core d

/-- Nothing has changed but the event recorder, the message store and the endpoint's message counters (R417, R418). -/
def OnlyRecord (s t : State) : Prop :=
  t = { s with recorder := t.recorder, store := t.store, pcie := t.pcie } ∧
    t.pcie = { s.pcie with msgHwm := t.pcie.msgHwm, msgDropped := t.pcie.msgDropped }

/-- Only what a posted message can touch has changed (R368). -/
def OnlyPost (s t : State) : Prop :=
  t = { s with recorder := t.recorder, store := t.store, raised := t.raised, pcie := t.pcie } ∧
    t.pcie = { s.pcie with msgHwm := t.pcie.msgHwm, msgDropped := t.pcie.msgDropped }

/-- Nothing but the streams' side of the device has changed. -/
def OnlyMedia (s t : State) : Prop := t = { s with media := t.media }

/-- Nothing but the network side of the device has changed. -/
def OnlyEther (s t : State) : Prop := t = { s with ether := t.ether }

/-! ### Ember cores -/

/-- Ember core `c` of hearth `h` executes: it is RUNNING, no job switch holds its vat's cores (R334), and the root clocks
run (R29). -/
abbrev CoreRuns (s : State) (h c : Nat) : Prop := (s.core h c).run = .running ∧ coresGo s h = true ∧ clocked s = true

/-- The scratchpad bytes that a hearth holds at a local address. -/
def memBytes (s : State) (h a n : Nat) : List Byte := (List.range n).map fun i => Table.get 0 (s.hearth h).mem (a + i)

/-- A local address of the data part of the scratchpad (R136). -/
abbrev DataAddr (a : Nat) : Prop := a < 0x400000 ∧ isControl a = false

/-- What the core `c` of hearth `h` is made by an effect that reaches nothing else. -/
def CoreBecomes (h c : Nat) (k : Core) (s t : State) : Prop := t.core h c = k ∧ OnlyCore h c s t

/-- What the core `c` of hearth `h` is made by an access to its hearth's banks that no rival contests: beside the core, only
the arbiters' turns have changed (R133). -/
def CoreAtBank (h c : Nat) (k : Core) (s t : State) : Prop :=
  t.core h c = k ∧ OnlyHearth h s t ∧ (∀ d, d ≠ c → (t.hearth h).core d = (s.hearth h).core d) ∧
    t.hearth h = { s.hearth h with
      cores := (t.hearth h).cores, banks := (t.hearth h).banks
      counts := { (s.hearth h).counts with bankConflict := (t.hearth h).counts.bankConflict } } ∧
    (∀ b, Table.get 0 (t.hearth h).counts.bankConflict b = Table.get 0 (s.hearth h).counts.bankConflict b) ∧
    ∀ b, (t.hearth h).bank b = { (s.hearth h).bank b with
      lastA := ((t.hearth h).bank b).lastA, grantA := ((t.hearth h).bank b).grantA
      grantB := ((t.hearth h).bank b).grantB, grantCore := ((t.hearth h).bank b).grantCore }

/-- A register instruction of Table 2.6 writes a value that meets `P` to vd and moves on; lanes without a stated value are
free values, which is all that changes beside the core. -/
def VecResult (o : VOp) (P : Granule → Prop) (s t : State) : Prop :=
  ∃ r, P r ∧ CoreBecomes o.hearth o.core (((s.core o.hearth o.core).setV o.vd r false).step 4) { s with fresh := t.fresh } t

/-! ### Commands in flight -/

/-- The command of job `j` with sequence number `q` has become `k`, and no other command has changed. -/
def CmdBecomes (j : Nat) (q : Word) (k : Cmd) (s t : State) : Prop :=
  findCmd t j q = some k ∧ ∀ i r, (i ≠ j ∨ r ≠ q) → findCmd t i r = findCmd s i r

/-- The command of job `j` with sequence number `q` is no longer held, and no other command has changed. -/
def CmdGone (j : Nat) (q : Word) (s t : State) : Prop :=
  findCmd t j q = none ∧ ∀ i r, (i ≠ j ∨ r ≠ q) → findCmd t i r = findCmd s i r

/-- No queue pair holds a fetched entry that waits to be accepted. -/
def NothingFetched (s : State) : Prop := ∀ q, (s.qp q).fetchBuf = []

/-! ### Fuses (R431, Table 17.6) -/

/-- Every fuse bank is within Table 17.6: no code outside its setting, no more changes left than were shipped. -/
abbrev FusesLegal (f : Fuses) : Prop :=
  f.cls ≤ 2 ∧ f.clsLeft ≤ 6 ∧ f.ownerLeft ≤ 4 ∧ f.rollback + f.rollbackLeft = 96 ∧ f.revokedLeft ≤ 3

/-! ### Memory -/

/-- A memory's canonical form: addresses strictly rising, no entry equal to what an unlisted address reads as. -/
abbrev Memory.wf (m : Table Byte) : Prop := Table.wf 0 m = true

/-- The same of the poison marks that stand beside a memory. -/
abbrev Memory.marksWf (m : Table Bool) : Prop := Table.wf false m = true

/-- DRAM and every hearth's scratchpad, with their poison marks, are in canonical form. -/
def MemoriesLegal (s : State) : Prop :=
  Memory.wf s.dram ∧ Memory.marksWf s.dramPoison ∧ ∀ p ∈ s.hearths, Memory.wf p.2.mem ∧ Memory.marksWf p.2.poison

end Sys2Proof
end

