-- ==== Sys2Proof/Certificates/Slice0/Obligations.lean ====
section
/-! DEFINITION. The statements about this hardware, one family of commands or one kind of state each. A statement whose docstring names
assumption logs rests on those choices of the model; the other clauses are the rules of spec/ that the docstring names. -/

open Sys2Proof Sys2Proof.Machine

/-! ### The queue, the reset state, registers -/

/-- A step runs the command at the front of the queue on the state with the queue's rest; with no command the model's
clock advances (assumption logs 1 and 2). No command stops the machine: every step from every state answers a next
state. -/
def Obligations.StepRunsTheFrontCommand : Prop :=
  ((∀ (c : Instr) (cs : List Instr) (s : State), step { s with pending := c :: cs } = exec c { s with pending := cs }) ∧
  ∀ s : State, step { s with pending := [] } = .next { s with pending := [], now := s.now + 1 }) ∧
  (∀ s : State, Safe s)

/-- Registers right after reset read as Tables 0.6, 1.6, 16.7, 17.12 and 18.11 state. Choices of the model in it:
assumption logs 4 and 64. -/
def Obligations.ResetRegisters : Prop :=
  State.reset.pending = [] ∧ State.reset.power.state = .booting ∧ State.reset.out = [] ∧
  ∀ p ∈ [(0, 0x4F5A3216), (8, 0), (cpmBase + 0x100, 2), (cpmBase + 0x104, 1), (cpmBase + 0x108, 0), (cpmBase + 0x10C, 0), (cpmBase + 4, 0x352),
      (cpmBase + 0x1C, 0x5F), (cpmBase + 0x28, 0xFFFF), (cpmBase + 0x204, 0), (evrBase + 0x14, 0xC), (evrBase + 0x18, 0), (evrBase + 0x1C, 0),
      (lcsBase + 0x54, 0), (svcBase + 4, 0), (svcBase + 0x14, 0), (hqBase + 0x2C, 0x10000), (pepBase + 0x800C, 1), (ethBase, 0x5DC),
      (bpmBase + 0x1000, 0xFFFF), (hearthBase 31 + 0x2002C, 0xFFFF)], bar0Word p.1 State.reset = BitVec.ofNat 32 p.2

/-- REGISTER_WRITE: a poisoned write changes no register and is counted and reported (R373); a write to no register
is discarded (R10); a word with only some byte enables set is discarded and recorded, and one with none does nothing
(R9); a full write to a locked register is discarded and recorded, and to any other acts by the register's row (R5);
a write of two words is the writes of each, but for a full aligned pair at a 64-bit register, which is one write
(R11). Choices of the model in it: assumption logs 10 and 15. -/
def Obligations.RegisterWriteJudgesEachWord : Prop :=
  ∀ (off : BitVec 26) (v : Word) (be : BitVec 4) (s : State), off.toNat % 4 = 0 →
    (∀ hi, clocked s = true → Completes (.registerWrite off v be hi true) s fun t =>
      t = { s with out := s.out ++ [.aer .poisonedTlp], pcie := { s.pcie with poisonRx := satAdd s.pcie.poisonRx 1 } }) ∧
    (Serving s →
      (regHit off.toNat = .empty → be = 15 → Idles (.registerWrite off v be none false) s) ∧
      (be = 0 → Idles (.registerWrite off v be none false) s) ∧
      (be ≠ 0 → be ≠ 15 → Completes (.registerWrite off v be none false) s fun t =>
        t = record 0x0101 0 0 (BitVec.ofNat 64 off.toNat) s) ∧
      ∀ r i j, regHit off.toNat = .word r i j → be = 15 → Completes (.registerWrite off v be none false) s fun t =>
        t = if r.lock i j s then record 0x0102 0 0 (v ++ BitVec.ofNat 32 off.toNat) s else r.write i j (v.setWidth 64) s) ∧
    (Serving s → off.toNat % 8 = 0 → ∀ (w : Word) (bf : BitVec 4),
      (be ≠ 15 ∨ bf ≠ 15 ∨ (∀ r i j, regHit off.toNat ≠ .low r i j) → Completes (.registerWrite off v be (some (w, bf)) false) s fun t =>
        t = writeWord (off.toNat + 4) w bf (writeWord off.toNat v be s)) ∧
      ∀ r i j, regHit off.toNat = .low r i j → r.lock i j s = false → Completes (.registerWrite off v 15 (some (w, 15)) false) s fun t =>
        ∃ u, t = r.write i j (w ++ v) u ∧ u = { s with writeHold := u.writeHold } ∧ Table.get none u.writeHold (holdKey off.toNat) = none)

/-- RW registers without side effects hold what is written to their defined bits (R5, R8): GLB_SCRATCH, the order
window, CPM_GPIO_DIR and EVR_NOTIFY_MASK. The halves of a 64-bit register (R11): a read of the low half keeps the
high half for the next read of it; a write of the low half waits in the register's own write holding register; the
write of the high half then acts with both. A read of 8 aligned bytes returns both halves of one instant and holds
nothing; one of another size or alignment is that of the aligned word (R9). Choices of the model in it: assumption
logs 10 and 83. -/
def Obligations.RegistersHoldWhatIsWritten : Prop :=
  (∀ (v : Word) (s : State), Serving s →
    ∀ p ∈ [(8, 0xFFFFFFFF), (cpmBase + 0x200, 0xFF), (cpmBase + 0x108, 0x1FF), (evrBase + 0x14, 0xF), (lcsBase + 0x1000, 0xFFFFFFFF),
        (lcsBase + 0x127C, 0xFFFFFFFF)],
      Completes (.registerWrite (BitVec.ofNat 26 p.1) v 15 none false) s fun t =>
        bar0Word p.1 t = v &&& BitVec.ofNat 32 p.2 ∧ t = { s with cfg := t.cfg } ∧ ∀ o, o ≠ p.1 → cfgGet t o = cfgGet s o) ∧
  (∀ (off : BitVec 26) (v : Word) (s : State) (r : Reg) (i j : Nat), Serving s → off.toNat % 4 = 0 →
    (regHit off.toNat = .low r i j →
      (∀ len : BitVec 13, (len ≠ 8 ∨ off.toNat % 8 ≠ 0) → Completes (.lowHalfRead { off := off, len := len }) s fun t =>
        t = { s with readHold := t.readHold, out := s.out ++ [.barRead 0 off.toNat (toBytes (loHalf (r.read i j s)) 4) false .success] } ∧
        Table.get 0 t.readHold (holdKey off.toNat) = hiHalf (r.read i j s) ∧
        ∀ k, k ≠ holdKey off.toNat → Table.get 0 t.readHold k = Table.get 0 s.readHold k) ∧
      (off.toNat % 8 = 0 → Completes (.lowHalfRead { off := off, len := 8 }) s fun t =>
        t = { s with out := s.out ++ [.barRead 0 off.toNat (toBytes (r.read i j s) 8) false .success] }) ∧
      (r.lock i j s = false → Completes (.lowHalfWrite off v) s fun t =>
        t = { s with writeHold := t.writeHold } ∧ Table.get none t.writeHold (holdKey off.toNat) = some v ∧
        ∀ k, k ≠ holdKey off.toNat → Table.get none t.writeHold k = Table.get none s.writeHold k)) ∧
    (regHit off.toNat = .high r i j → ∀ len : BitVec 13, (len ≠ 8 ∨ off.toNat % 8 ≠ 0) → Completes (.lowHalfRead { off := off, len := len }) s fun t =>
      t = { s with out := s.out ++ [.barRead 0 off.toNat (toBytes (Table.get 0 s.readHold (holdKey (off.toNat - 4))) 4) false .success] }) ∧
    (regHit off.toNat = .word r i j → ∀ (d : BitVec 26) (len : BitVec 13), d.toNat / 4 * 4 = off.toNat → (len ≠ 8 ∨ d.toNat % 8 ≠ 0) →
      Completes (.lowHalfRead { off := d, len := len }) s fun t =>
        t = { s with out := s.out ++ [.barRead 0 off.toNat (toBytes (loHalf (r.read i j s)) 4) false .success] }) ∧
    (∀ lo, regHit off.toNat = .high r i j → r.lock i j s = false → Table.get none s.writeHold (holdKey (off.toNat - 4)) = some lo →
      Completes (.highHalfWrite off v) s fun t => ∃ u, t = r.write i j (v ++ lo) u ∧ u = { s with writeHold := u.writeHold } ∧
        Table.get none u.writeHold (holdKey (off.toNat - 4)) = none))

/-! ### Resets, the clock and the supplies -/

/-- POWER_ON_RESET from Cold: the strap and the pins are sampled, the caps are those of the fused class, the device
is BOOTING with PERST_N asserted, and flash and fuses are as they were (R449, R462); at any other time it does
nothing. PERST_N: its assertion takes the device to BOOTING with the link down and the pins as inputs, and holds
everything outside the always-on island in reset until the lock that follows its release (R29, R453, R454, R462); its
release is a fundamental reset, which loses DRAM and everything outside the always-on island, the event recorder,
soot, flash and fuses (R29, R36). Choices of the model in it: assumption logs 4, 47, 48, 64 and 79. -/
def Obligations.ResetsStartTheDevice : Prop :=
  (∀ (gpio : Byte) (s : State),
    (s.power.state = .cold → Completes (.powerOnReset gpio) s fun t =>
      t = { s with fresh := t.fresh, power := Power.reset, recorder := t.recorder, boot := t.boot, elec := t.elec } ∧
      t.elec.strap = gpio.setWidth 3 ∧ t.elec.gpioPins = gpio ∧ t.elec.perst = true ∧ t.elec.caps = classCaps s.boot.fuses.cls ∧
      t.elec.budget = classBudget s.boot.fuses.cls ∧ t.boot = { s.boot with nonce := t.boot.nonce, phase := .held }) ∧
    (s.power.state ≠ .cold → Idles (.powerOnReset gpio) s)) ∧
  (∀ s : State, powered s = true →
    (s.elec.perst = false → Completes .perstNAssert s fun t =>
      RootReset s t ∧ t.elec = { s.elec with perst := true, pllLocked := false } ∧ t.boot.phase = .held) ∧
    (s.elec.perst = true → Idles .perstNAssert s ∧
      Completes .perstNRelease s fun t =>
        RootReset s t ∧ t.elec = { s.elec with perst := false, pllLocked := false } ∧ t.recorder = { s.recorder with loading := false } ∧
        t.boot.phase = .relock ∧ t.boot.fuses = s.boot.fuses ∧ t.boot.identity = s.boot.identity ∧ t.boot.settings = s.boot.settings ∧
        t.dram = [] ∧ t.dramPoison = [] ∧ t.hearths = [] ∧ t.jobs = [] ∧ t.cmds = [] ∧ t.qps = [] ∧ t.vats = [] ∧ t.versions = [] ∧
        t.store = [] ∧ t.image = Image.empty ∧ t.media = Media.reset ∧ t.pcie = Pcie.reset) ∧
    (s.elec.perst = false → Idles .perstNRelease s))

/-- PLL_LOCK runs the CONFIRMED slot where no slot is PENDING or TRIAL and the slot passes its checks, and the OLD
one where it does not, and a slot that may be tried becomes or stays the TRIAL slot with one more attempt (R29,
R424); every lock after a release, a loss of lock or a trip starts a slot or enters recovery (R426, R460); while
PERST_N is asserted, SYSCLK is lost, a trip waits or no start waits for lock, it does nothing. Choices of the model
in it: assumption logs 6 and 79. -/
def Obligations.PllLockRunsTheConfirmedSlot : Prop :=
  ∀ (k : Nat) (s : State), powered s = true →
    (s.elec.sysclk = true → s.elec.perst = false → s.elec.tripWait = false → s.boot.phase = .relock →
      s.boot.slotA.state ∉ [.pending, .trial] → s.boot.slotB.state ∉ [.pending, .trial] →
      slotIn s.boot .confirmed = some k →
      Completes .pllLock s fun t =>
        let u := { s with elec := { s.elec with pllLocked := true } }
        t = if slotOk s.boot (s.boot.slot k).data then { u with boot := { s.boot with active := k, degraded := false, phase := .loaded } }
          else runOld (slotFails k u)) ∧
    (s.elec.sysclk = true → s.elec.perst = false → s.elec.tripWait = false → s.boot.phase = .relock → trialSlot s = some k →
      slotOk s.boot (s.boot.slot k).data = true → Completes .pllLock s fun t =>
        t.elec = { s.elec with pllLocked := true } ∧ t.boot.phase = .loaded ∧ t.boot.active = k ∧ t.boot.degraded = false ∧
        t.boot.slot k = { s.boot.slot k with state := .trial, attempts := (s.boot.slot k).attempts + 1 }) ∧
    (s.elec.sysclk = true → s.elec.perst = false → s.elec.tripWait = false → s.boot.phase = .relock ∨ s.boot.phase = .gated →
      Completes .pllLock s fun t => t.elec = { s.elec with pllLocked := true } ∧ (t.boot.phase = .loaded ∨ t.power.state = .recovery)) ∧
    (s.elec.perst = true ∨ s.elec.sysclk = false ∨ s.elec.tripWait = true ∨ s.boot.phase ∉ [.relock, .gated] → Idles .pllLock s)

/-- Loss of the PLL's lock or of SYSCLK gates every root-derived clock, so that nothing outside the always-on island
keeps its state or acts until the lock returns (R29, R451, R452). SUPPLY_LOSS: Cold keeps flash, fuses and identity
and nothing else (Table 1.5, R450), a burn that has started completes (R433); an unpowered device ignores it. Choices
of the model in it: assumption logs 48, 57 and 79. -/
def Obligations.LostClocksAndSuppliesStopTheDevice : Prop :=
  (∀ s : State,
    (s.elec.pllLocked = true → Completes .pllLockLost s fun t =>
      RootReset s t ∧ t.elec = { s.elec with pllLocked := false } ∧ t.boot.phase = if s.boot.phase = .held then .held else .gated) ∧
    (s.elec.pllLocked = false → Idles .pllLockLost s) ∧
    (Completes .sysclkLoss s fun t => t.elec = { s.elec with sysclk := false, pllLocked := false } ∧
      if s.elec.pllLocked then RootReset s t else t = { s with elec := t.elec }) ∧
    (Completes .sysclkReturn s fun t => t = { s with elec := { s.elec with sysclk := true } })) ∧
  (∀ s : State,
    (powered s = true → ∀ o, s.boot.order = some o → Completes .supplyLoss s fun t =>
      t.power = { Power.reset with state := .cold } ∧ t.boot.fuses = s.boot.fuses.apply o 1 ∧ t.boot.order = none ∧ t.elec = Elec.reset) ∧
    (powered s = true → s.boot.order = none → Completes .supplyLoss s fun t =>
      t.power = { Power.reset with state := .cold } ∧ t.boot.fuses = s.boot.fuses ∧ t.boot.identity = s.boot.identity ∧
      t.boot.settings = s.boot.settings ∧ t.boot.slotA = (if s.boot.slotA.state = .writing then Slot.dflt else s.boot.slotA) ∧
      t.boot.slotB = (if s.boot.slotB.state = .writing then Slot.dflt else s.boot.slotB) ∧ t.recorder.copies = s.recorder.copies ∧
      (s.recorder.flushing = none → t.recorder.flash = s.recorder.flash) ∧ t.cfg = [] ∧ t.dram = [] ∧ t.hearths = [] ∧ t.jobs = [] ∧
      t.vats = [] ∧ t.elec = Elec.reset ∧ t.pending = s.pending) ∧
    (powered s = false → Idles .supplyLoss s))

/-! ### Power states -/

/-- Requests for Banked and Lit, written where BAR0 is served: Lit judges a Banked request (R34); a transition
latches either, the last write winning (R35); Banked wakes for Lit, and what asks for the present state does nothing.
Choices of the model in it: assumption logs 5 and 55. -/
def Obligations.PowerRequestsAreJudgedOrLatched : Prop :=
  ∀ s : State, s.pcie.notReady = false → clocked s = true →
    (s.power.state = .lit → s.power.bankedWaits = true →
      (Completes .bankedRequest s fun t => t.power = { s.power with pending := 1 } ∧ t = { s with cfg := t.cfg, power := t.power }) ∧
      Completes .litRequest s fun t => t.power = { s.power with pending := 2 } ∧ t = { s with cfg := t.cfg, power := t.power }) ∧
    (s.power.state = .lit → s.power.bankedWaits = false →
      (bankedResult s ≠ 0 → Completes .bankedRequest s fun t =>
        t.power = { s.power with lastResult := bankedResult s } ∧ t = { s with cfg := t.cfg, power := t.power }) ∧
      (bankedResult s = 0 → marching s = true → Completes .bankedRequest s fun t =>
        t.power = { s.power with lastResult := 0, bankedWaits := true } ∧ t = { s with cfg := t.cfg, power := t.power }) ∧
      (bankedResult s = 0 → marching s = false → Completes .bankedRequest s fun t =>
        t.power = { s.power with lastResult := 0, state := .enteringBanked } ∧ t.hearths = s.hearths ∧ t.jobs = s.jobs ∧ t.dram = s.dram) ∧
      Completes .litRequest s fun t => t = { s with cfg := t.cfg } ∧ cfgGet t (cpmBase + 0x100) = 2) ∧
    (s.power.state = .enteringBanked ∨ s.power.state = .exitingBanked →
      (Completes .bankedRequest s fun t => t.power = { s.power with pending := 1 } ∧ t = { s with cfg := t.cfg, power := t.power }) ∧
      Completes .litRequest s fun t => t.power = { s.power with pending := 2 } ∧ t = { s with cfg := t.cfg, power := t.power }) ∧
    (s.power.state = .banked →
      (Completes .bankedRequest s fun t => t = { s with cfg := t.cfg } ∧ cfgGet t (cpmBase + 0x100) = 1) ∧
      Completes .litRequest s fun t => t.power = { s.power with wakeCause := 1, state := .exitingBanked } ∧ t.dram = s.dram ∧
        t.boot = s.boot ∧ ∀ c, c < 32 → (s.chan c).state = .selfRefresh → (t.chan c).state = .fullRetrain)

/-- The ends of the transitions (Table 1.5, R33): the entry counts and, with no bucket open (R34), leaves ONLINE
channels in self-refresh; the exit reaches Lit. While a channel trains, or in any other state, neither end comes.
Choices of the model in it: assumption logs 5, 53, 54 and 56. -/
def Obligations.BankedTransitionsComplete : Prop :=
  ∀ s : State,
    (s.power.state = .enteringBanked → channelsBusy s = false → s.power.pending = 0 → s.power.flrAfterWake = false →
      (∀ b, b < 16 → (s.bkt b).state = .disabled) →
      Completes .bankedEntryComplete s fun t =>
        t.power = { s.power with state := .banked, bankedCount := satAdd s.power.bankedCount 1 } ∧ t.boot = s.boot ∧ t.dram = s.dram ∧
        t.jobs = s.jobs ∧ (∀ c, c < 32 → (s.chan c).state = .online → (t.chan c).state = .selfRefresh) ∧
        t.hearths = Table.remap Hearth.dflt (fun _ => bankedHearth) s.hearths) ∧
    (s.power.state ≠ .enteringBanked ∨ channelsBusy s = true → Idles .bankedEntryComplete s) ∧
    (s.power.state = .exitingBanked → channelsBusy s = false → banksBusy s = false → s.power.pending = 0 → s.power.flrAfterWake = false →
      s.power.deferredFaults = [] → s.image.regions = [] → NothingFetched s →
      Completes .bankedExitComplete s fun t => t.power = { s.power with state := .lit } ∧
        t = { s with power := t.power, recorder := t.recorder, store := t.store, raised := t.raised, pcie := t.pcie }) ∧
    (s.power.state ≠ .exitingBanked ∨ channelsBusy s = true ∨ banksBusy s = true → Idles .bankedExitComplete s)

/-- GPIO_WAKE: an enabled input that falls wakes the device from Banked (Table 1.9); otherwise only the pin's level
changes. PFAIL_N and UPDATE_INHIBIT_N (R416, R454, Table 17.8): the assertion of PFAIL_N is recorded and counted in
soot; with no update under way nothing else of the device changes. Its deassertion is recorded too. Either line
aborts an update, whose slot becomes EMPTY (R435, R436). Choices of the model in it: assumption logs 6 and 47. -/
def Obligations.PinsWakeAndWarn : Prop :=
  (∀ (pin : Fin 8) (s : State), powered s = true →
    (s.power.state = .banked → bit (cfgGet s (cpmBase + 0x108)) pin = true → bit (cfgGet s (cpmBase + 0x200)) pin = false →
      Completes (.gpioWake pin) s fun t => t.power = { s.power with wakeCause := 2, state := .exitingBanked } ∧
        t.elec = { s.elec with gpioPins := setBits s.elec.gpioPins pin pin 0 } ∧ t.boot = s.boot ∧ t.dram = s.dram ∧ t.cfg = s.cfg) ∧
    (s.power.state ≠ .banked ∨ bit (cfgGet s (cpmBase + 0x108)) pin = false ∨ bit (cfgGet s (cpmBase + 0x200)) pin = true →
      Completes (.gpioWake pin) s fun t => t = { s with elec := { s.elec with gpioPins := setBits s.elec.gpioPins pin pin 0 } })) ∧
  (∀ s : State, powered s = true →
    (s.recorder.pfail = false → s.boot.update.state = .idle → Completes .pfailAssert s fun t =>
      t.recorder.pfail = true ∧ t.recorder.soot.pfailCount = satAdd s.recorder.soot.pfailCount 1 ∧ t.recorder.checkpoint = none ∧
      t.recorder.erasing = none ∧ OnlyRecord s t) ∧
    (s.recorder.pfail = false → s.boot.update.state ≠ .idle → Completes .pfailAssert s fun t =>
      t.recorder.pfail = true ∧ t.boot.update.state = .idle ∧ (t.boot.slot s.boot.update.slot).state = .empty) ∧
    (s.recorder.pfail = true → Idles .pfailAssert s ∧ Completes .pfailDeassertConfirmed s fun t =>
      t.recorder.pfail = false ∧ OnlyRecord s t) ∧
    (s.recorder.pfail = false → Idles .pfailDeassertConfirmed s) ∧
    (s.boot.update.state = .idle → Completes .updateInhibitAssert s fun t => t = { s with elec := { s.elec with inhibit := true } }) ∧
    (s.boot.update.state ≠ .idle → Completes .updateInhibitAssert s fun t =>
      t.elec.inhibit = true ∧ t.boot.update.state = .idle ∧ (t.boot.slot s.boot.update.slot).state = .empty) ∧
    (Completes .updateInhibitDeassert s fun t => t = { s with elec := { s.elec with inhibit := false } }))

/-- FLR in Lit with no job, no session and an idle reload (R376, R377): registers of the HQ_, PEP_ and stream blocks
are reset, queue pairs, messages and streams are gone, soot counts it, and DRAM, models, fuses and the PEP_ counters
stay; the device answers again only at FLR_READY. One that comes while the device is not ready is ignored; one in
Banked wakes. Choices of the model in it: assumption log 46. -/
def Obligations.FunctionLevelReset : Prop :=
  ∀ s : State,
    (Serving s → liveJobs s = [] → (∀ i, i < 256 → (s.ses i).state = .closed) → s.reload.state = .idle → s.image.regions = [] →
      Completes .flr s fun t =>
        t.qps = [] ∧ t.store = [] ∧ t.raised = [] ∧ t.dones = [] ∧ t.jobs = [] ∧ t.cmds = [] ∧ t.sems = [] ∧ t.killStatus = 0 ∧
        t.pcie.notReady = true ∧ t.pcie.poisonRx = s.pcie.poisonRx ∧ t.pcie.dlActive = s.pcie.dlActive ∧ t.pcie.windows = [] ∧
        t.recorder.soot.flrCount = satAdd s.recorder.soot.flrCount 1 ∧ (∀ o, flrReg o = true → cfgGet t o = regReset o) ∧
        (∀ o, flrReg o = false → cfgGet t o = cfgGet s o) ∧ t.dram = s.dram ∧ t.versions = s.versions ∧ t.boot = s.boot ∧
        t.power = s.power ∧ t.channels = s.channels) ∧
    (s.pcie.notReady = true → Idles .flr s) ∧
    (s.pcie.notReady = false → clocked s = true → s.power.state = .banked → Completes .flr s fun t =>
      t.power = { s.power with flrAfterWake := true, wakeCause := 4, state := .exitingBanked } ∧ t.pcie.notReady = true) ∧
    (s.pcie.notReady = true → clocked s = true → s.pcie.flrBusy = false → s.power.flrAfterWake = false → s.power.state = .lit →
      Completes .flrReady s fun t => t = { s with pcie := { s.pcie with notReady := false } }) ∧
    (s.pcie.flrBusy = true ∨ s.power.state = .booting ∨ s.power.flrAfterWake = true → Idles .flrReady s)

/-! ### Ember cores: loads, stores, waits -/

/-- Loads (R44, R46–R49): own-hearth data with the granule's poison; a wait for another hearth's; a poisoned zero,
counted at that hearth, from a removed hearth; a free value from a flue port; and the traps of Table 2.7. Whatever
its errors and rivals, a load that does not trap moves the core past it. Stores (R47–R49, R124): an own-hearth store
puts its bytes there and nowhere else and stays in flight until its acknowledgement; a remote one is in flight; one
to a removed hearth is discarded and counted at that hearth; poison, alignment and an address outside the map trap.
Whatever its rivals, a store that does not trap moves the core past it. Choices of the model in it: assumption logs
7, 9, 11, 70, 71 and 84. -/
def Obligations.AccessesFollowTheAddressMap : Prop :=
  (∀ (h : Fin 32) (c : Fin 64) (rd rs1 : Fin 32) (imm : BitVec 12) (size : LoadSize) (z : Bool) (errs : List SpmErr) (rv : Rivals) (s : State),
    CoreRuns s h c →
    let k := s.core h c
    let a := (effAddr (k.getX rs1).v imm).toNat
    let g := localHearth s h ((a - 0x10000000) / 0x400000)
    let b := (a - 0x10000000) % 0x400000
    let n := loadBytes size
    let z2 := if z then 2 else 4
    ((k.getX rs1).p = true →
      (Completes (.scalarLoad h c rd rs1 imm size z errs rv) s fun t => t = trap h c 4 (BitVec.ofNat 32 a) s) ∧
      Completes (.xeVld h c rd rs1 imm errs rv) s fun t => t = trap h c 4 (BitVec.ofNat 32 a) s) ∧
    ((k.getX rs1).p = false →
      (a % n ≠ 0 → Completes (.scalarLoad h c rd rs1 imm size z errs rv) s fun t => t = trap h c 2 (BitVec.ofNat 32 a) s) ∧
      (a % 16 ≠ 0 → Completes (.xeVld h c rd rs1 imm errs rv) s fun t => t = trap h c 2 (BitVec.ofNat 32 a) s) ∧
      (a % n = 0 → decodeAddr s h a = .none → Completes (.scalarLoad h c rd rs1 imm size z errs rv) s fun t => t = trap h c 3 (BitVec.ofNat 32 a) s) ∧
      (a % 16 = 0 → decodeAddr s h a = .none → Completes (.xeVld h c rd rs1 imm errs rv) s fun t => t = trap h c 3 (BitVec.ofNat 32 a) s) ∧
      (a % n = 0 → decodeAddr s h a ≠ .none → (a < 0x400000 → isControl a = true ∨ marchHolds s h a n = false) →
        Completes (.scalarLoad h c rd rs1 imm size z errs rv) s fun t => (t.core h c).pc = k.pc + BitVec.ofNat 32 z2) ∧
      (a % 16 = 0 → decodeAddr s h a ≠ .none → (a < 0x400000 → isControl a = true ∨ marchHolds s h a 16 = false) →
        Completes (.xeVld h c rd rs1 imm errs rv) s fun t => (t.core h c).pc = k.pc + 4) ∧
      (DataAddr a → readAccess s h a (agentOf s h) = .ok → (∀ f ∈ k.stores, f.hearth h = h → f.landed = true) →
        (a % n = 0 → marchHolds s h a n = false → Completes (.scalarLoad h c rd rs1 imm size z [] Rivals.none) s
          (CoreAtBank h c ((k.setX rd (extendLoad (loadSigned size) (memBytes s h a n)) (Table.get false (s.hearth h).poison (a / 16))).step z2) s)) ∧
        (a % 16 = 0 → marchHolds s h a 16 = false → Completes (.xeVld h c rd rs1 imm [] Rivals.none) s
          (CoreAtBank h c ((k.setV rd (ofBytes 128 (memBytes s h a 16)) (Table.get false (s.hearth h).poison (a / 16))).step 4) s))) ∧
      (0x10000000 ≤ a → a < 0x18000000 → (s.hearth g).state = .active →
        (a % n = 0 → Completes (.scalarLoad h c rd rs1 imm size z errs rv) s
          (CoreBecomes h c { (k.step z2) with run := .stalled, wait := some (.load false rd (loadSigned size) g b n) } s)) ∧
        (a % 16 = 0 → Completes (.xeVld h c rd rs1 imm errs rv) s
          (CoreBecomes h c { (k.step 4) with run := .stalled, wait := some (.load true rd false g b 16) } s))) ∧
      (0x10000000 ≤ a → a < 0x18000000 → (s.hearth g).state ≠ .active → g ≠ h →
        (a % n = 0 → Completes (.scalarLoad h c rd rs1 imm size z errs rv) s fun t => t.core h c = (k.setX rd 0 true).step z2 ∧
          t.core g c = { s.core g c with removedAcc := satAdd (s.core g c).removedAcc 1 } ∧
          (t.hearth g).counts = { (s.hearth g).counts with offAccess := satAdd (s.hearth g).counts.offAccess 1 }) ∧
        (a % 16 = 0 → Completes (.xeVld h c rd rs1 imm errs rv) s fun t => t.core h c = (k.setV rd 0 true).step 4 ∧
          t.core g c = { s.core g c with removedAcc := satAdd (s.core g c).removedAcc 1 })) ∧
      (0x20000000 ≤ a → a < 0x20020000 → a % n = 0 → Completes (.scalarLoad h c rd rs1 imm size z errs rv) s fun t =>
        ∃ v, t.fresh = s.fresh + 1 ∧ CoreBecomes h c ((k.setX rd v false).step z2) { s with fresh := t.fresh } t))) ∧
  (∀ (h : Fin 32) (c : Fin 64) (rs1 rs2 : Fin 32) (imm : BitVec 12) (size : StoreSize) (z : Bool) (tag : Fin 16) (rv : Rivals) (s : State), CoreRuns s h c →
    let k := s.core h c
    let a := (effAddr (k.getX rs1).v imm).toNat
    let g := localHearth s h ((a - 0x10000000) / 0x400000)
    let b := (a - 0x10000000) % 0x400000
    let n := storeBytes size
    let z2 := if z then 2 else 4
    let d := toBytes (k.getX rs2).v n
    let v := toBytes (k.getV rs2).v 16
    let lands := fun (i : Nat) (data : List Byte) (t : State) =>
      t.core h c = { k.step i with stores := k.stores ++ [{ dst := .spm h a, data := data, poison := false, landed := true, tag := 15 }] } ∧
      OnlyHearth h s t ∧ (∀ x, Table.get 0 (t.hearth h).mem x = if a ≤ x ∧ x < a + data.length then byteAt data (x - a) else Table.get 0 (s.hearth h).mem x) ∧
      (∀ e, e ≠ c → (t.hearth h).core e = (s.hearth h).core e) ∧ (∀ j, (t.hearth h).ctr j = (s.hearth h).ctr j) ∧ ∀ j, (t.hearth h).hoop j = (s.hearth h).hoop j
    let flies := fun (i tg : Nat) (data : List Byte) =>
      { k.step i with stores := k.stores ++ [{ dst := .spm g b, data := data, poison := false, landed := false, tag := handTag s h c (isControl b) tg }]
                      delay := if isControl b then 15 else k.delay }
    ((k.getX rs1).p = true ∨ (k.getX rs2).p = true →
      Completes (.scalarStore h c rs1 rs2 imm size z tag rv) s fun t => t = trap h c 4 (BitVec.ofNat 32 a) s) ∧
    ((k.getX rs1).p = true ∨ (k.getV rs2).p = true →
      Completes (.xeVst h c rs2 rs1 imm rv) s fun t => t = trap h c 4 (BitVec.ofNat 32 a) s) ∧
    ((k.getX rs1).p = false → (k.getX rs2).p = false →
      (a % n ≠ 0 → Completes (.scalarStore h c rs1 rs2 imm size z tag rv) s fun t => t = trap h c 2 (BitVec.ofNat 32 a) s) ∧
      (a % n = 0 → decodeAddr s h a = .none → Completes (.scalarStore h c rs1 rs2 imm size z tag rv) s fun t => t = trap h c 3 (BitVec.ofNat 32 a) s) ∧
      (a % n = 0 → decodeAddr s h a ≠ .none → (a < 0x400000 → isControl a = true ∨ marchHolds s h a n = false) →
        Completes (.scalarStore h c rs1 rs2 imm size z tag rv) s fun t => (t.core h c).pc = k.pc + BitVec.ofNat 32 z2)) ∧
    ((k.getX rs1).p = false → (k.getV rs2).p = false →
      (a % 16 ≠ 0 → Completes (.xeVst h c rs2 rs1 imm rv) s fun t => t = trap h c 2 (BitVec.ofNat 32 a) s) ∧
      (a % 16 = 0 → decodeAddr s h a = .none → Completes (.xeVst h c rs2 rs1 imm rv) s fun t => t = trap h c 3 (BitVec.ofNat 32 a) s) ∧
      (a % 16 = 0 → decodeAddr s h a ≠ .none → (a < 0x400000 → isControl a = true ∨ marchHolds s h a 16 = false) →
        Completes (.xeVst h c rs2 rs1 imm rv) s fun t => (t.core h c).pc = k.pc + 4)) ∧
    ((k.getX rs1).p = false → (k.getX rs2).p = false → (k.getV rs2).p = false →
      (DataAddr a → writeAccess s h a (agentOf s h) = .ok → (∀ f ∈ k.stores, f.hearth h = h → f.landed = true) →
        (a % n = 0 → marchHolds s h a n = false → Completes (.scalarStore h c rs1 rs2 imm size z tag Rivals.none) s (lands z2 d)) ∧
        (a % 16 = 0 → marchHolds s h a 16 = false → Completes (.xeVst h c rs2 rs1 imm Rivals.none) s (lands 4 v))) ∧
      (0x10000000 ≤ a → a < 0x18000000 → (s.hearth g).state = .active →
        (a % n = 0 → Completes (.scalarStore h c rs1 rs2 imm size z tag rv) s (CoreBecomes h c (flies z2 tag d) s)) ∧
        (a % 16 = 0 → Completes (.xeVst h c rs2 rs1 imm rv) s (CoreBecomes h c (flies 4 15 v) s))) ∧
      (0x10000000 ≤ a → a < 0x18000000 → (s.hearth g).state ≠ .active → g ≠ h →
        (a % n = 0 → Completes (.scalarStore h c rs1 rs2 imm size z tag rv) s fun t =>
          t.core h c = k.step z2 ∧ t.core g c = { s.core g c with removedAcc := satAdd (s.core g c).removedAcc 1 } ∧ (t.hearth g).mem = (s.hearth g).mem ∧
          (t.hearth g).counts = { (s.hearth g).counts with offAccess := satAdd (s.hearth g).counts.offAccess 1 }) ∧
        (a % 16 = 0 → Completes (.xeVst h c rs2 rs1 imm rv) s fun t => t.core h c = k.step 4 ∧ (t.hearth g).mem = (s.hearth g).mem))))

/-- FENCE, ECALL and EBREAK (R47, R51, R193), and what a trap leaves where no job runs (Table 2.7). What a waiting
core is released by: the response to a remote load (R44, R48), the acknowledgement of a store (R47, R48, R138), the
counter that meets its wait or is BROKEN (R50, R60, R141, R142). A core that does not execute, by its run state or a
job switch, runs no instruction (Table 2.20, R334). Choices of the model in it: assumption logs 11, 71 and 72. -/
def Obligations.CoresTrapWaitAndStop : Prop :=
  (∀ (h : Fin 32) (c : Fin 64) (s : State), CoreRuns s h c →
    let k := s.core h c
    (k.stores = [] → Completes (.fence h c) s (CoreBecomes h c (k.step 4) s)) ∧
    (k.stores ≠ [] → Completes (.fence h c) s (CoreBecomes h c { k.step 4 with run := .stalled, wait := some .fence } s)) ∧
    ((k.getX 17).p = true → Completes (.ecall h { c := c, fetch := none }) s fun t => t = trap h c 4 0 s) ∧
    ((k.getX 17).p = false → (k.getX 17).v ≠ 0 →
      Completes (.ecall h { c := c, fetch := none }) s (CoreBecomes h c { k.step 4 with trap := 5, stopPc := k.pc } s)) ∧
    ((k.getX 17).p = false → (k.getX 17).v = 0 → Completes (.ecall h { c := c, fetch := none }) s fun t =>
      t.core h c = { k with run := .idle, trap := 5, stopPc := k.pc } ∧ t = { s with hearths := t.hearths, cmds := t.cmds } ∧
      ∀ m ∈ t.cmds, (h.val, c.val) ∉ m.cores) ∧
    (∀ z, Completes (.ebreak h c z) s (CoreBecomes h c { k with run := .halted, trap := 6, stopPc := k.pc } s)) ∧
    (∀ cause tval, jobOfHearth s h = none →
      CoreBecomes h c { k with run := .trapped, trap := cause, stopPc := k.pc, tval := tval, wait := none } s (trap h c cause tval s))) ∧
  (∀ (h : Fin 32) (c : Fin 64) (s : State), clocked s = true →
    let k := s.core h c
    (∀ (g a n rd : Nat) (vec signed : Bool) (errs : List SpmErr) (cycles : Nat) (cause : Fin 11), k.wait = some (.load vec rd signed g a n) →
      (isControl a = true ∨ marchHolds s g a n = false → Completes (.remoteLoadResponse h c errs cycles cause) s fun t =>
        (t.core h c).run = .running ∧ (t.core h c).wait = none ∧ (t.core h c).pc = k.pc) ∧
      (isControl a = false → marchHolds s g a n = true → Idles (.remoteLoadResponse h c errs cycles cause) s)) ∧
    (∀ (g a n rd : Nat) (vec signed : Bool) (cause : Fin 11), k.wait = some (.load vec rd signed g a n) → k.stores = [] → (s.hearth g).state = .active →
      n ∈ [1, 2, 4, 16] → a % n = 0 → DataAddr a → readAccess s g a (agentOf s h) = .ok → marchHolds s g a n = false →
      Completes (.remoteLoadResponse h c [] 0 cause) s
        (CoreBecomes h c { (if vec then k.setV rd (ofBytes 128 (memBytes s g a n)) (Table.get false (s.hearth g).poison (a / 16))
          else k.setX rd (extendLoad signed (memBytes s g a n)) (Table.get false (s.hearth g).poison (a / 16))) with run := .running, wait := none } s)) ∧
    (k.wait = none → Idles (.remoteLoadResponse h c [] 0 0) s ∧ Idles (.cwaitRelease h c 0) s) ∧
    (∀ (f : FlightStore) (rest : List FlightStore) (dst : Fin 32) (tag : Fin 16), k.stores = f :: rest → f.hearth h = dst.val → f.landed = true →
      Completes (.storeAck h c dst tag) s
        (CoreBecomes h c (if rest = [] ∧ k.wait = some .fence then { k with stores := rest, run := .running, wait := none } else { k with stores := rest }) s)) ∧
    (∀ (f : FlightStore) (rest : List FlightStore) (g a : Nat) (dst : Fin 32) (tag : Fin 16), k.stores = f :: rest → f.dst = .spm g a → g = dst.val → g ≠ h.val →
      f.landed = false → DataAddr a → a % 16 + f.data.length ≤ 16 →
      ((s.hearth g).state = .active → Completes (.storeAck h c dst tag) s fun t =>
        (t.core h c).stores = rest ∧ t.hearth g = (spmWrite g a (agentOf s h) (f.data.map fun b => (b, f.poison)) s).hearth g) ∧
      ((s.hearth g).state ≠ .active → Completes (.storeAck h c dst tag) s fun t =>
        (t.core h c).stores = rest ∧ (t.hearth g).mem = (s.hearth g).mem ∧ t.core g c = { s.core g c with removedAcc := satAdd (s.core g c).removedAcc 1 })) ∧
    (∀ (dst : Fin 32) (tag : Fin 16), (∀ f ∈ k.stores, f.hearth h ≠ dst.val) → Idles (.storeAck h c dst tag) s) ∧
    (∀ (n : Nat) (target : Word) (own cycles : Nat), k.wait = some (.counter n target own) →
      let cause := if ((s.hearth h).ctr n).tag < 11 then ((s.hearth h).ctr n).tag else own
      (((s.hearth h).ctr n).broken = true → Completes (.cwaitRelease h c cycles) s fun t => t = jobFaultTrap h 0 s) ∧
      (((s.hearth h).ctr n).broken = false →
        (0 ≤ (((s.hearth h).ctr n).value - target).toInt → Completes (.cwaitRelease h c cycles) s fun t =>
          t.core h c = { k with run := .running, wait := none, delay := if cycles = 0 then k.delay else worseTag k.delay cause } ∧ OnlyHearth h s t ∧
          Table.get 0 (t.hearth h).counts.stallEmb cause = satAdd (Table.get 0 (s.hearth h).counts.stallEmb cause) cycles) ∧
        ((((s.hearth h).ctr n).value - target).toInt < 0 → Idles (.cwaitRelease h c cycles) s)))) ∧
  (∀ (h : Fin 32) (c : Fin 64) (a b d : Fin 32) (imm : BitVec 12) (l : Fin 16) (n : Fin 64) (ty : Fin 8) (z : Bool) (ls : LoadSize) (ss : StoreSize)
      (errs : List SpmErr) (rv : Rivals) (f : Option CoreFetch) (tag : Fin 16) (s : State),
    ¬ CoreRuns s h c →
    let o : VOp := { hearth := h, core := c, ty := ty, vd := a, vs1 := b, vs2 := d }
    ∀ i ∈ [Instr.scalarLoad h c a b imm ls z errs rv, .scalarStore h c a b imm ss z tag rv, .fence h c, .ecall h { c := c, fetch := f }, .ebreak h c z, .xeVadd o, .xeVsub o,
      .xeVmul o, .xeVmax o, .xeVmin o, .xeVcmp o, .xeVdot o, .xeVcvt o, .xeVshuf o, .xeVmvx o z, .xeIou o, .xeBdec o, .xeBsort o,
      .xeVld h c a b imm errs rv, .xeVst h c a b imm rv, .xeTake h c a l, .xeDone h c a l, .xeCwait h c a n, .xeTrie h c a b d], Idles i s)

/-- A core fetches what its program counter names and executes it (R45, R46, R49, R51): an instruction word whose two
halves its instruction cache holds without poison is executed; an immediate add, a jump, a taken or untaken branch
and a read of each special register have RV32I's effect; a word of no listed opcode is an illegal instruction with
its bits in EMB_TVAL; poisoned bytes are consumed poison; and a program counter outside the own scratchpad is an
access fault. Choices of the model in it: assumption logs 11 and 72. -/
def Obligations.CoresRunTheirProgram : Prop :=
  ∀ (h : Fin 32) (c : Fin 64) (f : CoreFetch) (w : Word) (s : State), CoreRuns s h c →
    let k := s.core h c
    let pc := k.pc.toNat
    let run := Instr.ecall h { c := c, fetch := some f }
    (0x400000 ≤ (k.pc &&& ~~~1#32).toNat → Completes run s fun t => t = trap h c 3 k.pc s) ∧
    (pc % 2 = 0 → pc + 2 < 0x400000 → marchHolds s h pc 4 = false → Table.get [] k.icache (pc / 32) ≠ [] → Table.get [] k.icache ((pc + 2) / 32) ≠ [] →
      ((icHalf k pc).2 = true → Completes run s fun t => t = trap h c 4 k.pc s) ∧
      ((icHalf k pc).2 = false → bits w 1 0 = 3 → icHalf k pc = (w.setWidth 16, false) →
        ((icHalf k (pc + 2)).2 = true → Completes run s fun t => t = trap h c 4 k.pc s) ∧
        (icHalf k (pc + 2) = ((w >>> 16).setWidth 16, false) →
          let rd := instRd w
          let a := k.getX (instRs1 w)
          let b := k.getX (instRs2 w)
          (instOp w ∉ [0x37, 0x17, 0x6F, 0x67, 0x63, 0x03, 0x23, 0x13, 0x33, 0x0F, 0x73, 0x0B, 0x2B] → Completes run s fun t => t = trap h c 1 w s) ∧
          (instOp w = 0x13 → instF3 w = 0 → a.p = false → Completes run s (CoreBecomes h c ((k.setX rd (a.v + (immI w).signExtend 32) false).step 4) s)) ∧
          (instOp w = 0x33 → instF3 w = 0 → instF7 w = 0x20 → a.p = false → b.p = false →
            Completes run s (CoreBecomes h c ((k.setX rd (a.v - b.v) false).step 4) s)) ∧
          (instOp w = 0x13 → instF3 w = 0 → a.p = true → Completes run s fun t => t = trap h c 4 0 s) ∧
          (instOp w = 0x6F → Completes run s fun t => (t.core h c).pc = k.pc + immJ w ∧ (rd ≠ 0 → (t.core h c).getX rd = { v := k.pc + 4, p := false })) ∧
          (instOp w = 0x63 → instF3 w = 0 → a.p = false → b.p = false → Completes run s (CoreBecomes h c { k with pc := if a.v = b.v then k.pc + immB w else k.pc + 4 } s)) ∧
          (∀ v, instOp w = 0x73 → instF3 w = 2 → instRs1 w = 0 → csrValue s h c (bits w 31 20) = some v →
            Completes run s (CoreBecomes h c ((k.setX rd v false).step 4) s)))))

/-! ### Xember instructions and ladles -/

/-- Lane-wise arithmetic, comparison and selection (R49, Table 2.6): what each lane of the result holds, and the
traps of an element type that the table does not list (cause 1, with the instruction's bits) and of a poisoned source
(cause 4). Integer lanes are two's complement and wrap (Table 2.6). Choices of the model in it: assumption logs 11
and 71. -/
def Obligations.VectorLanesCompute : Prop :=
  (∀ (o : VOp) (s : State), CoreRuns s o.hearth o.core →
    let k := s.core o.hearth o.core
    let a := (k.getV o.vs1).v
    let b := (k.getV o.vs2).v
    (elemOf o.ty = none → ∀ p ∈ [(Instr.xeVadd o, 0), (.xeVsub o, 1), (.xeVmul o, 2), (.xeVmax o, 3), (.xeVmin o, 4), (.xeVcmp o, 5), (.xeVdot o, 8),
        (.xeVcvt o, 0x10), (.xeVshuf o, 0x18), (.xeVmvx o true, 0x1C), (.xeVmvx o false, 0x1C), (.xeIou o, 0x20), (.xeBdec o, 0x24), (.xeBsort o, 0x28)],
      Completes p.1 s fun t => t = trap o.hearth o.core 1 (vecBits p.2 o) s) ∧
    ∀ e, elemOf o.ty = some e →
      ((k.getV o.vs1).p = true ∨ (k.getV o.vs2).p = true → ∀ i ∈ [Instr.xeVadd o, .xeVsub o, .xeVmul o, .xeVmax o, .xeVmin o, .xeVcmp o],
        Completes i s fun t => t = trap o.hearth o.core 4 0 s) ∧
      ((k.getV o.vs1).p = false → (k.getV o.vs2).p = false →
        (Completes (.xeVadd o) s (VecResult o (fun r => ∀ i, i < e.lanes → lane e.width r i = laneAdd e (lane e.width a i) (lane e.width b i) % 2 ^ e.width) s)) ∧
        (Completes (.xeVsub o) s (VecResult o (fun r => ∀ i, i < e.lanes → lane e.width r i = laneSub e (lane e.width a i) (lane e.width b i) % 2 ^ e.width) s)) ∧
        (Completes (.xeVmul o) s (VecResult o (fun r => ∀ i, i < e.lanes → lane e.width r i = laneMul e (lane e.width a i) (lane e.width b i) % 2 ^ e.width) s)) ∧
        (Completes (.xeVmax o) s (VecResult o (fun r => ∀ i, i < e.lanes →
          (laneCmp e (lane e.width a i) (lane e.width b i) = some .lt → lane e.width r i = lane e.width b i) ∧
          (laneCmp e (lane e.width a i) (lane e.width b i) = some .gt → lane e.width r i = lane e.width a i)) s)) ∧
        (Completes (.xeVmin o) s (VecResult o (fun r => ∀ i, i < e.lanes →
          (laneCmp e (lane e.width a i) (lane e.width b i) = some .lt → lane e.width r i = lane e.width a i) ∧
          (laneCmp e (lane e.width a i) (lane e.width b i) = some .gt → lane e.width r i = lane e.width b i)) s)) ∧
        (o.vs2.val % 4 = 0 → Completes (.xeVcmp o) s (VecResult o (fun r => ∀ i, i < e.lanes →
          lane e.width r i = if laneCmp e (lane e.width a i) (lane e.width b i) = some .eq then 2 ^ e.width - 1 else 0) s)) ∧
        (o.vs2.val % 4 = 1 → Completes (.xeVcmp o) s (VecResult o (fun r => ∀ i, i < e.lanes →
          lane e.width r i = if laneCmp e (lane e.width a i) (lane e.width b i) = some .lt then 2 ^ e.width - 1 else 0) s)) ∧
        (o.vs2.val % 4 = 2 → Completes (.xeVcmp o) s (VecResult o (fun r => ∀ i, i < e.lanes →
          lane e.width r i = if laneCmp e (lane e.width a i) (lane e.width b i) ∈ [some .lt, some .eq] then 2 ^ e.width - 1 else 0) s)) ∧
        (o.vs2.val % 4 = 3 → Completes (.xeVcmp o) s fun t => t = trap o.hearth o.core 1 (vecBits 5 o) s))) ∧
  (∀ (e : Elem) (a b : Nat), e.fmt = none →
    laneAdd e a b = (BitVec.ofNat e.width a + BitVec.ofNat e.width b).toNat ∧
    laneSub e a b = (BitVec.ofNat e.width a - BitVec.ofNat e.width b).toNat ∧
    laneMul e a b = (BitVec.ofNat e.width a * BitVec.ofNat e.width b).toNat ∧
    laneCmp e a b = some (compare (BitVec.ofNat e.width a).toInt (BitVec.ofNat e.width b).toInt))

/-- Dot product, conversion, shuffle, lane moves and the detection instructions (R49, Table 2.6). Choices of the
model in it: assumption logs 3, 11 and 71. -/
def Obligations.VectorOperatorsCompute : Prop :=
  ∀ (o : VOp) (s : State), CoreRuns s o.hearth o.core →
    let k := s.core o.hearth o.core
    let a := (k.getV o.vs1).v
    let b := (k.getV o.vs2).v
    let d := (k.getV o.vd).v
    (k.getV o.vs1).p = false → (k.getV o.vs2).p = false → (k.getV o.vd).p = false →
    (o.ty = 0 → Completes (.xeVdot o) s (VecResult o (fun r => ∀ i, i < 4 →
      BitVec.ofNat 32 (lane 32 r i) = BitVec.ofNat 32 (lane 32 d i) + BitVec.ofInt 32 (((List.range 4).map fun j =>
        signedOf 8 (lane 8 a (4 * i + j)) * signedOf 8 (lane 8 b (4 * i + j))).sum)) s)) ∧
    (o.ty = 0 → Completes (.xeVshuf o) s (VecResult o (fun r => ∀ i, i < 16 → lane 8 r i = lane 8 a (lane 8 b i % 16)) s)) ∧
    (∀ e f, elemOf o.ty = some e → elemOf o.vs2 = some f → Completes (.xeVcvt o) s (VecResult o (fun r => ∀ i, i < e.lanes → i < f.lanes →
      lane f.width r i = convLane e f (lane e.width a i) % 2 ^ f.width) s)) ∧
    (∀ e, elemOf o.ty = some e →
      Completes (.xeVmvx o true) s (CoreBecomes o.hearth o.core ((k.setX o.vd (if e.fmt = none
        then BitVec.ofInt 32 (signedOf e.width (lane e.width a (o.vs2.val % e.lanes))) else BitVec.ofNat 32 (lane e.width a (o.vs2.val % e.lanes))) false).step 4) s) ∧
      ((k.getX o.vs1).p = false → Completes (.xeVmvx o false) s (VecResult o (fun r => ∀ j, j < e.lanes →
        lane e.width r j = if j = o.vs2.val % e.lanes then (k.getX o.vs1).v.toNat % 2 ^ e.width else lane e.width d j) s)) ∧
      ((k.getX o.vs1).p = true → Completes (.xeVmvx o false) s fun t => t = trap o.hearth o.core 4 0 s)) ∧
    (o.ty = 1 → Completes (.xeIou o) s (VecResult o (fun r => ∀ i, i < 2 → lane 32 r i = iouLane a b i % 2 ^ 32) s)) ∧
    (o.ty = 5 → Completes (.xeBdec o) s (VecResult o (fun r => ∃ f, ∀ i, i < 8 →
      lane 16 r i = (bdecBox a b (i / 4) f).getD (i % 4) 0 % 2 ^ 16) s)) ∧
    (o.ty = 1 → o.vs1.val % 2 = 0 → o.vd.val % 2 = 0 → o.vs2.val % 4 ≠ 3 → (k.getV (o.vs1.val + 1)).p = false → ∃ q0 q1,
      (∀ i, i < 4 → lane 32 q0 i = (bsortStep o.vs2 ((List.range 4).map (lane 32 a) ++ (List.range 4).map (lane 32 (k.getV (o.vs1.val + 1)).v))).getD i 0 % 2 ^ 32 ∧
        lane 32 q1 i = (bsortStep o.vs2 ((List.range 4).map (lane 32 a) ++ (List.range 4).map (lane 32 (k.getV (o.vs1.val + 1)).v))).getD (i + 4) 0 % 2 ^ 32) ∧
      Completes (.xeBsort o) s (CoreBecomes o.hearth o.core (((k.setV o.vd q0 false).setV (o.vd.val + 1) q1 false).step 4) s))

/-- Ladles as a core sees them (R58 rules 1–4 and 7), xe.cwait (R50, R141) and xe.trie (Table 2.6). Stealing (R58
rules 4–6) and completion reports at the home (rule 7). Choices of the model in it: assumption logs 7, 11, 71 and 84. -/
def Obligations.LadlesShareIndices : Prop :=
  (∀ (h : Fin 32) (c : Fin 64) (rd rs1 rs2 : Fin 32) (l : Fin 16) (n : Fin 64) (s : State), CoreRuns s h c →
    let k := s.core h c
    let d := (s.hearth h).ladle l
    (Completes (.xeTake h c rd l) s fun t => (t.core h c).pc = k.pc + 4) ∧
    (d.steal = none → d.head + 2 ≤ d.tail → Completes (.xeTake h c rd l) s fun t =>
      t.core h c = { (k.step 4).setX rd (BitVec.ofNat 32 d.head) false with run := .running, wait := none } ∧
      (t.hearth h).ladle l = { d with head := d.head + 1, held := d.held ++ [d.head] } ∧ OnlyHearth h s t) ∧
    (d.steal = none → d.tail = d.head + 1 → Completes (.xeTake h c rd l) s fun t =>
      t.core h c = { (k.step 4).setX rd (BitVec.ofNat 32 d.head) false with run := .running, wait := none } ∧
      (t.hearth h).ladle l = { d with tail := d.head, held := d.held ++ [d.head] } ∧ OnlyHearth h s t) ∧
    (d.steal = none → d.tail = d.head → d.pending = none → d.stealEn = false → Completes (.xeTake h c rd l) s fun t =>
      t.core h c = { (k.step 4).setX rd (BitVec.allOnes 32) false with run := .running, wait := none } ∧ (t.hearth h).ladle l = d ∧ OnlyHearth h s t) ∧
    (d.steal ≠ none → Completes (.xeTake h c rd l) s fun t =>
      t.core h c = { k.step 4 with run := .stalled, wait := some (.take l rd) } ∧ (t.hearth h).ladle l = { d with waiters := d.waiters ++ [.core c rd] } ∧ OnlyHearth h s t) ∧
    ((k.getX rs1).p = true → (Completes (.xeDone h c rs1 l) s fun t => t = trap h c 4 0 s) ∧ Completes (.xeCwait h c rs1 n) s fun t => t = trap h c 4 0 s) ∧
    ((k.getX rs1).p = false →
      (d.valid = true → Completes (.xeDone h c rs1 l) s fun t =>
        t.dones = s.dones ++ [{ src := h, ladle := l, home := d.home, index := (k.getX rs1).v.toNat }] ∧ t.core h c = k.step 4 ∧
        (t.hearth h).ladle l = { d with held := d.held.erase (k.getX rs1).v.toNat } ∧ t = { s with hearths := t.hearths, dones := t.dones }) ∧
      (d.valid = false → Completes (.xeDone h c rs1 l) s fun t =>
        t.core h c = k.step 4 ∧ (t.hearth h).counts = { (s.hearth h).counts with badDone := satAdd (s.hearth h).counts.badDone 1 } ∧ OnlyHearth h s t) ∧
      (((s.hearth h).ctr n).broken = false → 0 ≤ (((s.hearth h).ctr n).value - (k.getX rs1).v).toInt →
        Completes (.xeCwait h c rs1 n) s (CoreBecomes h c (k.step 4) s)) ∧
      (((s.hearth h).ctr n).broken = false → (((s.hearth h).ctr n).value - (k.getX rs1).v).toInt < 0 →
        Completes (.xeCwait h c rs1 n) s (CoreBecomes h c { k.step 4 with run := .stalled, wait := some (.counter n (k.getX rs1).v (waitCause (s.hearth h) n)) } s)) ∧
      (((s.hearth h).ctr n).broken = true → Completes (.xeCwait h c rs1 n) s fun t => t = jobFaultTrap h 0 s)) ∧
    ((k.getX rs1).p = false → (k.getX rs2).p = false →
      ((k.getX rs1).v.toNat % 8 ≠ 0 → Completes (.xeTrie h c rd rs1 rs2) s fun t => t = trap h c 2 (k.getX rs1).v s) ∧
      ((k.getX rs1).v.toNat % 8 = 0 → (k.getX rs1).v.toNat < 0x400000 ∨ (0x10000000 ≤ (k.getX rs1).v.toNat ∧ (k.getX rs1).v.toNat < 0x18000000) →
        Completes (.xeTrie h c rd rs1 rs2) s fun t => (t.core h c).pc = k.pc + 4 ∧ (t.core h c).run = .running) ∧
      (∀ nd ts : List (Byte × Bool), (k.getX rs1).v.toNat % 8 = 0 → (k.getX rs1).v.toNat < 0x400000 → (s.hearth h).state = .active → landEarlier h c h s = s →
        coreRead h h 0 (k.getX rs1).v.toNat 8 [] s = (nd, s) → nd.any (·.2) = false → ts.any (·.2) = false →
        coreRead h h 0 ((k.getX rs1).v.toNat + fieldAt (nd.map (·.1)) 6 2 * 8) (min (fieldAt (nd.map (·.1)) 4 2) 256 * 4) [] s = (ts, s) →
        Completes (.xeTrie h c rd rs1 rs2) s (CoreBecomes h c ((k.setX rd (BitVec.ofNat 32
          (trieChild (min (fieldAt (nd.map (·.1)) 4 2) 256) ((k.getX rs2).v.toNat % 256) fun i => ((ts.drop (4 * i)).take 4).map (·.1))) false).step 4) s)))) ∧
  (∀ (h : Fin 32) (l : Fin 16) (g hd tl cycles : Nat) (vs : List Nat) (s : State), clocked s = true →
    let probe := Instr.stealProbe h { ladle := l, cycles := cycles }
    let d := (s.hearth h).ladle l
    let v := (s.hearth g).ladle l
    (d.steal = none → Idles probe s ∧ Idles (.stealSwap h l) s ∧ Idles (.stealReply h l cycles) s) ∧
    (d.steal = some { victims := g :: vs, probed := none, reply := none } → v.head < v.tail → Completes probe s fun t =>
      (t.hearth h).ladle l = { d with steal := some { victims := g :: vs, probed := some (v.head, v.tail), reply := none } } ∧ OnlyHearth h s t) ∧
    (d.steal = some { victims := g :: vs, probed := none, reply := none } → v.head = v.tail → vs ≠ [] → Completes probe s fun t =>
      (t.hearth h).ladle l = { d with steal := some { victims := vs, probed := none, reply := none } } ∧ OnlyHearth h s t) ∧
    (d.steal = some { victims := [g], probed := none, reply := none } → v.head = v.tail → d.waiters = [] → Completes probe s fun t =>
      (t.hearth h).ladle l = { d with steal := none } ∧ OnlyHearth h s t) ∧
    (d.steal = some { victims := g :: vs, probed := some (hd, tl), reply := none } → g ≠ h →
      (v.tail = tl → v.head ≤ tl - stealCount d.maxSteal hd tl → Completes (.stealSwap h l) s fun t =>
        (t.hearth g).ladle l = { v with tail := tl - stealCount d.maxSteal hd tl } ∧
        (t.hearth h).ladle l = { d with steal := some { victims := g :: vs, probed := some (hd, tl), reply := some (some (tl - stealCount d.maxSteal hd tl, tl)) } } ∧
        t = { s with hearths := t.hearths }) ∧
      (v.tail ≠ tl → Completes (.stealSwap h l) s fun t => (t.hearth g).ladle l = v ∧
        (t.hearth h).ladle l = { d with steal := some { victims := g :: vs, probed := some (hd, tl), reply := some none } } ∧ OnlyHearth h s t)) ∧
    (d.steal = some { victims := g :: vs, probed := some (hd, tl), reply := some (some (hd, tl)) } → d.waiters = [] → Completes (.stealReply h l cycles) s fun t =>
      (t.hearth h).ladle l = { d with head := hd, tail := tl, steal := none } ∧ OnlyHearth h s t ∧
      (t.hearth h).counts = { (s.hearth h).counts with stealOk := satAdd (s.hearth h).counts.stealOk 1 }) ∧
    (d.steal = some { victims := g :: vs, probed := some (hd, tl), reply := some none } → vs ≠ [] → Completes (.stealReply h l cycles) s fun t =>
      (t.hearth h).ladle l = { d with steal := some { victims := vs, probed := none, reply := none } } ∧ OnlyHearth h s t ∧
      (t.hearth h).counts = { (s.hearth h).counts with stealFail := satAdd (s.hearth h).counts.stealFail 1 }) ∧
    ∀ (x : DoneMsg) (rest : List DoneMsg), s.dones = x :: rest → x.home = h.val → x.ladle = l.val →
      let byte := (d.bitmap + (x.index - d.base) / 8) % 0x400000
      let who := Agent.job (some d.job.toNat)
      (x.index < d.base ∨ d.base + d.total ≤ x.index → Completes (.completionReport h) s fun t =>
        t = { s with hearths := t.hearths, dones := rest } ∧ (t.hearth h).counts = { (s.hearth h).counts with badDone := satAdd (s.hearth h).counts.badDone 1 }) ∧
      (d.base ≤ x.index → x.index < d.base + d.total → readAccess s h byte who = .ok → bitmapBit s h l (x.index - d.base) = true → Completes (.completionReport h) s fun t =>
        t = { s with hearths := t.hearths, dones := rest } ∧ (t.hearth h).counts = { (s.hearth h).counts with dupDone := satAdd (s.hearth h).counts.dupDone 1 }) ∧
      (d.base ≤ x.index → x.index < d.base + d.total → writeAccess s h byte who = .ok → bitmapBit s h l (x.index - d.base) = false → d.done + 1 ≠ d.total → Completes (.completionReport h) s fun t =>
        t = { s with hearths := t.hearths, dones := rest } ∧ (t.hearth h).ladle l = { d with done := d.done + 1 } ∧ bitmapBit t h l (x.index - d.base) = true))

/-! ### Hearths -/

/-- Heartbeats, faults and removal (R52, R61, R409, Table 2.10): a fault of an ACTIVE hearth starts its removal with
its cause, counted in soot; in Banked it is recorded and kept for the exit; the removal ends in FAULTED, or in
TESTING where a RESTORE is latched. RESTORE, RETIRE and the end of the test (R61, R470, Table 2.10): a FAULTED hearth
is tested on every bank and becomes UNASSIGNED where march and self-test pass; a removal latches a RESTORE, which a
RETIRE cancels; a RESTORE in service has no effect and is recorded. Choices of the model in it: assumption logs 6 and
52. -/
def Obligations.HearthsAreRemovedAndRestored : Prop :=
  (∀ (h : Fin 32) (p : Bool) (s : State), clocked s = true →
    ((s.hearth h).state = .active →
      (Completes (.hccHeartbeat h) s fun t => OnlyHearth h s t ∧ t.hearth h = { s.hearth h with heartbeat := (s.hearth h).heartbeat + 1, beatAt := s.now }) ∧
      (s.power.state ≠ .banked →
        (Completes (.heartbeatTimeout h) s fun t => (t.hearth h).state = .removing ∧ (t.hearth h).faultCause = 1 ∧
          Table.get 0 t.recorder.soot.hearthFaults h = satAdd (Table.get 0 s.recorder.soot.hearthFaults h) 1 ∧ t.boot = s.boot ∧ t.dram = s.dram) ∧
        (Completes (.hearthInternalError h p) s fun t => (t.hearth h).state = .removing ∧ (t.hearth h).faultCause = (if p then 4 else 3) ∧
          Table.get 0 t.recorder.soot.hearthFaults h = satAdd (Table.get 0 s.recorder.soot.hearthFaults h) 1 ∧ t.boot = s.boot ∧ t.dram = s.dram) ∧
        (Serving s → Completes (.retire h) s fun t => (t.hearth h).state = .removing ∧ (t.hearth h).faultCause = 5)) ∧
      (s.power.state = .banked → Completes (.heartbeatTimeout h) s fun t =>
        t.power = { s.power with deferredFaults := s.power.deferredFaults ++ [(h.val, 1)] } ∧ t.hearths = s.hearths)) ∧
    ((s.hearth h).state ≠ .active → Idles (.hccHeartbeat h) s ∧ Idles (.heartbeatTimeout h) s ∧ Idles (.hearthInternalError h p) s) ∧
    ((s.hearth h).state = .removing → Completes (.removalComplete h) s fun t => (t.hearth h).state = .faulted ∧ t.jobs = s.jobs ∧ t.boot = s.boot) ∧
    ((s.hearth h).state = .stoppingPendingEnable → Completes (.removalComplete h) s fun t =>
      (t.hearth h).state = .testing ∧ (t.hearth h).march = { March.dflt with running := true } ∧ t.jobs = s.jobs) ∧
    ((s.hearth h).state ∈ [.unassigned, .active, .faulted, .testing] → Idles (.removalComplete h) s)) ∧
  (∀ (h : Fin 32) (b : Nat) (s : State), Serving s →
    ((s.hearth h).state = .faulted → Completes (.restore h) s fun t => OnlyHearth h s t ∧ (t.hearth h).state = .testing ∧
      (t.hearth h).march = { March.dflt with running := true } ∧ (b < 32 → ((t.hearth h).bank b).state = .testing) ∧ (t.hearth h).cores = []) ∧
    ((s.hearth h).state = .removing → Completes (.restore h) s fun t => OnlyHearth h s t ∧
      t.hearth h = { s.hearth h with state := .stoppingPendingEnable }) ∧
    ((s.hearth h).state = .stoppingPendingEnable → Idles (.restore h) s ∧
      Completes (.retire h) s fun t => OnlyHearth h s t ∧ t.hearth h = { s.hearth h with state := .removing }) ∧
    ((s.hearth h).state ∈ [.unassigned, .active, .testing] → Completes (.restore h) s fun t =>
      t = record 0x0102 0 0 ((2 : Word) ++ BitVec.ofNat 32 (hearthBase h + 8)) s) ∧
    ((s.hearth h).state ∈ [.unassigned, .removing, .faulted, .testing] → Idles (.retire h) s) ∧
    ((s.hearth h).state = .active → s.power.state ≠ .banked → Completes (.retire h) s fun t => (t.hearth h).state = .removing ∧ (t.hearth h).faultCause = 5) ∧
    ((s.hearth h).state = .testing → (s.hearth h).march.running = false →
      ((s.hearth h).march.result = 1 → Completes (.hearthTestComplete h true) s fun t => OnlyHearth h s t ∧ t.hearth h = { s.hearth h with state := .unassigned }) ∧
      (Completes (.hearthTestComplete h false) s fun t => t.hearth h = { s.hearth h with state := .faulted })) ∧
    ((s.hearth h).state ≠ .testing ∨ (s.hearth h).march.running = true → ∀ p, Idles (.hearthTestComplete h p) s))

/-- Flues (R54–R57, R147): a flit lands whole and in order and advances the receive hoop; one of a flue that is
BROKEN or CLOSED is gone; a credit returns to its sender and is held or spent on the flit that waits for it; a
drained flue opens again with its depth in credits, held or spent, and an empty hoop. Choices of the model in it:
assumption logs 7, 71 and 74. -/
def Obligations.FluesLandAndDrain : Prop :=
  ∀ (h : Fin 32) (p tag : Fin 16) (n : Nat) (s : State), clocked s = true →
    let o := (s.hearth h).outPort p
    let i := (s.hearth o.peer).inPort o.peerPort
    let k := (s.hearth o.peer).hoop o.peerPort
    let slot := k.base + k.tail.toNat % max k.size 1 * 64
    (o.flight = [] → Idles (.flitLand h p tag) s) ∧
    (∀ (flit : BitVec 512) (poison : Bool) (own : Nat) (rest : List (BitVec 512 × Bool × Nat)), o.flight = (flit, poison, own) :: rest →
      (o.state = .broken ∨ o.state = .closed → Completes (.flitLand h p tag) s fun t => OnlyHearth h s t ∧
        (t.hearth h).outPort p = { o with flight := rest }) ∧
      (o.state = .openF ∨ o.state = .draining → Completes (.flitLand h p tag) s fun t =>
        (t.hearth o.peer).hoop o.peerPort = { k with tail := k.tail + 1 } ∧ (∃ more, ((t.hearth h).outPort p).flight = rest ++ more) ∧
        (t.hearth o.peer).mem = ((spmWrite o.peer slot (agentOf s o.peer) ((toBytes flit 64).map fun b => (b, poison)) s).hearth o.peer).mem ∧
        (∀ c, k.tailCtr = some c → ((t.hearth o.peer).ctr c).value = ((s.hearth o.peer).ctr c).value + 1) ∧
        t = { s with hearths := t.hearths } ∧ ∀ g, g ≠ h.val → g ≠ o.peer → t.hearth g = s.hearth g) ∧
      (o.state = .openF ∨ o.state = .draining → o.full = false → portWaiters s h p = false → Completes (.flitLand h p tag) s fun t =>
        (t.hearth h).outPort p = { o with flight := rest })) ∧
    (o.valid = false ∨ i.credits = 0 → Idles (.flueCreditReturn h p n) s) ∧
    (o.valid = true → 0 < i.credits →
      (Completes (.flueCreditReturn h p n) s fun t =>
        ((t.hearth h).outPort p).credits + ((t.hearth h).outPort p).flight.length = min o.depth (o.credits + 1) + o.flight.length ∧
        ((t.hearth o.peer).inPort o.peerPort).credits = i.credits - 1 ∧ t = { s with hearths := t.hearths } ∧
        ∀ g, g ≠ h.val → g ≠ o.peer → t.hearth g = s.hearth g) ∧
      (o.full = false → portWaiters s h p = false → Completes (.flueCreditReturn h p n) s fun t =>
        (t.hearth h).outPort p = { o with credits := min o.depth (o.credits + 1) })) ∧
    (o.state = .draining → o.flight = [] →
      (Completes (.flueDrainComplete h p) s fun t =>
        ((t.hearth h).outPort p).state = .openF ∧ ((t.hearth h).outPort p).credits + ((t.hearth h).outPort p).flight.length = o.depth ∧
        (t.hearth o.peer).inPort o.peerPort = { i with state := .openF, credits := 0, creditTags := [] } ∧
        (t.hearth o.peer).hoop o.peerPort = { k with head := k.tail } ∧ t = { s with hearths := t.hearths } ∧
        ∀ g, g ≠ h.val → g ≠ o.peer → t.hearth g = s.hearth g) ∧
      (o.full = false → portWaiters s h p = false → Completes (.flueDrainComplete h p) s fun t =>
        (t.hearth h).outPort p = { o with state := .openF, credits := o.depth })) ∧
    (o.state ≠ .draining ∨ o.flight ≠ [] → Idles (.flueDrainComplete h p) s)

/-! ### Scratchpad -/

/-- Bank power and scrub (R131, Table 5.3): a settled bank is scrubbed, behind the one under way in increasing
number; a scrubbed one reads zero without poison and is READY without a tag, every other bank's bytes as they were;
an ECC write-back changes no data (R125). March tests (R149–R152): a START while one runs does nothing; a destructive
one starts only in a hearth that is in no vat, on all banks, and ends with every bank that passed READY and zero and
the others FAILED; a preserving one walks its mask, and its failure in an ACTIVE hearth is a hearth fault. Choices of
the model in it: assumption logs 8, 9, 73 and 84. -/
def Obligations.BanksAreScrubbedAndTested : Prop :=
  (∀ (h b : Fin 32) (g : Nat) (s : State), clocked s = true →
    (((s.hearth h).bank b).state = .waking → Completes (.bankPowerSettled h b) s fun t => OnlyHearth h s t ∧
      ((t.hearth h).bank b).state = .scrubbing ∧ (∀ c, c ∈ (t.hearth h).scrubLeft ↔ c ∈ (s.hearth h).scrubLeft ∨ c = b.val) ∧
      (∀ c, (s.hearth h).scrubLeft.head? = some c → (t.hearth h).scrubLeft.head? = some c) ∧ ((t.hearth h).scrubLeft.drop 1).Pairwise (· ≤ ·) ∧
      (t.hearth h).mem = (s.hearth h).mem) ∧
    (((s.hearth h).bank b).state ≠ .waking → Idles (.bankPowerSettled h b) s) ∧
    ((s.hearth h).scrubLeft = [] → Idles (.scrubBankComplete h) s) ∧
    (s.power.state = .banked → Idles (.scrubBankComplete h) s) ∧
    (∀ rest, (s.hearth h).scrubLeft = b.val :: rest → s.power.state ≠ .banked → Completes (.scrubBankComplete h) s fun t => OnlyHearth h s t ∧ (t.hearth h).scrubLeft = rest ∧
      (∀ a, Table.get 0 (t.hearth h).mem a = if bankOf a = b then 0 else Table.get 0 (s.hearth h).mem a) ∧
      (∀ x, Table.get false (t.hearth h).poison x = if x / 8192 = b then false else Table.get false (s.hearth h).poison x) ∧
      (((s.hearth h).bank b).offAfter = false → (t.hearth h).bank b = { (s.hearth h).bank b with state := .ready, tag := none, lastA := false }) ∧
      (((s.hearth h).bank b).offAfter = true → (t.hearth h).bank b = Bank.dflt) ∧
      ∀ x, x ≠ b.val → (t.hearth h).bank x = (s.hearth h).bank x) ∧
    (Completes (.spmEccWriteback h g) s fun t => OnlyHearth h s t ∧ g ∉ (t.hearth h).eccPending ∧
      t.hearth h = { s.hearth h with eccPending := (t.hearth h).eccPending })) ∧
  (∀ (h b b' : Fin 32) (rest : List Nat) (ctrl fail : Word) (e : Fin 12) (w : Fin 32768) (s : State), clocked s = true →
    let m := (s.hearth h).march
    (Serving s → m.running = true → bit ctrl 31 = true → Idles (.marchStart h ctrl) s) ∧
    (Serving s → m.running = false → bit ctrl 31 = true → bit ctrl 0 = false →
      ((s.hearth h).state ∈ [.unassigned, .faulted, .testing] → Completes (.marchStart h ctrl) s fun t =>
        (t.hearth h).march = { March.dflt with running := true } ∧ ((t.hearth h).bank b).state = .testing ∧ t = { s with cfg := t.cfg, hearths := t.hearths }) ∧
      ((s.hearth h).state ∉ [.unassigned, .faulted, .testing] → Completes (.marchStart h ctrl) s fun t =>
        t.hearth h = { s.hearth h with march := { m with result := 3 } } ∧ t = { s with cfg := t.cfg, hearths := t.hearths })) ∧
    (Serving s → m.running = false → bit ctrl 31 = true → bit ctrl 0 = true → maskBanks (cfgGet s (marchMaskOff h)) = b.val :: rest →
      (s.hearth h).state ≠ .removing → (∀ x ∈ maskBanks (cfgGet s (marchMaskOff h)), ((s.hearth h).bank x).state = .ready) →
      Completes (.marchStart h ctrl) s fun t => ((t.hearth h).bank b).state = .testing ∧
        (t.hearth h).march = { March.dflt with running := true, preserving := true, bank := b, left := rest }) ∧
    (m.running = false → Idles (.marchBankComplete h true) s ∧ Idles (.marchComplete h 0 e w) s) ∧
    (m.running = true → m.preserving = true → m.bank = b → m.left = b'.val :: rest → b ≠ b' → Completes (.marchBankComplete h true) s fun t =>
      OnlyHearth h s t ∧ ((t.hearth h).bank b).state = .ready ∧ ((t.hearth h).bank b').state = .testing ∧
      (t.hearth h).march = { m with bank := b', left := rest } ∧ (t.hearth h).mem = (s.hearth h).mem) ∧
    (m.running = true → m.preserving = true → m.bank = b → m.left = [] → s.power.bankedWaits = false → Completes (.marchBankComplete h true) s fun t =>
      OnlyHearth h s t ∧ ((t.hearth h).bank b).state = .ready ∧ (t.hearth h).march = { m with running := false, bank := 0, result := 1 } ∧
      (t.hearth h).mem = (s.hearth h).mem) ∧
    (m.running = true → m.preserving = true → m.bank = b → s.power.bankedWaits = false → (s.hearth h).state ≠ .active → Completes (.marchBankComplete h false) s fun t =>
      OnlyHearth h s t ∧ ((t.hearth h).bank b).state = .failed ∧ (t.hearth h).march.result = 2 ∧ (t.hearth h).march.running = false ∧
      (t.hearth h).march.fail = BitVec.ofNat 32 (2 ^ b.val)) ∧
    (m.running = true → m.preserving = true → (s.hearth h).state = .active → s.power.state ≠ .banked → Completes (.marchBankComplete h false) s fun t =>
      (t.hearth h).state = .removing ∧ (t.hearth h).faultCause = 2) ∧
    (m.running = true → m.preserving = false → Completes (.marchComplete h fail e w) s fun t =>
      (t.hearth h).march.result = (if fail = 0 then 1 else 2) ∧ (t.hearth h).march.fail = fail ∧ (t.hearth h).march.running = false ∧
      ((t.hearth h).bank b).state = (if bit fail b then .failed else .ready) ∧ ((t.hearth h).bank b).tag = none) ∧
    (m.running = true → m.preserving = false → s.power.bankedWaits = false → Completes (.marchComplete h 0 e w) s fun t => OnlyHearth h s t ∧
      (t.hearth h).march = { March.dflt with result := 1 } ∧ ((t.hearth h).bank b).state = .ready ∧ ((t.hearth h).bank b).tag = none ∧
      ∀ a, a < 0x400000 → Table.get 0 (t.hearth h).mem a = 0))

/-- Counters and hoops by store (R137–R140, R145–R147): in an ACTIVE hearth, once the sender's earlier stores have
landed, ADD adds, keeps its source and takes the delay tag, or of one cycle's the worse one; SET sets and forgets
them; an advance within the occupancy or the free space moves its pointer and bumps its counter, and a flue hoop's
freed slots become credits; a larger one is refused, one by zero does nothing, and poison is discarded and counted.
In any other hearth the store is discarded and counted (R128). A wait for target t is met exactly when VALUE − t as a
signed 32-bit number is zero or more (R141). Choices of the model in it: assumption logs 7 and 74. -/
def Obligations.ControlWordsAndWaits : Prop :=
  (∀ (h : Fin 32) (c : Fin 64) (j : Fin 32) (v : Word) (src : Option BumpSource) (tag : Fin 16) (tg : BumpTag) (s : State),
    clocked s = true → landSource h src s = s →
    let k := (s.hearth h).ctr c
    let q := (s.hearth h).hoop j
    let n := (s.hearth h).counts
    let discarded := fun t => OnlyHearth h s t ∧ t.hearth h = { s.hearth h with counts := { n with ctlDiscard := satAdd n.ctlDiscard 1 } }
    let refused := fun t => OnlyHearth h s t ∧ (t.hearth h).hoop j = (if q.state = .bound then { q with err := true } else q) ∧
      (t.hearth h).counts = { n with ctlDiscard := satAdd n.ctlDiscard 1 } ∧ (t.hearth h).ctrs = (s.hearth h).ctrs
    ((s.hearth h).state ≠ .active → ∀ x, ∀ i ∈ [Instr.counterAdd h c v src tg x, .counterSet h c v x, .hoopHeadAdvance h j v src tag x, .hoopTailAdvance h j v src tag x],
      Completes i s fun t => OnlyHearth h s t ∧ t.hearth h = { s.hearth h with counts := { n with offAccess := satAdd n.offAccess 1 } }) ∧
    ((s.hearth h).state = .active →
      (Completes (.counterAdd h c v src tg false) s fun t => OnlyHearth h s t ∧
        (t.hearth h).ctr c = { k with
          value := k.value + v, tag := (if tg.together then worseTag k.tag tg.tag else tg.tag.val) % 16
          sources := match src with
            | none => k.sources
            | some b => k.sources ||| BitVec.ofNat 32 (2 ^ b.hearth.val) } ∧
        ∀ d, d ≠ c.val → (t.hearth h).ctr d = (s.hearth h).ctr d) ∧
      (Completes (.counterSet h c v false) s fun t => OnlyHearth h s t ∧ (t.hearth h).ctr c = { k with value := v, sources := 0, tag := 15 } ∧
        ∀ d, d ≠ c.val → (t.hearth h).ctr d = (s.hearth h).ctr d) ∧
      (∀ i ∈ [Instr.counterAdd h c v src tg true, .counterSet h c v true, .hoopHeadAdvance h j v src tag true, .hoopTailAdvance h j v src tag true],
        Completes i s discarded) ∧
      (v = 0 → Idles (.hoopHeadAdvance h j v src tag false) s) ∧
      (q.state = .bound → 0 < v.toNat → v.toNat ≤ q.occ → Completes (.hoopHeadAdvance h j v src tag false) s fun t =>
        OnlyHearth h s t ∧ (t.hearth h).hoop j = { q with head := q.head + v } ∧
        (∀ m, q.headCtr = some m → ((t.hearth h).ctr m).value = ((s.hearth h).ctr m).value + v) ∧ (q.headCtr = none → (t.hearth h).ctrs = (s.hearth h).ctrs) ∧
        ((t.hearth h).inPort j).credits = ((s.hearth h).inPort j).credits + if q.flue then v.toNat else 0) ∧
      (q.state ≠ .bound ∨ q.occ < v.toNat → v ≠ 0 → Completes (.hoopHeadAdvance h j v src tag false) s refused) ∧
      (16 ≤ j.val → q.flue = false →
        (v = 0 → Idles (.hoopTailAdvance h j v src tag false) s) ∧
        (q.state = .bound → 0 < v.toNat → v.toNat ≤ q.size - q.occ → Completes (.hoopTailAdvance h j v src tag false) s fun t =>
          OnlyHearth h s t ∧ (t.hearth h).hoop j = { q with tail := q.tail + v } ∧
          (∀ m, q.tailCtr = some m → ((t.hearth h).ctr m).value = ((s.hearth h).ctr m).value + v) ∧ (q.tailCtr = none → (t.hearth h).ctrs = (s.hearth h).ctrs)) ∧
        (q.state ≠ .bound ∨ q.size - q.occ < v.toNat → v ≠ 0 → Completes (.hoopTailAdvance h j v src tag false) s refused)) ∧
      (j.val < 16 ∨ q.flue = true → Completes (.hoopTailAdvance h j v src tag false) s discarded))) ∧
  (∀ (k : Ctr) (t : Word), ctrMet k t = true ↔ 0 ≤ (k.value - t).toInt)

/-- BAR4 (R33, R153, R373, R374): in Lit a read returns the bytes of a READY working bank and a write stores them,
nothing else changing; a hearth that is not ACTIVE reads zero and counts a discarded write; not served, a read is
aborted and a write recorded. Choices of the model in it: assumption logs 8, 9, 70 and 84. -/
def Obligations.Bar4ReachesScratchpad : Prop :=
  ∀ (off : BitVec 27) (len : Fin 4097) (d : List Byte) (errs : List SpmErr) (rv : Rivals) (s : State), clocked s = true →
    let h := off.toNat / 0x400000
    let a := off.toNat % 0x400000
    (memServed s = false →
      (Completes (.bar4Read off len errs rv) s fun t => t = abortRead 4 off.toNat (recordBar off.toNat s)) ∧
      Completes (.bar4Write off d false rv) s fun t => t = recordBar off.toNat s) ∧
    (memServed s = true →
      (Completes (.bar4Read off len errs rv) s fun t => ∃ bs p, t.out = s.out ++ [.barRead 4 off.toNat bs p .success] ∧ bs.length = len.val ∧ t.dram = s.dram) ∧
      (Completes (.bar4Write off d false rv) s fun t => t.out = s.out ∧ t.dram = s.dram ∧ ∀ g, g ≠ h → t.hearth g = s.hearth g)) ∧
    (memServed s = true → (s.hearth h).state ≠ .active →
      (Completes (.bar4Read off len errs rv) s fun t => t = { s with out := s.out ++ [.barRead 4 off.toNat (List.replicate len 0) false .success] }) ∧
      Completes (.bar4Write off d false rv) s fun t => OnlyHearth h s t ∧
        t.hearth h = { s.hearth h with counts := { (s.hearth h).counts with bar4Discard := satAdd (s.hearth h).counts.bar4Discard 1 } }) ∧
    (memServed s = true → (s.hearth h).state = .active → isControl a = false → ((s.hearth h).bank (bankOf a)).state = .ready →
      ((s.hearth h).bank (bankOf a)).cls = .working → a % 16 = 0 → len = 16 → d.length = 16 →
      (Table.get false (s.hearth h).poison (a / 16) = false → Completes (.bar4Read off len [] rv) s fun t =>
        t.out = s.out ++ [.barRead 4 off.toNat (memBytes s h a 16) false .success] ∧ t.pcie = s.pcie ∧
        ∀ g, (t.hearth g).mem = (s.hearth g).mem ∧ (t.hearth g).cores = (s.hearth g).cores ∧ (t.hearth g).ctrs = (s.hearth g).ctrs) ∧
      (Table.get false (s.hearth h).poison (a / 16) = true → Completes (.bar4Read off len [] rv) s fun t =>
        t.pcie = { s.pcie with poisonTx := satAdd s.pcie.poisonTx 1 } ∧ t.out = s.out ++ [.barRead 4 off.toNat (memBytes s h a 16) true .success]) ∧
      (Completes (.bar4Write off d false rv) s fun t => t = { s with hearths := t.hearths, recorder := t.recorder } ∧
        (∀ g, g ≠ h → t.hearth g = s.hearth g) ∧ (t.hearth h).cores = (s.hearth h).cores ∧
        (∀ x, Table.get 0 (t.hearth h).mem x = if a ≤ x ∧ x < a + 16 then byteAt d (x - a) else Table.get 0 (s.hearth h).mem x) ∧
        ∀ g, Table.get false (t.hearth h).poison g = if g = a / 16 then false else Table.get false (s.hearth h).poison g))

/-! ### Arrays -/

/-- Passes (R67–R74, R78, R91, R192). A weight row write adds one row, or the scales of one group, to the shadow that
is being fed for the first new-set pass that waits, and is not taken once the shadow is whole. The pass at the head
of the queue starts when its job runs, its hearth is ACTIVE, its counter wait is met, the newest pass in flight has
its mode and G, and, unless it is a reuse pass, the shadow holds a row: a new-set pass takes the shadow and flips the
tag, a reuse pass keeps set and tag; cycles withheld count. A pass fed one vector holds the codes it read. The oldest
pass whose set is whole writes its entries, counts, and its hearth's part is finished. Choices of the model in it:
assumption logs 7, 22, 66 and 70. -/
def Obligations.ArraysRunPasses : Prop :=
  ∀ (h : Fin 32) (a : Fin 2) (p : Pass) (rest : List Pass) (e : Touch) (stalls : List (Fin 11 × Nat)) (n : Nat) (s : State),
    let x := (s.hearth h).arr a
    clocked s = true →
    (x.flight = [] → x.queue = p :: rest → p.reuse = false → jobRuns s p.job.toNat = true →
      (let w := if x.shadow.rows = [] then setFor p else x.shadow
       (w.complete = false → Completes (.weightRowWrite h a e) s fun t =>
          (let y := (t.hearth h).arr a
           y.shadow.rows.length + y.shadow.scales.length = w.rows.length + w.scales.length + 1 ∧ y.shadow.mode = w.mode ∧
           y.active = x.active ∧ y.queue = x.queue ∧ y.flight = x.flight ∧ y.acc = x.acc ∧ y.tag = x.tag)) ∧
       (w.complete = true → Idles (.weightRowWrite h a e) s)) ∧
      (x.shadow.rows = [] → p.mode = 0 → 1 ≤ p.kValid → p.wbase + 128 ≤ 0xFFC00 →
        Completes (.weightRowWrite h a Touch.none) s fun t => OnlyHearth h s t ∧
        ((t.hearth h).arr a).shadow =
          (setFor p).put (fun c => halfOfInt (bellDefault.getD c 0)) (spmPeek s h p.wbase 128 (.job (some p.job.toNat))))) ∧
    (x.flight = [] → x.queue = [] → Idles (.weightRowWrite h a e) s) ∧
    (x.queue = [] → Idles (.passStart h a e stalls n) s) ∧
    (x.queue = p :: rest → jobRuns s p.job.toNat = false → Idles (.passStart h a e stalls n) s) ∧
    (x.queue = p :: rest → jobRuns s p.job.toNat = true → (s.hearth h).state = .active →
      (∀ c v, p.wait = some (c, v) → ((s.hearth h).ctr c).broken = false ∧ ctrMet ((s.hearth h).ctr c) v = true) →
      (∀ q, x.flight.getLast? = some q → q.mode = p.mode ∧ groupRows q.mode q.group = groupRows p.mode p.group) →
      (p.reuse = false → x.shadow.rows = [] → Idles (.passStart h a e stalls n) s) ∧
      (p.reuse = true ∨ x.shadow.rows ≠ [] → Completes (.passStart h a e stalls n) s fun t =>
        (let y := (t.hearth h).arr a
         y.tag = (if p.reuse then x.tag else !x.tag) ∧ y.active = (if p.reuse then x.active else x.shadow) ∧
         y.shadow = (if p.reuse then x.shadow else WSet.empty) ∧ y.queue = rest ∧ y.flight.length = x.flight.length + 1 ∧
         (p.mask = none → y.fed = satAdd x.fed p.rows) ∧ y.throttle = satAdd x.throttle n ∧ y.acc = x.acc ∧
         y.passes = x.passes ∧ y.drain = x.drain)) ∧
      (p.reuse = false → x.shadow.rows ≠ [] → x.flight = [] → p.rows = 1 → p.mask = none →
        p.xbase + p.kValid * actBytes p.mode ≤ 0xFFC00 →
        Completes (.passStart h a Touch.none [] n) s fun t => OnlyHearth h s t ∧
          ((t.hearth h).arr a).flight = [{ p with fed :=
            [(0, vectorOf p.mode p.kValid (spmPeek s h p.xbase (p.kValid * actBytes p.mode) (.job (some p.job.toNat))))] }] ∧
          (t.hearth h).mem = (s.hearth h).mem ∧ (t.hearth h).ctrs = (s.hearth h).ctrs)) ∧
    (∀ c v, x.queue = p :: rest → p.wait = some (c, v) → ((s.hearth h).ctr c).broken = false → (((s.hearth h).ctr c).value - v).toInt < 0 →
      Idles (.passStart h a e stalls n) s) ∧
    (∀ q : Pass, x.queue = p :: rest → x.flight.getLast? = some q → q.mode ≠ p.mode → p.wait = none →
      Idles (.passStart h a e stalls n) s) ∧
    (x.flight = [] → Idles (.passComplete h { a := a, touch := e, stalls := stalls, withheld := n }) s) ∧
    (x.flight = p :: rest →
      ((p.own.getD x.active).complete = false → Idles (.passComplete h { a := a, touch := e, stalls := stalls, withheld := n }) s) ∧
      ((p.own.getD x.active).complete = true →
        Completes (.passComplete h { a := a, touch := e, stalls := stalls, withheld := n }) s fun t =>
        (let y := (t.hearth h).arr a
         y = { x with flight := rest, passes := satAdd x.passes 1, throttle := satAdd x.throttle n, acc := y.acc } ∧
         (∀ i, (∀ f ∈ p.fed, (p.accBase + f.1) % 1024 ≠ i) → Table.get AccRow.dflt y.acc i = Table.get AccRow.dflt x.acc i) ∧
         ∀ f, p.fed = [f] → Table.get AccRow.dflt y.acc ((p.accBase + f.1) % 1024) =
          writeEntry p.acc (Table.get AccRow.dflt x.acc ((p.accBase + f.1) % 1024)) (passRow (p.own.getD x.active) f.2.1 f.2.2)) ∧
        ∀ k, findCmd t p.job.toNat p.seq = some k → h.val ∉ k.partsLeft))

/-- Drains (R82, R86–R88, R139): one at a time, oldest first; it starts while its job runs on an ACTIVE hearth. Rows
land one after another, each counted and taken from its accumulator entry, which stays; the last ends the drain and
its hearth's part. A row for scratchpad banks that serve it stands there in its output type afterwards; a drain with
BUMP_EN and a bump each row adds 1 to its counter. A row for a flue without room, or of a job that does not run,
waits. Choices of the model in it: assumption logs 21 and 71. -/
def Obligations.DrainsWriteRows : Prop :=
  ∀ (h : Fin 32) (a : Fin 2) (d : DrainRun) (rest : List DrainRun) (tag : Fin 16) (dt : DrainTurn) (n : Fin 1025) (s : State),
    let x := (s.hearth h).arr a
    clocked s = true →
    (x.drain = none → x.drains = d :: rest → jobRuns s d.job.toNat = true → (s.hearth h).state = .active →
      Completes (.drainStart h a) s fun t => OnlyHearth h s t ∧ (t.hearth h).arr a = { x with drain := some d, drains := rest } ∧
        (t.hearth h).mem = (s.hearth h).mem ∧ ∀ b, b ≠ a.val → (t.hearth h).arr b = (s.hearth h).arr b) ∧
    (x.drain ≠ none ∨ x.drains = [] → Idles (.drainStart h a) s) ∧
    (x.drain = none → Idles (.drainRowsLanded h a n tag dt) s) ∧
    (x.drain = some d → jobRuns s d.job.toNat = false → Idles (.drainRowsLanded h a n tag dt) s) ∧
    (x.drain = some d → jobRuns s d.job.toNat = true → d.done < d.count → outTarget d.desc = 1 →
      flueRoom s h (fieldAt d.desc 16 4 % 16) (cdiv (descColumns d.desc * outSize (outType d.desc)) 64) = false →
      Idles (.drainRowsLanded h a 1 tag { stalls := [], touch := Touch.none }) s) ∧
    (x.drain = some d → jobRuns s d.job.toNat = true →
      (outTarget d.desc = 1 → flueRoom s h (fieldAt d.desc 16 4 % 16) (cdiv (descColumns d.desc * outSize (outType d.desc)) 64) = true) →
      (d.done + 1 < d.count → Completes (.drainRowsLanded h a 1 tag { stalls := [], touch := Touch.none }) s fun t =>
        t = { s with hearths := t.hearths } ∧
        ((t.hearth h).arr a).drain = some { d with done := d.done + 1 } ∧ ((t.hearth h).arr a).drainRows = satAdd x.drainRows 1 ∧
        ((t.hearth h).arr a).acc = x.acc) ∧
      (d.done + 1 = d.count → Completes (.drainRowsLanded h a 1 tag { stalls := [], touch := Touch.none }) s fun t =>
        t = { s with hearths := t.hearths, cmds := t.cmds } ∧
        ((t.hearth h).arr a).drain = none ∧ ((t.hearth h).arr a).drainRows = satAdd x.drainRows 1 ∧ ((t.hearth h).arr a).acc = x.acc ∧
        ∀ k, findCmd t d.job.toNat d.seq = some k → h.val ∉ k.partsLeft)) ∧
    (let at' := fieldAt d.desc 16 4 + d.done * fieldAt d.desc 20 2
     let row := (drainRow (fun _ _ => []) d.desc (descColumns d.desc) (rowBase d.desc + d.done) (colBase d.desc) d.done
      (Table.get AccRow.dflt x.acc ((d.entryBase + d.done) % 1024))).1
     x.drain = some d → jobRuns s d.job.toNat = true → d.done < d.count → outTarget d.desc = 0 → at' + row.length ≤ 0xFFC00 →
      ((s.hearth h).state = .active → (∀ b, b < 32 → ((s.hearth h).bank b).state = .ready ∧ ((s.hearth h).bank b).cls = .working) →
        drainReads d.desc (descColumns d.desc) (rowBase d.desc + d.done) (colBase d.desc) d.done = [] →
        Completes (.drainRowsLanded h a 1 tag { stalls := [], touch := Touch.none }) s fun t =>
          ∀ i b, row[i]? = some b → Table.get 0 (t.hearth h).mem (at' + i) = b) ∧
      (bumpEn d.desc = true → bumpEvery d.desc = 1 → fieldAt d.desc 16 4 < 0x400000 →
        Completes (.drainRowsLanded h a 1 tag { stalls := [], touch := Touch.none }) s fun t =>
          ((t.hearth h).ctr (fieldAt d.desc 26 1 % 64)).value = ((s.hearth h).ctr (fieldAt d.desc 26 1 % 64)).value + 1))

/-! ### Models and adaptation -/

/-- Adaptation and model versions (R98, R99, R111, R114, R116, R118–R120, R410). On a device that is alone a step
counts, keeps the rows that the forward pass saved, and updates the trained tensors by its gradients unless no crop
of the batch was valid; on a member that is not the lead it counts once the lead's codes are there; the last step
leads to QUANTISING; a step whose gradients are poisoned faults the job. The quantised version is held STAGED. A
package with good grids is held and CURRENT after its publishing; publishing a held version makes it CURRENT, the one
before going IDLE or, while bound, RETIRING; only a STAGED or IDLE version is deleted, from the list and from every
cave, and another is recorded. Choices of the model in it: assumption logs 27 and 75. -/
def Obligations.ModelsAdaptAndPublish : Prop :=
  ∀ (j m : Half) (ver : Word) (runs : List Nat) (grads : List (List Grad)) (acts : List (List Word)) (place : BitVec 34)
    (touch : Touch) (pkg : Package) (v : Version) (b : Job) (a : Adapt) (s : State),
    clocked s = true →
    (s.job j.toNat = some b → b.adapt = some a → b.state = .running → b.begun = true → a.state = .stepping →
      findVersion s a.model a.baseVersion = some v →
      (let poisoned := gradsPoisoned grads (batchValid s b.vat a (a.steps + 1)) ((trained v a).map (·.1))
       let next := { a with
         steps := a.steps + 1, state := if a.stepsWanted ≤ a.steps + 1 then AdaptState.quantising else .stepping
         acts := acts.map (saveRow a.exchange) }
       (poisoned = true → Completes (.adaptStepComplete j runs grads acts) s fun t =>
         ∃ k, t.job j.toNat = some k ∧ k.state = .tearingDown ∧ k.cause = some (0x0102, 4, false)) ∧
       (poisoned = false → a.lead = 0xFF → Completes (.adaptStepComplete j runs grads acts) s fun t =>
         t = { s with jobs := t.jobs } ∧ (∀ k, k ≠ j.toNat → t.job k = s.job k) ∧
         t.job j.toNat = some { b with adapt := some { next with
           tensors := if (batchValid s b.vat a (a.steps + 1)).all (fun x => !x) = true then a.tensors
             else applyStep a (a.steps + 1) runs ((ownGrads s b.vat v a (a.steps + 1) grads).map (storedGrad a (a.steps + 1))) } }) ∧
       (poisoned = false → isLead s a = false → (s.member a.lead).state = .up →
         (a.steps = 0 ∨ codesHere s a (trained v a) a.steps = true) → Completes (.adaptStepComplete j runs grads acts) s fun t =>
         t.job j.toNat = some { b with adapt := some next }))) ∧
    ((s.job j.toNat = none ∨ ∃ k, s.job j.toNat = some k ∧ (k.adapt = none ∨ k.state ≠ .running)) →
      Idles (.adaptStepComplete j runs grads acts) s ∧ Idles (.quantiseComplete j place touch) s) ∧
    (s.job j.toNat = some b → b.adapt = some a → b.state = .running → a.state = .quantising → findVersion s a.model a.baseVersion = some v →
      (isLead s a = true ∨ codesHere s a (trained v a) a.steps = true) →
      Completes (.quantiseComplete j place touch) s fun t =>
        t.versions = s.versions ++ [newVersionOf place.toNat v a] ∧ (newVersionOf place.toNat v a).state = .staged ∧
        t.job j.toNat = some { b with adapt := some { a with tensors := [], acts := [], state := if a.publish then .publishing else .done } } ∧
        (touch = Touch.none →
          t = { s with dram := t.dram, dramPoison := t.dramPoison, versions := t.versions, jobs := t.jobs, ether := t.ether })) ∧
    (findVersion s m ver = none → publisher s m ver = none → pkg.grids.all (fun g => gridOk g.2 && decide (g.1.val ≠ 0)) = true →
      Completes (.modelPublish m ver (some pkg)) s fun t => t = { s with versions := t.versions } ∧
        findVersion t m ver = some { versionOf m ver pkg with state := .current }) ∧
    (findVersion s m ver = some v → publisher s m ver = none → (v.state = .staged ∨ v.state = .idle) →
      Completes (.modelPublish m ver none) s fun t => t = { s with versions := t.versions } ∧
        t.versions = s.versions.map fun x =>
          if x.model ≠ m then x else if x.version = ver then { x with state := .current }
          else if x.state = .current then { x with state := if versionBound s m x.version then .retiring else .idle } else x) ∧
    (findVersion s m ver = some v → publisher s m ver = none → v.state = .current → Idles (.modelPublish m ver none) s) ∧
    (findVersion s m ver = some v → (v.state = .staged ∨ v.state = .idle) → Completes (.versionDelete m ver) s fun t =>
      findVersion t m ver = none ∧ (∀ x ∈ s.versions, (x.model ≠ m ∨ x.version ≠ ver) → x ∈ t.versions) ∧
      (∀ k, k < 32 → ∀ e ∈ (t.vat k).cave, ¬ (e.model = m ∧ e.version = ver)) ∧
      t = { s with versions := t.versions, vats := t.vats, hearths := t.hearths }) ∧
    (findVersion s m ver = none → Idles (.versionDelete m ver) s) ∧
    (findVersion s m ver = some v → v.state ≠ .staged → v.state ≠ .idle → Completes (.versionDelete m ver) s fun t =>
      t = recordOther 0 m.toNat (ver.setWidth 64) s ∧ t.versions = s.versions)

/-! ### Clears -/

/-- Clearing a block's counters (R62, R92, R239, R292, R312, R352, R402): it leaves the soot, and all of the
recorder, as it was; the stall counters survive an ARR_ clear. -/
def Obligations.ClearsLeaveSoot : Prop :=
  ∀ (h c : Fin 32) (a : Fin 2) (s : State), Serving s →
    (∀ i ∈ [Instr.stallClearArr h, .stallClearEmb h, .arrCountClear h a, .spmClearBankConflict h, .spmClearMasterConflict h, .spmClearEcc h,
        .spmClearAccess h, .drcClearTraffic c, .drcClearEcc c, .drcClearQueueHwm c, .drcClearPort, .drcClearHot, .vcdClearSes, .vcdClearEnc,
        .vcdClearDec, .sclClearGroup, .sclClearScaler, .snsClearSet, .snsClearSrc, .snsClearRx, .inpClearBkt, .schClearCave, .schClearVat,
        .bpmClearPool, .pepClear, .hqClearHwm, .hqClearCounts, .ethClearJoin, .ethClearCc, .ethClearRtp, .ethClearLink, .cpmClearPeak,
        .cpmClearTime],
      Completes i s fun t => t.recorder = s.recorder ∧ t.boot = s.boot ∧ t.power = s.power ∧ t.cfg = s.cfg ∧ t.dram = s.dram ∧ t.jobs = s.jobs ∧
        t.cmds = s.cmds ∧ t.store = s.store) ∧
    Completes (.arrCountClear h a) s fun t => ∀ g, (t.hearth g).counts = (s.hearth g).counts

/-- What each clear command clears, and that it changes nothing else (Tables 2.18, 3.12, 5.24, 8.13 and those of the
later blocks; the DRAM high-water marks read 0 until the next entry, assumption log 13). -/
def Obligations.ClearsZeroTheirCounters : Prop :=
  ∀ (h c : Fin 32) (a : Fin 2) (s : State), Serving s →
    let becomes := fun (x : Hearth) t => OnlyHearth h s t ∧ t.hearth h = x
    let x := s.hearth h
    let k := x.counts
    let chan := fun (y : Channel) (t : State) => t = { s with channels := t.channels } ∧ t.chan c = y ∧ ∀ d, d ≠ c.val → t.chan d = s.chan d
    let media := fun (m : Media) (t : State) => t = { s with media := m }
    Completes (.stallClearArr h) s (becomes { x with counts := { k with stallArr := [] } }) ∧
    Completes (.stallClearEmb h) s (becomes { x with counts := { k with stallEmb := [] } }) ∧
    Completes (.cmdHwmClear h) s (becomes { x with cmdHwm := cmdOcc s h }) ∧
    Completes (.spmClearBankConflict h) s (becomes { x with counts := { k with bankConflict := [] } }) ∧
    Completes (.spmClearMasterConflict h) s (becomes { x with counts := { k with conflict := [] } }) ∧
    Completes (.spmClearEcc h) s (becomes { x with counts := { k with eccCorr := 0, eccUncorr := 0, eccLast := 0 } }) ∧
    Completes (.spmClearAccess h) s (becomes { x with counts := { k with offAccess := 0, resDenied := 0, ctlDiscard := 0, bar4Discard := 0 } }) ∧
    (Completes (.arrCountClear h a) s fun t => OnlyHearth h s t ∧
      (t.hearth h).arr a = { x.arr a with passes := 0, fed := 0, drainRows := 0, throttle := 0, poisonRows := 0 } ∧
      (∀ b, b ≠ a.val → (t.hearth h).arr b = x.arr b) ∧ t.hearth h = { x with arrs := (t.hearth h).arrs }) ∧
    Completes (.drcClearTraffic c) s (chan { s.chan c with rowHits := 0, rowMisses := 0, readLines := 0, writeLines := 0, fwdCount := 0 }) ∧
    Completes (.drcClearEcc c) s (chan { s.chan c with eccCorr := 0, eccUncorr := 0, lastAddr := 0, lastInfo := 0 }) ∧
    Completes (.drcClearQueueHwm c) s (chan { s.chan c with wqHwm := 0, rqHwm := 0 }) ∧
    (Completes .drcClearPort s fun t => t = { s with drams := { s.drams with overdue := [], maxLat := [] } }) ∧
    (Completes .drcClearHot s fun t => t = { s with drams := { s.drams with hotEntries := 0 } }) ∧
    Completes .vcdClearSes s (media { s.media with sessions := Table.remap Session.dflt (fun _ y => { y with concealedCount := 0, pictures := 0, dropped := 0 }) s.media.sessions }) ∧
    Completes .vcdClearEnc s (media { s.media with encoders := Table.remap Encoder.dflt (fun _ y => { y with busy := 0, pictures := 0, retries := 0, fallback := 0 }) s.media.encoders }) ∧
    Completes .vcdClearDec s (media { s.media with decoders := Table.remap Decoder.dflt (fun _ y => { y with busy := 0, units := 0, stallCredit := 0, stallMem := 0 }) s.media.decoders }) ∧
    Completes .sclClearGroup s (media { s.media with groups := Table.remap GroupIn.dflt (fun _ y => { y with cropExpired := 0, badWindow := 0 }) s.media.groups }) ∧
    Completes .sclClearScaler s (media { s.media with scalers := Table.remap Scaler.dflt (fun _ y => { y with busy := 0, done := 0, outPixels := 0, invalid := 0, stallMem := 0 }) s.media.scalers }) ∧
    Completes .snsClearSet s (media { s.media with sets := Table.remap AlignSet.dflt (fun _ y => { y with blocks := 0, incomplete := 0 }) s.media.sets }) ∧
    Completes .snsClearSrc s (media { s.media with sensors := Table.remap Sensor.dflt (fun _ y => { y with completed := 0, dropped := 0, corrupt := 0, estimated := 0 }) s.media.sensors }) ∧
    Completes .snsClearRx s (media { s.media with receivers := Table.remap Receiver.dflt (fun _ y => { y with eccCorr := 0, discard := 0, crc := 0 }) s.media.receivers }) ∧
    Completes .inpClearBkt s (media { s.media with buckets := Table.remap Bucket.dflt (fun _ y => { y with short := 0, dropped := 0, lowEvents := 0, fullWait := 0 }) s.media.buckets }) ∧
    Completes .bpmClearPool s (media { s.media with pools := Table.remap Pool.dflt (fun _ y => { y with deadlocks := 0, quotaRefused := 0, badHandle := 0, waitMax := 0 }) s.media.pools }) ∧
    (Completes .schClearCave s fun t => t = { s with vats := Table.remap Vat.dflt (fun _ y => { y with evictions := 0, spilledCount := 0 }) s.vats }) ∧
    (Completes .schClearVat s fun t => t = { s with vats := Table.remap Vat.dflt (fun _ y => { y with switches := 0, deferrals := 0 }) s.vats }) ∧
    (Completes .pepClear s fun t => t = { s with pcie := { s.pcie with cplTimeout := 0, lateCpl := 0, unexpCpl := 0, poisonRx := 0, poisonTx := 0, winMiss := 0 } }) ∧
    (Completes .hqClearHwm s fun t => t = { s with pcie := { s.pcie with msgHwm := 0 } }) ∧
    (Completes .hqClearCounts s fun t => t = { s with pcie := { s.pcie with msgDropped := 0, doorbellDiscard := 0 } }) ∧
    (Completes .ethClearJoin s fun t => t = { s with ether := { s.ether with members := Table.remap Member.dflt (fun _ y => { y with retx := 0, ece := 0 }) s.ether.members } }) ∧
    (Completes .ethClearCc s fun t => t = { s with ether := { s.ether with dests := Table.remap Dest.dflt (fun _ y => { y with retx := 0 }) s.ether.dests } }) ∧
    (Completes .ethClearRtp s fun t => t = { s with ether := { s.ether with rtps := Table.remap Rtp.dflt (fun _ y => { y with lost := 0, late := 0, overflow := 0 }) s.ether.rtps } }) ∧
    (Completes .ethClearLink s fun t => t = { s with ether := { s.ether with links := Table.remap EthLink.dflt (fun _ y => { y with rxDrop := 0, rxFrames := 0, txFrames := 0, fecCorr := 0, fecUncorr := 0 }) s.ether.links } }) ∧
    (Completes .cpmClearPeak s fun t => t = { s with elec := { s.elec with peak := 0 } }) ∧
    (Completes .cpmClearTime s fun t => t = { s with elec := { s.elec with throttleUs := 0 } })

/-! ### Jobs and their commands -/

/-- Job and control commands in EXECUTING (R140, R143, R148, R165, R169, R171, R172): NOP only finishes; JOB_BEGIN
zeroes the counters and WRITTEN bits of its job where the deferred checks pass; JOB_END leaves no general hoop bound
but those saved with a suspended job; BIND_HOOP and SET_COUNTER write their hoop and counter in every hearth that
takes part; a semaphore is taken when it is free or held by the job, waited for while another job holds it, and
handed to the oldest waiter at its release. A command that is not held does nothing. Choices of the model in it:
assumption logs 45, 77, 78 and 81. -/
def Obligations.JobCommandsTakeEffect : Prop :=
  ∀ (j : Half) (q : Word) (c : Cmd) (b : Job) (s : State), clocked s = true →
    (executing s j.toNat q opNop = some c → Completes (.nop j q) s fun t =>
      t = { s with cmds := t.cmds } ∧ CmdBecomes j.toNat q { c with state := .finished } s t) ∧
    (executing s j.toNat q opJobBegin = some c → s.job j.toNat = some b →
      (∀ d ∈ jobCmds s j.toNat, ∀ n, d.deferred07 = some n → n ≤ ((boundVersion s j.toNat d.model).map (·.len)).getD 0) →
      (Completes (.jobBegin j q) s fun t => CmdBecomes j.toNat q { c with state := .finished } s t ∧
        t.job j.toNat = some { b with begun := true } ∧
        ∀ h ∈ vatHearths s b.vat, (t.hearth h).written = 0 ∧
          ∀ n, (t.hearth h).ctr n = if n ∈ jobCounters b then Ctr.dflt else (s.hearth h).ctr n) ∧
      (b.bound = [] → Completes (.jobBegin j q) s fun t => t = { s with hearths := t.hearths, jobs := t.jobs, cmds := t.cmds } ∧
        (∀ h, (t.hearth h).mem = (s.hearth h).mem) ∧ ∀ h, h ∉ vatHearths s b.vat → t.hearth h = s.hearth h)) ∧
    (executing s j.toNat q opJobEnd = some c → s.job j.toNat = some b →
      (Completes (.jobEnd j q) s fun t => findCmd t j.toNat q = some { c with state := .finished } ∧
        ∀ h ∈ vatHearths s b.vat, ∀ n, (t.hearth h).hoop n =
          if 16 ≤ n ∧ ((s.hearth h).hoop n).state ≠ .saved then Hoop.dflt else (s.hearth h).hoop n) ∧
      (heldSems s j.toNat = [] → (∀ k, (s.bkt k).curds = []) → Completes (.jobEnd j q) s fun t =>
        t = { s with hearths := t.hearths, cmds := t.cmds } ∧ CmdBecomes j.toNat q { c with state := .finished } s t ∧
        ∀ h, (t.hearth h).mem = (s.hearth h).mem)) ∧
    (executing s j.toNat q opBindHoop = some c → Completes (.bindHoop j q) s fun t => t = { s with hearths := t.hearths, cmds := t.cmds } ∧
      CmdBecomes j.toNat q { c with partsLeft := [] } s t ∧
      (∀ h ∈ c.partsLeft, (t.hearth h).hoop (c.field 17 1) = { Hoop.dflt with state := .bound, tailCtr := ctrOpt (c.field 18 1), headCtr := ctrOpt (c.field 19 1), base := c.field 20 4, size := c.field 24 4 } ∧
        ∀ n, n ≠ c.field 17 1 → (t.hearth h).hoop n = (s.hearth h).hoop n) ∧
      ∀ h, h ∉ c.partsLeft → t.hearth h = s.hearth h) ∧
    (executing s j.toNat q opSetCounter = some c → Completes (.setCounter j q) s fun t => t = { s with hearths := t.hearths, cmds := t.cmds } ∧
      CmdBecomes j.toNat q { c with partsLeft := [] } s t ∧
      (∀ h ∈ c.partsLeft, (t.hearth h).ctr (c.field 17 1) =
        { (s.hearth h).ctr (c.field 17 1) with value := BitVec.ofNat 32 (c.field 20 4), sources := 0, tag := 15 } ∧
        ∀ n, n ≠ c.field 17 1 → (t.hearth h).ctr n = (s.hearth h).ctr n) ∧
      ∀ h, h ∉ c.partsLeft → t.hearth h = s.hearth h) ∧
    (executing s j.toNat q opSemAcquire = some c →
      (semOwner s (c.field 16 1) ∈ [none, some j] → Completes (.semAcquire j q) s fun t => t = { s with sems := t.sems, cmds := t.cmds } ∧
        CmdBecomes j.toNat q { c with state := .finished } s t ∧ semOwner t (c.field 16 1) = some j ∧
        ∀ n, n ≠ c.field 16 1 → semOwner t n = semOwner s n) ∧
      (semOwner s (c.field 16 1) ∉ [none, some j] → Idles (.semAcquire j q) s)) ∧
    (executing s j.toNat q opSemRelease = some c → semOwner s (c.field 16 1) = some j →
      let w := (sortBy (·.execOrder) (s.cmds.filter (waitsSem s (c.field 16 1)))).head?
      (∀ d, w = some d → d.job.toNat ≠ j.toNat ∨ d.seq ≠ q) → Completes (.semRelease j q) s fun t =>
        semOwner t (c.field 16 1) = w.map (·.job) ∧ findCmd t j.toNat q = some { c with state := .finished } ∧
        (∀ n, n ≠ c.field 16 1 → semOwner t n = semOwner s n) ∧ t.dram = s.dram) ∧
    (findCmd s j.toNat q = none → ∀ (n : MoveTurn) (h : Fin 32) (a : ArrTurn) (w : HearthTurn) (k : KernelTurn) (e : TagTurn) (f : FetchTurn)
        (u : StartTurn) (tag : Fin 16), u.seq = q →
      ∀ i ∈ [Instr.nop j q, .jobBegin j q, .jobEnd j q, .bindHoop j q,
      .setCounter j q, .semAcquire j q, .semRelease j q, .load j q n, .store j q n, .fill j q n, .fetchTransferComplete j q tag, .gemm j q h a,
      .conv j q h a, .pool j q w, .fused j q w, .arrayPass j q, .drain j q, .kernel j q k, .curdTake j q tag, .emit j q e,
      .emitHandover j q e, .commandStart j u, .weightPrefetch j q f, .commandRetire j q], Idles i s)

/-- A command's life (R158, R160, R166, R168, R184): it starts when its job runs and the marks and earlier commands
of its queues let it, taking a ladle where it has tiles, and otherwise waits in STARTING for one; a failing start
check, or poison in what it reads, faults the job; it retires when its whole work is done, and then, where NOTIFY
asks, once the message store has room for command-complete. Choices of the model in it: assumption logs 22, 23, 24
and 30. -/
def Obligations.CommandsStartAndRetire : Prop :=
  ∀ (j : Half) (u : StartTurn) (c : Cmd) (b : Job) (p : Plan) (l a : Nat) (s : State),
    clocked s = true → s.job j.toNat = some b → findCmd s j.toNat u.seq = some c →
    let i := (startInfo b c u.touch (touchMeet u.touch s)).1
    let runs := { c with
      state := .executing, desc := i.desc, stages := i.stages, plan := i.plan, ladle := none, execOrder := s.jobOrder + 1,
      resident := residentNow s b c }
    (startable s b c = false → Idles (.commandStart j u) s) ∧
    (startable s b c = true →
      (i.poisoned = false → lowest i.reasons = 0 → i.plan = none → Completes (.commandStart j u) s fun t =>
        CmdBecomes j.toNat u.seq runs s t ∧ t.jobOrder = s.jobOrder + 1 ∧ t.jobs = s.jobs) ∧
      (i.poisoned = false → lowest i.reasons = 0 → i.plan = some p → ladlePlace s b j.toNat p = none →
        Completes (.commandStart j u) s fun t => CmdBecomes j.toNat u.seq { c with state := .starting } s t ∧ t.jobs = s.jobs) ∧
      (i.poisoned = false → lowest i.reasons = 0 → i.plan = some p → ladlePlace s b j.toNat p = some (l, a) →
        Completes (.commandStart j u) s fun t => CmdBecomes j.toNat u.seq { runs with ladle := some l } s t ∧ t.jobs = s.jobs ∧
        ∀ h, c.hearths = [h] → ((t.hearth h).ladle l).head = 0 ∧ ((t.hearth h).ladle l).tail = min p.u roundSize ∧
          ((t.hearth h).ladle l).valid = true ∧ ((t.hearth h).ladle l).bitmap = a) ∧
      (i.poisoned = false → lowest i.reasons ≠ 0 → Completes (.commandStart j u) s fun t =>
        (∃ k, t.job j.toNat = some k ∧ k.state = .tearingDown ∧ k.cause = some (0x0101, BitVec.ofNat 8 (lowest i.reasons), true)) ∧
        findCmd t j.toNat u.seq = none) ∧
      (i.poisoned = true → Completes (.commandStart j u) s fun t =>
        (∃ k, t.job j.toNat = some k ∧ k.state = .tearingDown ∧ k.cause = some (0x0102, 4, false)) ∧ findCmd t j.toNat u.seq = none)) ∧
    (jobRuns s j.toNat = false ∨ cmdDone s c = false → Idles (.commandRetire j u.seq) s) ∧
    (c.notify = true → s.store.length = 4096 → Idles (.commandRetire j u.seq) s) ∧
    (jobRuns s j.toNat = true → cmdDone s c = true → NothingFetched s →
      (c.notify = false ∨ (s.store.length < 4096 ∧ s.raised = []) → Completes (.commandRetire j u.seq) s fun t =>
        findCmd t j.toNat u.seq = none ∧ t.dram = s.dram ∧ (c.op = opJobEnd → t.job j.toNat = none)) ∧
      (c.notify = true → s.store.length < 4096 → s.raised = [] → c.op ≠ opJobEnd → c.op ≠ opCurdTake →
        Completes (.commandRetire j u.seq) s fun t => CmdGone j.toNat u.seq s t ∧
        ∃ ms, t.store = s.store ++ { qp := c.qp, cls := .kept, entry := completeEntry c } :: ms))

/-- The fetch engine, array commands and kernels (R54, R173, R174, R182, R187–R190, R192, R193, R288, R310, R313).
The engine moves as many rows as it is given and its range has left where none goes to a flue port; a row of a FILL
or a LOAD puts its bytes where NEAR and the stride say and nowhere else, and a STORE writes the row it read; the end
of a transfer comes once, after the last row, with its bump. An array takes the next index of its hearth's ladle,
runs that tile and reports it, its half of the entries changing with each tile; the cores do the same for a POOL, and
a hearth for a band of a FUSED. Passes and drains queue once. A kernel's cores start with their arguments, and a
running core does the pieces of the post-processing kernel's and the tokenizer's work. The first weight sets of a
waiting command are fetched ahead once. Choices of the model in it: assumption logs 12, 22, 23, 24 and 70. -/
def Obligations.EngineCommandsDoTheirWork : Prop :=
  ∀ (j : Half) (q : Word) (c : Cmd) (m : MoveTurn) (h : Fin 32) (w : ArrTurn) (e : HearthTurn) (f : FetchTurn) (touch : Touch)
    (tag : Fin 16) (l i n : Nat) (p : Plan) (s s1 s2 : State),
    let g := cmdHearth s c
    let a := c.near + c.moved * c.dstStride
    let one : MoveTurn := { n := 1, touch := Touch.none }
    let lands := fun (d : Nat → Byte) (t : State) => t = { s with hearths := t.hearths, cmds := t.cmds } ∧
      CmdBecomes j.toNat q { c with moved := c.moved + 1 } s t ∧
      (∀ x, Table.get 0 (t.hearth g).mem x = if a ≤ x ∧ x < a + c.rowBytes then d (x - a) else Table.get 0 (s.hearth g).mem x) ∧
      ∀ k, k ≠ g → (t.hearth k).mem = (s.hearth k).mem
    let writable := c.moved < c.rows ∧ a + c.rowBytes ≤ 0xFFC00 ∧ (∀ x, a ≤ x → x < a + c.rowBytes → writeAccess s g x (.job (some j.toNat)) = .ok)
    let moves := fun (t : State) => CmdBecomes j.toNat q { c with moved := min (c.moved + m.n) c.rows } s t
    clocked s = true →
    (c.moved ≤ c.rows → (∀ r, nearPort s c (windowAddr c.near (r * c.dstStride)) = none) →
      (executing s j.toNat q opFill = some c → Completes (.fill j q m) s moves) ∧
      (executing s j.toNat q opLoad = some c → Completes (.load j q m) s moves) ∧
      (executing s j.toNat q opStore = some c → Completes (.store j q m) s moves)) ∧
    (executing s j.toNat q opFill = some c → writable →
      Completes (.fill j q one) s (lands fun k => BitVec.ofNat 8 (c.field (16 + k % 4) 1))) ∧
    (executing s j.toNat q opLoad = some c → writable → farSpace (c.far + c.moved * c.srcStride) = 0 →
      Completes (.load j q one) s (lands fun k => byteAt (dramBytesAt s (vatDramBase s (jobVat s j.toNat) + farOffset (c.far + c.moved * c.srcStride)) c.rowBytes) k)) ∧
    (executing s j.toNat q opStore = some c → c.moved < c.rows → farSpace (c.far + c.moved * c.dstStride) = 0 →
      Completes (.store j q one) s fun t =>
        t.dram = (dramWrite (vatDramBase s (jobVat s j.toNat) + farOffset (c.far + c.moved * c.dstStride))
          (spRead g 8 j.toNat (windowAddr c.near (c.moved * c.srcStride)) c.rowBytes Touch.none s).1 s).dram ∧
        (∀ k, (t.hearth k).mem = (s.hearth k).mem) ∧ t.jobs = s.jobs) ∧
    (findCmd s j.toNat q = some c → c.state = .executing → c.op ∈ [opLoad, opStore, opFill] → jobRuns s j.toNat = true → c.partsLeft ≠ [] →
      (c.moved ≠ c.rows → Idles (.fetchTransferComplete j q tag) s) ∧
      (c.moved = c.rows → Completes (.fetchTransferComplete j q tag) s fun t => OnlyHearth g s { t with cmds := s.cmds } ∧
        CmdBecomes j.toNat q { c with partsLeft := [] } s t ∧ (c.field 44 1 < 64 → t.hearths = s.hearths) ∧
        (128 ≤ c.field 44 1 → c.field 44 1 < 192 →
          ((t.hearth g).ctr (c.field 44 1 % 64)).value = ((s.hearth g).ctr (c.field 44 1 % 64)).value + BitVec.ofNat 32 (c.field 48 4)))) ∧
    (c.ladle = some l → c.plan = some p → h.val ∈ c.hearths → (s.hearth h).state = .active →
      (olderTiles s h c = false → arrayFree s h w.a = true → nextIndex h w.a l s = (some i, s1) →
        (let u := runTile c p (tileOf c.layer p i) h w.a (stallTag w.stalls) w.touch
          (withhold h w.a w.withheld (stallArrs h w.stalls (touchMeet w.touch s1)))
         let ran := fun (t : State) => t = sendDone h l i u ∧
          ((t.hearth h).arr w.a).passes = satAdd ((s.hearth h).arr w.a).passes (tilePasses p (tileOf c.layer p i)).length ∧
          ((t.hearth h).arr w.a).half = some (c.job, c.seq, 1 - tileHalf s h w.a c)
         (executing s j.toNat q opGemm = some c → Completes (.gemm j q h w) s ran) ∧
         (executing s j.toNat q opConv = some c → Completes (.conv j q h w) s ran))) ∧
      (nextIndex h 0 l s = (some i, s1) → e.h = h → executing s j.toNat q opPool = some c → Completes (.pool j q e) s fun t =>
        (((s.hearth h).ladle l).valid = true →
          t.dones = s.dones ++ [{ src := h, ladle := l, home := ((s.hearth h).ladle l).home, index := i }]) ∧ t.jobs = s.jobs ∧
          (c.layer.wout = 0 → t = sendDone h l i (forEach e.stalls (fun c s => stallEmb h c.1 c.2 s) (touchMeet e.touch s1)))) ∧
      (∀ y d, e.h = h → olderTiles s h c = false → arrayFree s h 0 = true → arrayFree s h 1 = true →
        executing s j.toNat q opFused = some c → c.fusedStages.getLast? = some (y, d) → readyHands h c c.fusedStages s = some s2 →
        nextIndex h 0 l s2 = (some i, s1) → Completes (.fused j q e) s fun t =>
          let u := withhold h (i % 2) e.withheld (stallArrs h e.stalls (touchMeet e.touch s1))
          t = sendDone h l i (runBand c h (i % 2) (stallTag e.stalls) e.touch (bandStages u h c.fusedStages (bandRange y i)) u))) ∧
    (c.ladle = none → e.h = h → (executing s j.toNat q opGemm = some c → Idles (.gemm j q h w) s) ∧ (executing s j.toNat q opConv = some c → Idles (.conv j q h w) s) ∧
      (executing s j.toNat q opPool = some c → Idles (.pool j q e) s) ∧ (executing s j.toNat q opFused = some c → Idles (.fused j q e) s)) ∧
    (executing s j.toNat q opArrayPass = some c →
      (c.moved ≠ 0 → Idles (.arrayPass j q) s) ∧
      (c.moved = 0 → c.partsLeft.Nodup → Completes (.arrayPass j q) s fun t => t = { s with hearths := t.hearths, cmds := t.cmds } ∧
        CmdBecomes j.toNat q { c with moved := 1 } s t ∧ (∀ k, k ∉ c.partsLeft → t.hearth k = s.hearth k) ∧ ∀ k ∈ c.partsLeft,
        ((t.hearth k).arr (c.field 17 1)).queue = ((s.hearth k).arr (c.field 17 1)).queue ++ [{
          job := j, seq := q, mode := c.field 18 1 / 32, group := c.field 18 1 / 8 % 4, grid := c.field 18 1 % 8, model := c.model
          wbase := c.field 20 4, xbase := c.field 24 4, xStride := c.field 28 2, rows := c.field 30 2, accBase := c.field 32 2
          kValid := c.field 34 2, nValid := c.field 36 2, mask := if c.field 40 4 = 0xFFFFFFFF then none else some (c.field 40 4)
          wait := if 128 ≤ c.field 44 1 then some (c.field 44 1 % 64, BitVec.ofNat 32 (c.field 48 4)) else none
          acc := decide (c.opf % 2 = 1), reuse := decide (c.opf / 2 % 2 = 1), fed := [], own := none }])) ∧
    (executing s j.toNat q opDrain = some c →
      (c.moved ≠ 0 → Idles (.drain j q) s) ∧
      (c.moved = 0 → c.partsLeft.Nodup → Completes (.drain j q) s fun t => t = { s with hearths := t.hearths, cmds := t.cmds } ∧
        CmdBecomes j.toNat q { c with moved := 1 } s t ∧ (∀ k, k ∉ c.partsLeft → t.hearth k = s.hearth k) ∧ ∀ k ∈ c.partsLeft,
        ((t.hearth k).arr (c.field 17 1)).drains = ((s.hearth k).arr (c.field 17 1)).drains ++
          [{ job := j, seq := q, desc := c.desc, entryBase := c.field 24 2, count := c.field 26 2, done := 0 }])) ∧
    (executing s j.toNat q opKernel = some c →
      (h.val ∈ c.partsLeft → (s.hearth h).state = .active → (∀ x ∈ c.cores, x.1 ≠ h.val) →
        (∀ k, k < c.kernelCores → (s.core h k).run = .idle) → reserveAt s h j.toNat (c.field 44 4) = some n →
        Completes (.kernel j q { h := h, touch := touch, work := .start }) s fun t =>
        CmdBecomes j.toNat q { c with partsLeft := c.partsLeft.filter (· ≠ h.val), cores := c.cores ++ (upTo c.kernelCores).map fun k => (h.val, k) } s t ∧
        (∀ k, c.kernelCores ≤ k → t.core h k = s.core h k) ∧
        ∀ k, k < c.kernelCores → (t.core h k).run = .running ∧ (t.core h k).pc = BitVec.ofNat 32 (n + c.field 24 4) ∧
          (t.core h k).getX 10 = { v := BitVec.ofNat 32 (c.field 28 4), p := false } ∧
          (t.core h k).getX 11 = { v := (match c.ladle with | none => 0xFFFFFFFF | some l => BitVec.ofNat 32 l), p := false } ∧
          (t.core h k).getX 12 = { v := BitVec.ofNat 32 (vatIndex s h), p := false }) ∧
      (∀ x : PostTurn, kernelRuns s c h x.core = true → Completes (.kernel j q { h := h, touch := touch, work := .post x }) s fun t =>
        t = postSlot c h x touch s) ∧
      (∀ x : DictTurn, kernelRuns s c h x.core = true → Completes (.kernel j q { h := h, touch := touch, work := .dict x }) s fun t =>
        t = loadDict c h x touch s) ∧
      (∀ x : TokenTurn, kernelRuns s c h x.core = true → Completes (.kernel j q { h := h, touch := touch, work := .tokens x }) s fun t =>
        t = tokenize c h x touch s)) ∧
    (findCmd s j.toNat q = some c →
      (c.state ≠ .waiting ∨ c.prefetchOk = false ∨ f.h.val ∉ c.hearths → Idles (.weightPrefetch j q f) s) ∧
      (∀ b, s.job j.toNat = some b → c.state = .waiting → c.prefetchOk = true → c.op ∈ [opGemm, opConv, opFused] → f.h.val ∈ c.hearths →
        jobRuns s j.toNat = true → (∀ x ∈ c.prefetch, x.1 ≠ f.h.val) →
        Completes (.weightPrefetch j q f) s fun t => t.jobs = s.jobs ∧ t.dram = s.dram ∧
          ∃ ps, CmdBecomes j.toNat q { c with prefetch := c.prefetch ++ ps } s t ∧ ps.length ≤ 2 ∧ ∀ x ∈ ps, x.1 = f.h.val))

/-- Curds and records (R307, R308, R320–R322): the oldest waiting CURD_TAKE is served the lowest READY curd; a take
with a curd copies from it and is done, one slot's bytes landing at the home hearth and nowhere else; an EMIT hands
its slots over and advances HEAD when they are there and the assembler has room, and until then waits; on a hoop that
is not BOUND it hands over nothing and is recorded; a frame record fills its picture's place and gives it the EMIT's
route. Choices of the model in it: assumption logs 19, 25, 26 and 37. -/
def Obligations.CurdsAndRecordsAreDelivered : Prop :=
  ∀ (j : Half) (q : Word) (c : Cmd) (k : Curd) (bk : Fin 16) (tag : Fin 16) (u : TagTurn) (h n : Nat) (e e2 : Entry32) (s : State),
    let home := homeHearth s (jobVat s j.toNat)
    let a := c.field 20 4
    let m := if c.field 40 4 = 0 then (s.bkt c.bucket).slotBytes else c.field 40 4
    let q0 := (s.hearth h).hoop (c.field 17 1)
    clocked s = true →
    (executing s j.toNat q opCurdTake = some c → (c.partsLeft = [] ∨ takenCurd s c = none) → Idles (.curdTake j q tag) s) ∧
    (executing s j.toNat q opCurdTake = some c → c.partsLeft ≠ [] → takenCurd s c = some k →
      (Completes (.curdTake j q tag) s fun t => CmdBecomes j.toNat q { c with partsLeft := [] } s t ∧
        t = { s with hearths := t.hearths, cmds := t.cmds }) ∧
      (c.field 19 1 = 1 → bit c.entry 137 = false → c.field 32 1 < 128 → a + m ≤ 0xFFC00 →
        (∀ x, a ≤ x → x < a + m → writeAccess s home x (.job (some j.toNat)) = .ok) →
        Completes (.curdTake j q tag) s fun t =>
        (∀ x, Table.get 0 (t.hearth home).mem x = if a ≤ x ∧ x < a + m then byteAt (dramBytesAt s (slotAddr s c.bucket k.seq (c.field 18 1)) m) (x - a)
          else Table.get 0 (s.hearth home).mem x) ∧ ∀ g, g ≠ home → t.hearth g = s.hearth g)) ∧
    (s.cmds.filter (waitsCurd s bk) = [] ∨ readyCurds (s.bkt bk) = [] → Idles (.curdTakeServe bk) s) ∧
    ((sortBy (·.execOrder) (s.cmds.filter (waitsCurd s bk))).head? = some c → (readyCurds (s.bkt bk)).head? = some k →
      findCmd s c.job.toNat c.seq = some c →
      (Completes (.curdTakeServe bk) s fun t => CmdBecomes c.job.toNat c.seq { c with served := some (bk.val, k.seq) } s t ∧
        t.hearths = s.hearths ∧ t.dram = s.dram) ∧
      ((s.bkt bk).curds.filter (fun d => decide (d.seq = k.seq)) = [k] → (∀ d ∈ (s.bkt bk).curds, d.holder ≠ some c.job) →
        Completes (.curdTakeServe bk) s fun t =>
        curdOf t bk k.seq = some { k with state := .taken, holder := some c.job, takenBy := c.seq } ∧ ∀ b, b ≠ bk.val → t.bkt b = s.bkt b)) ∧
    (executing s j.toNat q opEmit = some c → c.partsLeft = [h] →
      (q0.state ≠ .bound →
        Idles (.emitHandover j q u) s ∧ Completes (.emit j q u) s fun t => OnlyRecord s { t with cmds := s.cmds } ∧
          CmdBecomes j.toNat q { c with partsLeft := [] } s t ∧ t.recorder = (record 0x0603 1 0 0 s).recorder) ∧
      (q0.state = .bound → emitReady s c h = none → Idles (.emitHandover j q u) s ∧ Completes (.emit j q u) s fun t =>
        t = { s with cmds := t.cmds } ∧ CmdBecomes j.toNat q { c with moved := if c.moved = 0 then q0.occ + 1 else c.moved } s t) ∧
      (q0.state = .bound → q0.occ < c.field 20 4 → emitReady s c h = none) ∧
      (emitReady s c h = some n → ∀ i ∈ [Instr.emit j q u, .emitHandover j q u], Completes i s fun t =>
        CmdBecomes j.toNat q { c with partsLeft := [] } s t ∧ (t.hearth h).hoop (c.field 17 1) = { q0 with head := q0.head + BitVec.ofNat 32 n } ∧
        t.jobs = s.jobs ∧ t.dram = s.dram) ∧
      (emitReady s c h = some 1 → (hoopEntries h (c.field 17 1) 1 (.job (some j.toNat)) Touch.none s).1 = [(e, false), (e2, false)] →
        bits e2 15 0 = 0 → bits e 15 0 = 0x10 → bits e 55 48 = 0 → recSource e < 272 → recOpen s (recSource e) (recTs e) = true →
        u.touch = Touch.none → ∀ i ∈ [Instr.emit j q u, .emitHandover j q u], Completes i s fun t =>
          OnlyMedia s { t with cmds := s.cmds, hearths := s.hearths } ∧
          t.asm (recSource e) = { s.asm (recSource e) with 
            waiting := modFirst (fun w => decide (w.ts = recTs e) && w.filled.isNone) (fun w => { w with
              filled := some [e], route := some (BitVec.ofNat 16 (c.field 18 2)) }) (s.asm (recSource e)).waiting } ∧
          ∀ x, x ≠ recSource e → t.asm x = s.asm x))

/-! ### The scheduler -/

/-- Dispatch, switches, kills and teardowns (R116, R118, R332, R334, R336, R338, R341): the first-ranked job that an
idle vat may take starts with the CURRENT versions, an adaptation job after its parameters have passed, or is
switched in; a switch out, once no pass is in flight, saves the job of every hearth and counts; a switch in restores
it; a job that holds a declared semaphore past the limit is torn down; a kill of a QUEUED or SUSPENDED job ends it at
once, of a running one tears it down; a teardown clears the job once, and once the scrub it waits for is done leaves
no command and no job; a cave tensor's bytes land. Choices of the model in it: assumption logs 28, 29, 45 and 81. -/
def Obligations.SchedulerMovesJobs : Prop :=
  ∀ (v : Fin 32) (w : SwitchTurn) (j : Nat) (b : Job) (c : Cmd) (x : SavedHearth) (d : Deferral) (k : Half) (s : State), clocked s = true → w.vat = v →
    let tornDown := fun (i code detail : Nat) (posted : Bool) (t : State) =>
      ∃ y, t.job i = some y ∧ y.state = .tearingDown ∧ y.cause = some (BitVec.ofNat 16 code, BitVec.ofNat 8 detail, posted) ∧ ∀ z ∈ t.cmds, z.job.toNat ≠ i
    let pick := firstRanked s v (vatTakes s v)
    (vatFree s v = false ∨ pick = none → Idles (.jobDispatch v) s) ∧
    (vatFree s v = true → pick = some (j, b) → s.job j = some b →
      (b.state = .suspended → Completes (.jobDispatch v) s fun t => t = { s with jobs := t.jobs, vats := t.vats } ∧
        t.job j = some { b with state := .switchingIn } ∧ t.vat v = { s.vat v with switchAt := s.now }) ∧
      (b.state = .queued → b.kind ≠ 1 → (∀ m ∈ b.bind, m ≠ 0xFFFF → currentVersion s m ≠ none) → findCmd s j b.beginSeq = some c →
        Completes (.jobDispatch v) s fun t => t = { s with jobs := t.jobs, cmds := t.cmds } ∧
          t.job j = some { b with state := .running, bound := (b.bind.filter (· ≠ 0xFFFF)).filterMap fun m => (currentVersion s m).map fun w => (m, w.version) } ∧
          CmdBecomes j b.beginSeq { c with state := .executing } s t) ∧
      (b.state = .queued → b.kind = 1 → (∀ m ∈ b.bind, m ≠ 0xFFFF → currentVersion s m ≠ none) → findCmd s j b.beginSeq = some c →
        let p := dramRead s (vatDramBase s b.vat + b.paramAddr.toNat % 2 ^ 40) 64
        (p.any (·.2) = false → adaptBad s (p.map (·.1)) (vatDramBytes s b.vat) = false → Completes (.jobDispatch v) s fun t =>
          CmdBecomes j b.beginSeq { c with state := .executing } s t ∧ ∃ y, t.job j = some y ∧ y.state = .running ∧
            y.adapt = some { state := .preparing, params := p.map (·.1), steps := 0, tensors := [], acts := [] }) ∧
        (p.any (·.2) = false → adaptBad s (p.map (·.1)) (vatDramBytes s b.vat) = true →
          Completes (.jobDispatch v) s (tornDown j 0x0202 0 true))) ∧
      (∀ m ∈ b.bind, b.state = .queued → m ≠ 0xFFFF → currentVersion s m = none → Completes (.jobDispatch v) s (tornDown j 0x0101 0x0F true))) ∧
    (activeJob s v = none → Idles (.semHoldLimitExpire v) s ∧ Idles (.switchOutComplete w) s ∧ Idles (.switchInComplete w) s) ∧
    (activeJob s v = some (j, b) → s.job j = some b →
      ((s.vat v).deferral = none → Idles (.semHoldLimitExpire v) s) ∧
      ((s.vat v).deferral = some d → b.state = .running →
        ((∃ i ∈ heldSems s j, ∃ y, s.job d.preemptor.toNat = some y ∧ bit y.semMask i = true) → Completes (.semHoldLimitExpire v) s fun t =>
          tornDown j 0x0105 0 true t ∧ (t.vat v).deferral = none) ∧
        (heldSems s j = [] → Idles (.semHoldLimitExpire v) s)) ∧
      (b.state ≠ .switchingOut ∨ arraysStopped s v = false → Idles (.switchOutComplete w) s) ∧
      (b.state = .switchingOut → arraysStopped s v = true → NothingFetched s → Completes (.switchOutComplete w) s fun t =>
        (∃ y, t.job j = some y ∧ y.state ∈ [.suspended, .switchingIn] ∧ y.saved.map (·.hearth) = vatHearths s v ∧ y.saveSlot ≠ none) ∧
        (t.vat v).switches = satAdd (s.vat v).switches 1) ∧
      (b.state ≠ .switchingIn → Idles (.switchInComplete w) s) ∧
      (b.state = .switchingIn → Completes (.switchInComplete w) s fun t =>
        ∃ y, t.job j = some y ∧ y.state ∈ [.running, .switchingOut] ∧ y.saved = [] ∧ y.saveSlot = none) ∧
      (b.state = .switchingIn → b.saved = [x] → Completes (.switchInComplete w) s fun t =>
        (t.hearth x.hearth).cores = x.cores ∧ (t.hearth x.hearth).ctrs = x.ctrs ∧ (t.hearth x.hearth).ladles = x.ladles ∧
        (t.hearth x.hearth).written = x.written ∧ ∀ g, g ≠ x.hearth → (t.hearth g).mem = (s.hearth g).mem ∧ (t.hearth g).cores = (s.hearth g).cores)) ∧
    (Serving s →
      let status := fun (r : Nat) => (pack 32 [(16, k.toNat), (0, r)] : Word)
      (s.job k.toNat = none → Completes (.jobKill k) s fun t => t.killStatus = status 2 ∧ t.jobs = s.jobs ∧ t.cmds = s.cmds ∧ t.hearths = s.hearths) ∧
      (s.job k.toNat = some b →
        (publishing b = true → Completes (.jobKill k) s fun t => t = { s with jobs := t.jobs, killStatus := status 3 } ∧
          t.job k.toNat = some { b with killLatched := true }) ∧
        (publishing b = false → b.state ∈ [.queued, .suspended] → Completes (.jobKill k) s fun t => t.killStatus = status 1 ∧ t.job k.toNat = none ∧
          ∀ z ∈ t.cmds, z.job ≠ k) ∧
        (publishing b = false → b.state = .tearingDown → Completes (.jobKill k) s fun t => t = { s with killStatus := status 1 }) ∧
        (publishing b = false → b.state ∈ [.running, .switchingOut, .switchingIn] → Completes (.jobKill k) s fun t =>
          t.killStatus = status 1 ∧ tornDown k.toNat 0x0103 0 false t))) ∧
    ((s.job k.toNat = none ∨ ∃ y, s.job k.toNat = some y ∧ y.state ≠ .tearingDown) → Idles (.teardownComplete k) s) ∧
    (s.job k.toNat = some b → b.state = .tearingDown → NothingFetched s → Completes (.teardownComplete k) s fun t =>
      (b.cleared = false → heldSems t k.toNat = []) ∧
      (if teardownScrubbed (if b.cleared then s else teardownClear k.toNat b s) b = true then t.job k.toNat = none ∧ ∀ z ∈ t.cmds, z.job ≠ k
       else t.job k.toNat = some { b with cleared := true })) ∧
    (∀ (m : Half) (ver : Word) (tensor : Nat) (e : CaveEntry) (w : Version) (y : CavePiece),
      (findVersion s m ver = none → Idles (.caveTensorLanded v m ver tensor) s) ∧
      ((s.vat v).cave.find? (fun e => decide (e.model = m ∧ e.version = ver)) = some e → findVersion s m ver = some w →
        (e.state ≠ .loading → Idles (.caveTensorLanded v m ver tensor) s) ∧
        (e.state = .loading → Completes (.caveTensorLanded v m ver tensor) s fun t =>
          ∃ z, (t.vat v).cave.find? (fun e => decide (e.model = m ∧ e.version = ver)) = some z ∧
            ∀ p ∈ z.pieces, p.tensor = tensor → p.landed = true) ∧
        (e.state = .loading → e.spilled = [] → e.pieces = [y] → y.tensor = tensor → y.landed = false → y.addr % 0x20000 + y.len ≤ 0x20000 → y.addr < 0x400000 →
          writeAccess s y.hearth y.addr .unchecked = .ok → Completes (.caveTensorLanded v m ver tensor) s fun t =>
            (∀ z, Table.get 0 (t.hearth y.hearth).mem z = if y.addr ≤ z ∧ z < y.addr + y.len then byteAt (dramBytesAt s (w.addr y.offset) y.len) (z - y.addr)
              else Table.get 0 (s.hearth y.hearth).mem z) ∧ OnlyHearth y.hearth s { t with vats := s.vats } ∧
            (t.vat v).cave.find? (fun e => decide (e.model = m ∧ e.version = ver)) = some { e with state := .resident, pieces := [{ y with landed := true }] })))

/-! ### Vats and reloads -/

/-- Vats and region reloads (R206–R209, R212, Tables 7.11, 7.12): ENABLE and DISABLE move or latch as the vat's state
says; START is refused while another reload runs, over a hearth on its way out, or over a locked region, and holds a
running vat; CANCEL ends a reload that has not quiesced; a failed check ends it with its result; one that passes
quiesces a vat without live jobs, waits for them, or tears them down; applying waits until the region's banks have
settled, and replaces the image. Choices of the model in it: assumption logs 43, 44, 65, 76 and 81. -/
def Obligations.VatsAndReloadsFollowTheirStates : Prop :=
  ∀ (v : Fin 32) (kill : Bool) (b : Job) (j : Nat) (s : State),
    let x := s.vat v
    let r := s.reload
    let latched := fun (l : VatLatch) (t : State) => t = { s with vats := t.vats } ∧ t.vat v = { x with latch := l } ∧ ∀ w, w ≠ v.val → t.vat w = s.vat w
    let moved := fun (y : VatState) (t : State) => t = { s with vats := t.vats } ∧ (t.vat v).state = y ∧ ∀ w, w ≠ v.val → t.vat w = s.vat w
    clocked s = true →
    let d := imageCheck s.boot s.image.raw (stagedBytes s) (some r.region)
    (Serving s →
      (x.state ∈ [.unformed, .running, .stoppingPendingEnable] → Idles (.vatEnable v) s) ∧
      (x.state ∈ [.unformed, .stopping, .stopped] → Idles (.vatDisable v) s) ∧
      (x.state = .stopping → Completes (.vatEnable v) s (moved .stoppingPendingEnable)) ∧
      (x.state = .stopped → NothingFetched s → Completes (.vatEnable v) s (moved (intoRunning s v))) ∧
      (x.state ∈ [.holding, .reloading] → Completes (.vatEnable v) s (latched .enable) ∧ Completes (.vatDisable v) s (latched .disable)) ∧
      (x.state = .stoppingPendingEnable → Completes (.vatDisable v) s (moved .stopping)) ∧
      (x.state = .running → hasLive s v = true → Completes (.vatDisable v) s (moved .stopping)) ∧
      (x.state = .running → hasLive s v = false → Completes (.vatDisable v) s (moved .stopped)) ∧
      (r.state ≠ .idle ∨ reloadBlocked s v = true → Completes (.reloadStart v kill) s fun t =>
        OnlyPost { s with cfg := t.cfg } t) ∧
      (r.state = .idle → reloadBlocked s v = false → bit s.boot.fuses.locked v = true → Completes (.reloadStart v kill) s fun t =>
        t.reload = { r with region := v, result := 4, detail := 0x0C } ∧ t.image = s.image ∧ t.vats = s.vats ∧ t.jobs = s.jobs) ∧
      (r.state = .idle → reloadBlocked s v = false → bit s.boot.fuses.locked v = false → Completes (.reloadStart v kill) s fun t =>
        t.reload = { r with state := .verifying, region := v, kill := kill, result := 0, detail := 0, startedAt := s.now } ∧ t.image = s.image ∧
        t.jobs = s.jobs ∧ t.hearths = s.hearths ∧ (x.state = .running → (t.vat v).state = .holding) ∧ (x.state ≠ .running → t.vats = s.vats)) ∧
      (r.state ∉ [.verifying, .waitingIdle] → Completes (.reloadCancel v kill) s fun t => t = { s with cfg := t.cfg }) ∧
      (r.state ∈ [.verifying, .waitingIdle] → NothingFetched s → Completes (.reloadCancel v kill) s fun t =>
        t.reload = { r with state := .idle, result := 6, detail := 0 } ∧ t.image = s.image ∧ t.cmds = s.cmds ∧
        ((s.vat r.region).state = .holding → (t.vat r.region).state = if (s.vat r.region).latch = .disable then .stopped else .running))) ∧
    (r.state ≠ .verifying → Idles .reloadVerifyComplete s) ∧
    (r.state = .verifying →
      (d ≠ 0 → NothingFetched s → Completes .reloadVerifyComplete s fun t =>
        t.reload = { r with state := .idle, result := if d = 0x0B then 3 else if d = 0x0C then 4 else 2, detail := d } ∧ t.image = s.image ∧
        t.cmds = s.cmds) ∧
      (d = 0 → hasLive s r.region = false → Completes .reloadVerifyComplete s fun t => t.reload.state = .quiescing ∧
        t.reload.staged = parseImage (stagedBytes s) ∧ t.image = s.image ∧ t.jobs = s.jobs ∧ (t.vat r.region).state =
          if (s.vat r.region).state = .unformed ∧ (regionOf (parseImage (stagedBytes s)) r.region).isNone = true then .unformed else .reloading) ∧
      (d = 0 → hasLive s r.region = true → r.kill = false → Completes .reloadVerifyComplete s fun t =>
        t = { s with reload := { r with state := .waitingIdle, staged := parseImage (stagedBytes s), verifiedAt := s.now } }) ∧
      (d = 0 → hasLive s r.region = true → r.kill = true → Completes .reloadVerifyComplete s fun t =>
        t.reload.state = .quiescing ∧ t.image = s.image ∧
        (s.jobs = [(j, some b)] → b.state = .running → b.adapt = none →
          ∃ y, t.job j = some y ∧ y.state = .tearingDown ∧ y.cause = some (0x0305, 0, false)))) ∧
    (r.state ≠ .quiescing ∨ (liveJobs s).any (fun p => decide (p.2.vat = r.region ∧ p.2.state ≠ .queued)) = true → Idles .reloadQuiesceComplete s) ∧
    (r.state = .quiescing → (liveJobs s).any (fun p => decide (p.2.vat = r.region ∧ p.2.state ≠ .queued)) = false →
      Completes .reloadQuiesceComplete s fun t => t.reload = { r with state := .applying } ∧ t.image = s.image ∧ t.jobs = s.jobs) ∧
    (r.state ≠ .applying ∨ regionSettled s r.staged r.region = false → Idles .reloadApplyComplete s) ∧
    (r.state = .applying → regionSettled s r.staged r.region = true → s.pcie.flrBusy = false → NothingFetched s → Completes .reloadApplyComplete s fun t =>
      t.image = r.staged ∧ t.reload.state = .idle ∧ t.reload.result = 1 ∧ t.reload.count = satAdd r.count 1 ∧
      (t.vat r.region).state = appliedState (s.vat r.region) (regionOf r.staged r.region).isSome ∧ (t.vat r.region).latch = .none)

/-! ### DRAM -/

/-- The channels' states (R220, R222, R223, R235–R237, R474, Table 8.5): from its scheduled cycle a window closes the
rows of every ONLINE channel and marks its requests, the next one an interval later; 160 cycles on it ends, and a
channel that was due when it began pauses for retraining; four channels fall due together; margins lost or the host
lead to a full retraining; three failed attempts fail the channel; a hot die halves the interval and cools slowly.
Choices of the model in it: assumption logs 6, 13 and 80. -/
def Obligations.ChannelsChangeState : Prop :=
  ∀ (c : Fin 32) (t0 t1 t2 t3 : BitVec 16) (r : Nat) (s : State),
    let k := s.chan c
    let only := fun (y : Channel) (t : State) => t = { s with channels := t.channels } ∧ t.chan c = y ∧ ∀ d, d ≠ c.val → t.chan d = s.chan d
    let online := fun (y : Channel) (t : State) => t = { s with channels := t.channels, drams := { s.drams with next := some (s.drams.next.getD (s.now + 3900)) } } ∧
      t.chan c = { y with state := .online, attempt := 0, winCorr := 0, latched := false }
    let failed := fun (t : State) => (t.chan c).state = .failed ∧ (t.chan c).reads = [] ∧ (t.chan c).writes = [] ∧ t.dram = s.dram ∧
      bit t.recorder.soot.channelFailed c = true ∧ ∀ d, d ≠ c.val → t.chan d = s.chan d
    let full := fun (t : State) => (t.chan c).state = .fullRetrain ∧ (t.chan c).attempt = 1 ∧ (t.chan c).winCorr = 0 ∧
      t.dram = s.dram ∧ ∀ d, d ≠ c.val → t.chan d = s.chan d
    clocked s = true →
    (s.drams.window = true ∨ s.drams.next = none ∨ (s.drams.next = some r ∧ s.now < r) → Idles .refreshWindowStart s) ∧
    (s.drams.window = false → s.drams.next = some r → r ≤ s.now → Completes .refreshWindowStart s fun t =>
      t = { s with channels := t.channels, drams := { s.drams with
        window := true, started := r, next := some (r + s.drams.interval), refCount := satAdd s.drams.refCount 1 } } ∧
      t.chan c = if k.state = .online then k.refresh r else k) ∧
    (s.drams.window = false ∨ s.now < s.drams.started + 160 → Idles .refreshWindowEnd s) ∧
    (s.drams.window = true → s.drams.started + 160 ≤ s.now → Completes .refreshWindowEnd s fun t =>
      t = { s with drams := { s.drams with window := false }, channels := t.channels } ∧
      (k.armed = true → k.state = .online → (t.chan c).state = .retraining ∧ (t.chan c).winCorr = 0 ∧ (t.chan c).since = s.now ∧
        (t.chan c).due = false ∧ ∀ q ∈ (t.chan c).reads, q.sawRetrain = true) ∧
      (k.armed = false ∨ k.state ≠ .online → t.chan c = k)) ∧
    (Completes (.retrainDue c) s fun t => t = { s with channels := t.channels } ∧
      ∀ d, d < 32 → t.chan d = if d % 8 = c.val % 8 ∧ (s.chan d).state = .online then { s.chan d with due := true } else s.chan d) ∧
    (k.state ≠ .retraining → ∀ m, Idles (.retrainPauseEnd c m) s) ∧
    (k.state = .retraining →
      (k.latched = false → Completes (.retrainPauseEnd c true) s (online { k with retrainCount := satAdd k.retrainCount 1, pauseNs := satNat 16 (s.now - k.since) })) ∧
      (k.latched = true → Completes (.retrainPauseEnd c true) s full) ∧
      (Completes (.retrainPauseEnd c false) s fun t => full t ∧ (t.chan c).retrainCount = satAdd k.retrainCount 1 ∧ t.drams = s.drams)) ∧
    (Serving s →
      (k.state = .online → Completes (.fullRetrain c) s fun t => full t ∧ t.drams = s.drams) ∧
      (k.state = .retraining → Completes (.fullRetrain c) s (only { k with latched := true })) ∧
      (k.state ∉ [.online, .retraining] → Idles (.fullRetrain c) s)) ∧
    (k.state ≠ .fullRetrain → ∀ p, Idles (.fullRetrainAttemptEnd c p) s) ∧
    (k.state = .fullRetrain →
      (k.latched = false → Completes (.fullRetrainAttemptEnd c true) s
        (online { k with retrainCount := satAdd k.retrainCount 1, fullUs := satNat 16 ((s.now - k.since) / 1000) })) ∧
      (k.latched = true → Completes (.fullRetrainAttemptEnd c true) s full) ∧
      (k.attempt < 3 → Completes (.fullRetrainAttemptEnd c false) s (only { k with attempt := k.attempt + 1 })) ∧
      (3 ≤ k.attempt → Completes (.fullRetrainAttemptEnd c false) s failed)) ∧
    (k.state ≠ .training → ∀ p, Idles (.trainingAttemptEnd c p) s) ∧
    (k.state = .training →
      (k.latched = false → Completes (.trainingAttemptEnd c true) s (online k)) ∧
      (k.latched = true → Completes (.trainingAttemptEnd c true) s full) ∧
      (k.attempt < 3 → Completes (.trainingAttemptEnd c false) s (only { k with attempt := k.attempt + 1 })) ∧
      (3 ≤ k.attempt → Completes (.trainingAttemptEnd c false) s failed)) ∧
    (Completes (.dramTempRead t0 t1 t2 t3) s fun t => t.channels = s.channels ∧ t.dram = s.dram ∧
      (∀ i, Table.get 0 t.drams.temps i = if i = 0 then t0 else if i = 1 then t1 else if i = 2 then t2 else if i = 3 then t3 else Table.get 0 s.drams.temps i) ∧
      (s.drams.hot = false → ((340 < t0.toInt ∨ 340 < t1.toInt ∨ 340 < t2.toInt ∨ 340 < t3.toInt) →
        t.drams.hot = true ∧ t.drams.interval = 1950 ∧ t.drams.hotEntries = satAdd s.drams.hotEntries 1) ∧
        (t0.toInt ≤ 340 ∧ t1.toInt ≤ 340 ∧ t2.toInt ≤ 340 ∧ t3.toInt ≤ 340 → t.drams.hot = false ∧ t.drams.interval = 3900 ∧ t.recorder = s.recorder)) ∧
      (s.drams.hot = true →
        (328 < t0.toInt ∨ 328 < t1.toInt ∨ 328 < t2.toInt ∨ 328 < t3.toInt → t.drams.hot = true ∧ t.drams.coolReads = 0) ∧
        (t0.toInt ≤ 328 ∧ t1.toInt ≤ 328 ∧ t2.toInt ≤ 328 ∧ t3.toInt ≤ 328 → (t.drams.hot = true ↔ s.drams.coolReads < 100))))

/-- Requests (R218, R219, R226–R232, R234, R237): a request comes to its channel, and enters its queue where nothing
waits before it and the queue has room; a write that enters is acknowledged, and its bytes are what a read returns,
and no others; a FAILED channel discards writes and answers reads poisoned; of one waiting read the command it needs
next issues when the timing and the fence allow it, and a write alone in its channel is written; the oldest read is
delivered 20 cycles after its column command, or 28 with an error, with its delay tag, a correction counted and an
uncorrectable line poisoned; a patrol reads the next line; an idle row closes after its limit. Choices of the model
in it: assumption logs 12, 13 and 80. -/
def Obligations.RequestsReachDram : Prop :=
  ∀ (c bank : Fin 32) (port : Fin 40) (addr : BitVec 34) (len : Fin 129) (hint : Fin 4) (bs : List Byte) (p : Bool) (r : DReq)
    (f : DFlight) (rest : List DFlight) (errs : List (Fin 4 × Fin 36 × Bool)) (s : State),
    let a := addr.toNat
    let n := min len.val (128 - a % 128)
    let k := s.chan c
    let only := fun (t : State) => t = { s with channels := t.channels } ∧ ∀ d, d ≠ c.val → t.chan d = s.chan d
    let issues := fun (t : State) => t = { s with channels := t.channels, drams := t.drams } ∧ ∀ d, d ≠ c.val → t.chan d = s.chan d
    clocked s = true →
    (chanOf a = c → k.state ≠ .failed →
      (∀ w, Completes (.dramRequest port addr len hint w p) s fun t => (t.chan c).nextId = k.nextId + 1 ∧ (t.chan c).state = k.state) ∧
      (k.router = [] → k.writes.length < 32 → Completes (.dramRequest port addr len hint (some bs) p) s fun t =>
        t = { s with channels := t.channels, dram := t.dram, dramPoison := t.dramPoison } ∧
        (∀ x, Table.get 0 t.dram x = if a ≤ x ∧ x < a + n then byteAt bs (x - a) else Table.get 0 s.dram x) ∧
        (∀ d, d ≠ c.val → t.chan d = s.chan d) ∧ (t.chan c).output.length = 1 ∧ (t.chan c).writes.length = k.writes.length + 1) ∧
      (k.router = [] → k.reads.length < 64 → Completes (.dramRequest port addr len hint none p) s fun t => only t ∧
        ∃ q : DReq, (t.chan c).reads = k.reads ++ [q] ∧ q.addr = a ∧ q.len = n ∧ q.port = port ∧ q.write = false) ∧
      (k.router = [] → k.reads.length = 64 → Completes (.dramRequest port addr len hint none p) s fun t => only t ∧
        (t.chan c).reads = k.reads ∧ (t.chan c).router.length = 1)) ∧
    (chanOf a = c → k.state = .failed →
      (Completes (.dramRequest port addr len hint (some bs) p) s fun t => (∀ x, Table.get 0 t.dram x = Table.get 0 s.dram x) ∧
        (0 < n → (t.chan c).eccUncorr = satAdd k.eccUncorr 1) ∧ ∀ d, d ≠ c.val → t.chan d = s.chan d) ∧
      Completes (.dramRequest port addr len hint none p) s fun t => only t ∧
        t.chan c = { k with output := [{ port := port, addr := a, write := false, data := dramRead s a n, tag := 15, held := 0 }] } ∧
        ∀ x ∈ dramRead s a n, x.2 = true) ∧
    (k.state ≠ .online ∨ s.drams.window = true → Idles (.dramCommandIssue c) s) ∧
    (k.state = .online → s.drams.window = false → Completes (.dramCommandIssue c) s fun t => (t.chan c).state = .online ∧ t.drams.window = false) ∧
    (k.state = .online → s.drams.window = false → k.router = [] → (k.bank (dbankOf r.addr)).holder = none → (k.bank (dbankOf r.addr)).hits < 16 →
      (k.reads = [r] → k.writes = [] → r.write = false →
      (timingOk s k r (nextCmd k r) = false → Completes (.dramCommandIssue c) s fun t => only t ∧ t.chan c = k) ∧
      (timingOk s k r (nextCmd k r) = true → fenceOk s (nextCmd k r) = false → Completes (.dramCommandIssue c) s fun t => only t ∧
        t.chan c = { k with reads := [{ r with sawRefresh := true }] }) ∧
      (timingOk s k r (nextCmd k r) = true → fenceOk s (nextCmd k r) = true →
        (nextCmd k r = .activate → Completes (.dramCommandIssue c) s fun t => only t ∧
          ((t.chan c).bank (dbankOf r.addr)).row = some (rowOf r.addr) ∧ ((t.chan c).bank (dbankOf r.addr)).act = some s.now ∧
          (t.chan c).reads = [{ r with missed := true }]) ∧
        (nextCmd k r = .precharge → Completes (.dramCommandIssue c) s fun t => only t ∧ ((t.chan c).bank (dbankOf r.addr)).row = none ∧
          ((t.chan c).bank (dbankOf r.addr)).pre = some s.now ∧ (t.chan c).reads = [r]) ∧
        (nextCmd k r = .readCol → Completes (.dramCommandIssue c) s fun t => only t ∧ (t.chan c).reads = [] ∧
          (∃ f : DFlight, (t.chan c).flight = k.flight ++ [f] ∧ f.req = r ∧ f.data = dramRead s r.addr r.len ∧ f.col = s.now) ∧
          (t.chan c).readLines = satAdd k.readLines 1))) ∧
      (k.reads = [] → k.writes = [r] → r.write = true → nextCmd k r = .writeCol → timingOk s k r .writeCol = true → fenceOk s .writeCol = true →
        Completes (.dramCommandIssue c) s fun t => issues t ∧ (t.chan c).writes = [] ∧ (t.chan c).writeLines = satAdd k.writeLines 1)) ∧
    (k.flight = [] → Idles (.dramReadDeliver c errs) s) ∧
    (k.flight = f :: rest →
      (s.now < f.col + 20 → Idles (.dramReadDeliver c errs) s) ∧
      (f.col + 28 ≤ s.now → Completes (.dramReadDeliver c errs) s fun t => (t.chan c).flight = rest) ∧
      (f.req.write = false → f.req.patrol = false → f.req.found = [] →
        (f.col + 20 ≤ s.now → Completes (.dramReadDeliver c []) s fun t => issues t ∧
          t.chan c = { k with flight := rest, output := [f.req.answer f.data (f.req.delayTag false)] }) ∧
        (∀ (b : Fin 4) (y : Fin 36), f.col + 28 ≤ s.now → f.clean = [] → f.bad = [] → k.state ≠ .failed →
          (k.winCorr < 64 → Completes (.dramReadDeliver c [(b, y, false)]) s fun t => (t.chan c).eccCorr = satAdd k.eccCorr 1 ∧
            (t.chan c).winCorr = k.winCorr + 1 ∧ t.dram = s.dram ∧
            (t.chan c).output = [f.req.answer f.data (f.req.delayTag (f.req.returns b))]) ∧
          (Completes (.dramReadDeliver c [(b, y, true)]) s fun t => (t.chan c).eccUncorr = satAdd k.eccUncorr 1 ∧
            (t.chan c).output = [f.req.answer (f.data.map (fun z => (z.1, true))) (f.req.delayTag true)])))) ∧
    (k.state ∉ [.online, .retraining, .fullRetrain] → Idles (.patrolRead c errs) s) ∧
    (k.state ∈ [.online, .retraining, .fullRetrain] → Completes (.patrolRead c errs) s fun t =>
      (t.chan c).patrol = (k.patrol + 1) % 0x400000 ∧ (t.chan c).nextId = k.nextId + 1 ∧
      (k.router = [] → k.reads.length < 64 → only t ∧ ∃ q : DReq, (t.chan c).reads = k.reads ++ [q] ∧ q.patrol = true ∧ q.addr = chanLine c k.patrol ∧ q.len = 128)) ∧
    ((k.bank bank).row = none ∨ k.state ≠ .online ∨ s.drams.window = true → Idles (.rowIdleClose c bank) s) ∧
    (∀ w, (k.bank bank).row = some w →
      ((∃ q ∈ k.requests, dbankOf q.addr = bank ∧ rowOf q.addr = w) → Idles (.rowIdleClose c bank) s) ∧
      (s.now < (k.bank bank).used + (if (k.bank bank).keep then 256 else 32) → Idles (.rowIdleClose c bank) s) ∧
      (k.state = .online → s.drams.window = false → (k.bank bank).holder = none →
        (after s.now (k.bank bank).act 33 = true ∧ after s.now (k.bank bank).read 6 = true ∧ after s.now (k.bank bank).wrEnd 16 = true) →
        (k.bank bank).used + (if (k.bank bank).keep then 256 else 32) ≤ s.now →
        (∀ q ∈ k.requests, dbankOf q.addr = bank → rowOf q.addr ≠ w) → Completes (.rowIdleClose c bank) s fun t => only t ∧
        (t.chan c).bank bank = { k.bank bank with row := none, pre := some s.now, hits := 0 } ∧ ∀ x, x ≠ bank.val → (t.chan c).bank x = k.bank x))

/-! ### Video -/

/-- Sessions and decode cores (R246–R250, R252–R254, R256, R262, R283, Tables 9.3, 9.4, 9.6), while the device serves
and its root clocks run. ENABLE opens a closed session with its registers sampled, or leaves it closed with the
reason; ENABLE and DISABLE of the other states go as Table 9.4 has them, and a session that leaves RUNNING holds no
access unit; a stop that completes closes it. A TAIL that is refused changes no session; one that is taken is TAIL,
and brings an access unit whose record has come whole. A free core takes a unit of a divided picture, else the
picture whose turn it is, whose first check either begins it or faults its session. Units are counted, and the last
one ends the picture and moves HEAD. A streamed row spends a credit that its consumption returns. ENABLE and DISABLE
of a core act or are latched. Choices of the model in it: assumption logs 16 and 82. -/
def Obligations.SessionsDecodePictures : Prop :=
  ∀ (i : Fin 256) (core : Fin 16) (k : Fin 8) (v : Word) (parse : PicParse) (p : Pic) (a : Au) (rest : List Au) (blocks : List PicBlock) (u n j m : Nat) (sj : ScJob)
    (js : List ScJob) (s : State), clocked s = true →
    let x := s.ses i
    let d := s.dec core
    let turned := fun (y : SesState) (t : State) => t = { s with media := t.media } ∧ t.ses i = { x with state := y } ∧ ∀ q, q ≠ i.val → t.ses q = s.ses q
    let turnedDec := fun (y : CoreState) (t : State) => OnlyMedia s t ∧ t.dec core = { d with state := y } ∧ ∀ q, q ≠ core.val → t.dec q = s.dec q
    let at_ := x.scan.toNat % max x.hoopSize 1
    let h := dramBytesAt s (groupBase s x.group + x.hoopBase.toNat % 2 ^ 40 / 4096 * 4096 + at_) 16
    (Serving s →
      (x.state ∈ [.running, .stoppingPendingEnable] → Idles (.sessionEnable i) s) ∧
      (x.state ∈ [.closed, .stopping] → Idles (.sessionDisable i) s) ∧
      (x.state = .stopping → Completes (.sessionEnable i) s (turned .stoppingPendingEnable)) ∧
      (x.state = .stoppingPendingEnable → Completes (.sessionDisable i) s (turned .stopping)) ∧
      (x.state = .closed → openCheck s i = 0 → Completes (.sessionEnable i) s fun t => (t.ses i).state = .running ∧ (t.ses i).cfg = cfgGet s (vcdSes i) ∧
        (t.ses i).hoopBase = cfgGet64 s (vcdSes i + 0x10) ∧ (t.ses i).head = 0 ∧ (t.ses i).tail = 0 ∧ (t.ses i).aus = [] ∧ (t.ses i).pictures = x.pictures ∧
        t.cfg = s.cfg ∧ t.dram = s.dram ∧ ∀ q, q ≠ i.val → t.ses q = s.ses q) ∧
      (x.state = .closed → openCheck s i ≠ 0 → Completes (.sessionEnable i) s fun t => t.ses i = { x with reason := BitVec.ofNat 8 (openCheck s i) } ∧
        t.dram = s.dram ∧ t.cfg = s.cfg ∧ ∀ q, q ≠ i.val → t.ses q = s.ses q) ∧
      (x.state = .faulted → (Completes (.sessionEnable i) s fun t => (t.ses i).state = .stoppingPendingEnable ∧ (t.ses i).aus = [] ∧ t.dram = s.dram) ∧
        Completes (.sessionDisable i) s fun t => (t.ses i).state = .stopping ∧ (t.ses i).aus = [] ∧ t.dram = s.dram) ∧
      (x.state = .running → Completes (.sessionDisable i) s fun t => (t.ses i).state = .stopping ∧ (t.ses i).aus = [] ∧ t.dram = s.dram ∧ t.jobs = s.jobs) ∧
      (bits x.cfg 25 24 ≠ 1 → Completes (.sessionTailWrite i v) s fun t => t = recordWrite (vcdSes i + 0x20) v s) ∧
      (bits x.cfg 25 24 = 1 → v.toNat % 64 ≠ 0 ∨ x.hoopSize < (v - x.head).toNat → Completes (.sessionTailWrite i v) s fun t =>
        t = record 0x0802 1 i (v.setWidth 64) s ∧ t.ses i = x) ∧
      (bits x.cfg 25 24 = 1 → v.toNat % 64 = 0 → (v - x.head).toNat ≤ x.hoopSize →
        (Completes (.sessionTailWrite i v) s fun t => (t.ses i).tail = v ∧ t.dram = s.dram) ∧
        ((v - x.scan).toNat < 16 → Completes (.sessionTailWrite i v) s fun t => OnlyMedia s t ∧ t.ses i = { x with tail := v }) ∧
        (∀ c, x.state = .running → x.windows = [] → fieldAt h 0 4 ≠ 0xFFFFFFFF → (v - x.scan).toNat = cdiv (16 + fieldAt h 0 4) 64 * 64 → classOf s x.cls = some c →
          2 * fieldAt h 0 4 ≤ 375 * c.maxKbps → 1 ≤ 3 * c.maxFps / 2 → Completes (.sessionTailWrite i v) s fun t => OnlyMedia s t ∧ (t.ses i).scan = v ∧
            ∃ y, (t.ses i).aus = x.aus ++ [y] ∧ y.len = fieldAt h 0 4 ∧ y.ts = BitVec.ofNat 64 (fieldAt h 4 8) ∧ y.pos = x.scan))) ∧
    (x.state ∉ [.stopping, .stoppingPendingEnable] ∨ x.pic ≠ none → Idles (.sessionStopComplete i) s) ∧
    (x.state = .stopping → x.pic = none → Completes (.sessionStopComplete i) s fun t => (t.ses i).state = .closed ∧ (t.ses i).head = 0 ∧ (t.ses i).tail = 0 ∧
      (t.ses i).aus = [] ∧ (t.ses i).dpb = [] ∧ t.dram = s.dram) ∧
    (x.state = .stoppingPendingEnable → x.pic = none → Completes (.sessionStopComplete i) s fun t =>
      (t.ses i).state ∈ [.running, .closed] ∧ (t.ses i).aus = [] ∧ t.dram = s.dram) ∧
    (d.state ≠ .idle → Idles (.decodeClaim core parse) s) ∧
    (splitWork s d.group = none → nextSession s d.group = none → Idles (.decodeClaim core parse) s) ∧
    (d.state = .idle → splitWork s d.group = some j → (s.ses j).pic = some p → Completes (.decodeClaim core parse) s fun t => OnlyMedia s t ∧
      t.dec core = { d with state := .busy, work := some (j, p.given) } ∧ (t.ses j).pic = some { p with given := p.given + 1 }) ∧
    (d.state = .idle → splitWork s d.group = none → nextSession s d.group = some j → (s.ses j).pic = some p →
      Completes (.decodeClaim core parse) s fun t => OnlyMedia s t ∧ t.dec core = { d with state := .busy, work := some (j, p.given) } ∧
        (t.ses j).pic = some { p with stage := .decoding, given := p.given + 1 }) ∧
    (d.state = .idle → splitWork s d.group = none → nextSession s d.group = some j → (s.ses j).pic = none → (s.ses j).aus = a :: rest →
      (spsCheck s (s.ses j) parse = 0 → parse.nonRef = false → parse.refs = [] → Completes (.decodeClaim core parse) s fun t => OnlyMedia s t ∧
        t.dec core = { d with state := .busy, work := some (j, 0) } ∧ (t.ses j).aus = rest ∧
        ∃ y, (t.ses j).pic = some y ∧ y.au = a ∧ y.stage = .needBuf ∧ y.given = 1 ∧ y.done = 0 ∧ y.handle = none) ∧
      (spsCheck s (s.ses j) parse ≠ 0 → (s.ses j).state = .running → Completes (.decodeClaim core parse) s fun t => (t.ses j).state = .faulted ∧
        (t.ses j).reason = BitVec.ofNat 8 (spsCheck s (s.ses j) parse) ∧ (t.ses j).aus = rest ∧ t.dec core = d)) ∧
    (d.work = none → Idles (.decodeUnitComplete core blocks n) s ∧ Idles (.streamedRow core blocks n) s) ∧
    (d.work = some (j, u) → (s.ses j).pic = some p →
      (p.stage ≠ .decoding → Idles (.decodeUnitComplete core blocks n) s) ∧
      (p.stage = .decoding → Completes (.decodeUnitComplete core blocks n) s fun t => (t.dec core).work = none ∧
        (t.dec core).units = satAdd d.units 1 ∧ (t.dec core).stallMem = satAdd d.stallMem n) ∧
      (p.stage = .decoding → p.done + 1 < picUnits (s.ses j) p → d.leaving = false → d.state = .busy → (s.ses j).state = .running → Completes (.decodeUnitComplete core [] n) s fun t => OnlyMedia s t ∧
        (let q := unitCost (s.ses j) p u
         t.dec core = { d with state := .idle, work := none, units := satAdd d.units 1, stallMem := satAdd d.stallMem n, busy := satAdd d.busy (max q.1 ((q.2 + 1) / 2) + (if core.val ∈ p.cores then 0 else 2000) + n) }) ∧
        (t.ses j).pic = some { p with done := p.done + 1, cores := core.val :: p.cores } ∧ (t.ses j).pictures = (s.ses j).pictures) ∧
      (p.stage = .decoding → picUnits (s.ses j) p ≤ p.done + 1 → Completes (.decodeUnitComplete core [] n) s fun t => (t.ses j).pic = none ∧
        (t.ses j).pictures = satAdd (s.ses j).pictures 1 ∧ ((s.ses j).state ≠ .faulted → (t.ses j).head = p.au.pos + BitVec.ofNat 32 p.au.padded) ∧
        (t.dec core).units = satAdd d.units 1 ∧ t.dram = s.dram) ∧
      (p.scaler = none → Idles (.streamedRow core blocks n) s) ∧
      (p.scaler = some m → streamJob s m j p.au.ts = some sj →
        (sj.credits = 0 → Idles (.streamedRow core blocks n) s) ∧
        (0 < sj.credits → Completes (.streamedRow core blocks n) s fun t => OnlyMedia s { t with dram := s.dram, dramPoison := s.dramPoison, channels := s.channels } ∧
          t.dec core = { d with stallCredit := satAdd d.stallCredit n, busy := satAdd d.busy n }) ∧
        (0 < sj.credits → Completes (.streamedRow core [] n) s fun t => OnlyMedia s t ∧ streamJob t m j p.au.ts = some { sj with credits := sj.credits - 1, queued := sj.queued + 1 } ∧
          t.dec core = { d with stallCredit := satAdd d.stallCredit n, busy := satAdd d.busy n }))) ∧
    Completes (.scalerRowCredit k) s (OnlyMedia s) ∧
    (((s.scl k).jobs.filter (fun y => decide (y.kind = .streamed ∧ 0 < y.queued)) = []) → Completes (.scalerRowCredit k) s fun t => OnlyMedia s t ∧ t.scl k = s.scl k) ∧
    ((s.scl k).jobs = sj :: js → sj.kind = .streamed → 0 < sj.queued → Completes (.scalerRowCredit k) s fun t => OnlyMedia s t ∧
      t.scl k = { s.scl k with jobs := { sj with queued := sj.queued - 1, credits := sj.credits + 1 } :: js } ∧ ∀ q, q ≠ k.val → t.scl q = s.scl q) ∧
    (Serving s →
      Completes (.decoderEnable core) s (turnedDec (if d.state = .disabled then .idle else if d.state = .stopping then .stoppingPendingEnable else d.state)) ∧
      Completes (.decoderDisable core) s (turnedDec (if d.state = .idle then .disabled else if d.state = .busy ∨ d.state = .stoppingPendingEnable then .stopping else d.state)))

/-- Encode cores (R263, R265–R267, R330), while the root clocks run: ENABLE and DISABLE act or are latched, and an
enabled core takes the one waiting picture; an attempt is one busy time of R265 on the core that holds a picture, and
nothing without one. For the one picture of one request: an attempt over budget is tried again with a coarser
quantiser, then by the fallback; a clip's picture that fits, at a fixed quantiser, is written at DST and counted; one
that does not fit in what is left ends its request. Choices of the model in it: assumption logs 16 and 82. -/
def Obligations.EncodersFollowTheirBudget : Prop :=
  ∀ (e : Fin 4) (qp : Nat) (data : List Byte) (r : MediaReq) (p : EncPic) (ps : List EncPic) (s : State), clocked s = true →
    let x := s.enc e
    let turned := fun (y : CoreState) (t : State) => OnlyMedia s t ∧ t.enc e = { x with state := y } ∧ ∀ q, q ≠ e.val → t.enc q = s.enc q
    let q := if p.tries = 0 then min (max qp (encQpMin r.params)) (encQpMax r.params) else p.qp
    let work := satAdd x.busy (2 * (encWidth r.params * encHeight r.params) + 2000)
    (Serving s →
      (s.media.requests = [] → Completes (.encoderEnable e) s (turned (if x.state = .disabled then .idle else if x.state = .stopping then .stoppingPendingEnable else x.state))) ∧
      (s.media.requests = [r] → r.core = none → r.queue = [p] → x.state = .disabled → (∀ f, f < 4 → f ≠ e.val → (s.enc f).state ≠ .idle) →
        Completes (.encoderEnable e) s fun t => turned .busy t ∧ t.media.requests = [{ r with core := some e.val }]) ∧
      Completes (.encoderDisable e) s (turned (if x.state = .idle then .disabled else if x.state = .busy ∨ x.state = .stoppingPendingEnable then .stopping else x.state))) ∧
    ((∀ y ∈ s.media.requests, y.core ≠ some e.val) → Idles (.encodeAttemptComplete e qp data) s) ∧
    (s.media.requests.find? (fun y => decide (y.core = some e.val)) = some r → r.queue = p :: ps →
      (p.fallback = false ∨ 8 * data.length ≤ (if p.idr then 4 else 1) * encUnits r.params + 2048) →
      Completes (.encodeAttemptComplete e qp data) s fun t => (t.enc e).busy = work) ∧
    (s.media.requests = [r] → r.core = some e.val → r.queue = [p] →
      (encCodec r.params ≠ 2 → encMode r.params ≠ 0 → p.fallback = false → r.f90 < 720 * data.length →
        (p.tries < 2 → q < encQpMax r.params → Completes (.encodeAttemptComplete e qp data) s fun t => OnlyMedia s t ∧
          t.enc e = { x with busy := work, retries := satAdd x.retries 1 } ∧
          t.media.requests = [{ r with queue := [{ p with tries := p.tries + 1, qp := min (q + 6) (encQpMax r.params) }] }]) ∧
        (2 ≤ p.tries ∨ encQpMax r.params ≤ q → Completes (.encodeAttemptComplete e qp data) s fun t => OnlyMedia s t ∧ t.enc e = { x with busy := work } ∧
          t.media.requests = [{ r with queue := [{ p with fallback := true }] }])) ∧
      (encCodec r.params ≠ 2 → encMode r.params = 0 → r.clip = true → r.state = .recording → r.bytes + data.length ≤ r.dstBytes → x.state = .busy →
        Completes (.encodeAttemptComplete e qp data) s fun t => t.enc e = { x with busy := work, pictures := satAdd x.pictures 1, state := .idle } ∧
          t.dram = (dramPut (groupBase s (s.ses r.ses).group + (r.dst.toNat + r.bytes)) data s).dram ∧
          t.media.requests = [{ r with bytes := r.bytes + data.length, pictures := r.pictures + 1, lastTs := p.ts, firstTs := (if r.pictures = 0 then p.ts else r.firstTs), queue := [], core := none }]) ∧
      (encCodec r.params ≠ 2 → encMode r.params = 0 → r.cand = none → r.dstBytes < r.bytes + data.length → x.state = .busy →
        Completes (.encodeAttemptComplete e qp data) s fun t => t.media.requests = [] ∧ t.dram = s.dram ∧ (t.enc e).state = .idle ∧ (t.enc e).pictures = x.pictures))

/-- Scalers and crop rings (R271, R272, R281, R282–R285, R291), while the device serves and its root clocks run. A
commit copies the staged program or answers the failed check; ENABLE and DISABLE of a scaler act or are latched; a
crop ring's size is fixed while it is enabled. A scaler starts the oldest job it holds or takes the group's oldest
ready picture, which ends at once without a binding and starts with no slot where its program has no output; a job
that may end counts its time, its end and its pixels, and the last one frees the scaler; a ready entry of the crop
ring whose source is gone is taken as an expired job; a hold runs out once. Choices of the model in it: assumption
logs 17, 20 and 82. -/
def Obligations.ScalersRunJobs : Prop :=
  ∀ (k : Fin 8) (g : Fin 32) (src : Fin 272) (jb : Fin 4) (v : Word) (n : Nat) (ts : DWord) (j : ScJob) (rest : List ScJob) (h : Word) (s : State),
    clocked s = true →
    let c := s.scl k
    let x := s.grp g
    let off := sclBase + 0x408 + 0x20 * g
    let turned := fun (y : CoreState) (t : State) => OnlyMedia s t ∧ t.scl k = { c with state := y } ∧ ∀ q, q ≠ k.val → t.scl q = s.scl q
    let noStreams := ∀ q, (s.ses q).pic = none
    let t400 := 400 + max (cdiv (jobIn j) 4) (cdiv (jobOutPixels j) 2) + n
    (Serving s →
      (bit v 31 = false → Completes (.progCommit v) s fun t => t = { s with cfg := t.cfg } ∧ cfgGet t (sclBase + 0x200) = BitVec.ofNat 32 (bits v 5 0)) ∧
      (bit v 31 = true → progCheck (stagedProg s) = 0 → Completes (.progCommit v) s fun t => OnlyMedia { s with cfg := t.cfg } t ∧
        program t (bits v 5 0) = stagedProg s ∧ t.media.progStatus = pack 32 [(16, bits v 5 0), (8, 1)] ∧ ∀ i, i ≠ bits v 5 0 → program t i = program s i) ∧
      (bit v 31 = true → progCheck (stagedProg s) ≠ 0 → Completes (.progCommit v) s fun t => t.media.programs = s.media.programs ∧
        t.media.progStatus = pack 32 [(16, bits v 5 0), (8, 2), (0, progCheck (stagedProg s))] ∧ t.dram = s.dram) ∧
      (Completes (.scalerEnable k) s fun t => t.dram = s.dram ∧ t.cfg = s.cfg) ∧
      (noStreams → Completes (.scalerEnable k) s (turned (if c.state = .disabled then .idle else if c.state = .stopping then .stoppingPendingEnable else c.state))) ∧
      Completes (.scalerDisable k) s (turned (if c.state = .idle then .disabled else if c.state = .busy ∨ c.state = .stoppingPendingEnable then .stopping else c.state)) ∧
      (x.cropOn = false →
        (bits v 3 0 < 4 ∨ 12 < bits v 3 0 → Completes (.cropRingEnable g v) s fun t => t = recordWrite off (setBits v 31 31 1) s ∧ t.grp g = x) ∧
        (4 ≤ bits v 3 0 → bits v 3 0 ≤ 12 → Completes (.cropRingEnable g v) s fun t => OnlyMedia { s with cfg := t.cfg } t ∧
          t.grp g = { x with cropOn := true, cropLog2 := bits v 3 0, cropHead := 0, cropBase := cfgGet64 s (sclBase + 0x400 + 0x20 * g) } ∧ bit (cfgGet t off) 31 = true) ∧
        (Completes (.cropRingDisable g v) s fun t => t = { s with cfg := t.cfg } ∧ cfgGet t off = BitVec.ofNat 32 (bits v 3 0))) ∧
      (x.cropOn = true →
        (bits v 3 0 = x.cropLog2 → Idles (.cropRingEnable g v) s ∧ Completes (.cropRingDisable g v) s fun t => OnlyMedia { s with cfg := t.cfg } t ∧
          t.grp g = { x with cropOn := false } ∧ bit (cfgGet t off) 31 = false) ∧
        (bits v 3 0 ≠ x.cropLog2 → Completes (.cropRingEnable g v) s fun t => t = recordWrite off (setBits v 31 31 1) s ∧ t.grp g = x))) ∧
    (Completes (.scalerJobStart k) s fun t => t.dram = s.dram ∧ t.cfg = s.cfg) ∧
    (Completes (.cropRingPoll k) s fun t => t.dram = s.dram ∧ t.cfg = s.cfg) ∧
    (Completes (.cropHoldExpire src ts) s fun t => t.dram = s.dram ∧ t.media.holds = s.media.holds.erase (src.val, ts)) ∧
    (c.jobs[jb.val]? = some j → j.started = true → (if j.kind = .streamed then j.complete = true ∧ j.queued = 0 else olderJob c jb j = false) →
      Completes (.scalerJobComplete k jb n) s fun t => (t.scl k).done = satAdd c.done 1 ∧ (t.scl k).busy = satAdd c.busy t400 ∧
        (t.scl k).outPixels = satAdd c.outPixels (jobOutPixels j) ∧ (t.scl k).stallMem = satAdd c.stallMem n) ∧
    (c.jobs = [] → (s.grp c.group).ready = [] → Idles (.scalerJobStart k) s) ∧
    (c.jobs = [] → c.state ∉ [.idle, .busy] → Idles (.scalerJobStart k) s) ∧
    (c.jobs = [] → c.state = .idle → (s.grp c.group).ready = j :: rest → j.started = false → j.crop = none → j.pix = .nothing →
      (bindingOf s j.source = none → noStreams → c.leaving = false → Completes (.scalerJobStart k) s fun t => OnlyMedia s t ∧
        t.scl k = c ∧ (t.grp c.group).ready = rest) ∧
      (∀ i, bindingOf s j.source = some i → progOutputs (program s i) = 0 → j.waitAt = none → Completes (.scalerJobStart k) s fun t => OnlyMedia s t ∧
        t.scl k = { c with state := .busy, jobs := [{ j with prog := program s i, started := true, slots := [] }] } ∧ (t.grp c.group).ready = rest)) ∧
    ((c.jobs[jb.val]? = none ∨ ∃ y, c.jobs[jb.val]? = some y ∧ (y.started = false ∨
      (if y.kind = .streamed then y.complete = false ∨ 0 < y.queued else olderJob c jb y = true))) → Idles (.scalerJobComplete k jb n) s) ∧
    (jb = 0 → c.jobs = [j] → j.started = true → j.kind = .whole → j.slots = [] → j.pix = .nothing → noStreams → (s.grp c.group).cropOn = false → c.leaving = false → c.state = .busy →
      Completes (.scalerJobComplete k jb n) s fun t => OnlyMedia s t ∧
        t.scl k = { c with state := .idle, jobs := [], busy := satAdd c.busy t400, done := satAdd c.done 1, outPixels := satAdd c.outPixels (jobOutPixels j), stallMem := satAdd c.stallMem n }) ∧
    ((s.grp c.group).cropOn = false ∨ c.state ∉ [.idle, .busy] ∨ 4 ≤ c.jobs.length → Idles (.cropRingPoll k) s) ∧
    (let y := s.grp c.group
     let e := dramBytesAt s (groupBase s c.group + y.cropBase.toNat % 2 ^ 40 / 4096 * 4096 + y.cropHead.toNat % 2 ^ y.cropLog2 * 32) 32
     (fieldAt e 0 4 ≠ y.cropHead.toNat → Idles (.cropRingPoll k) s) ∧
     (y.cropOn = true → c.state ∈ [.idle, .busy] → c.jobs.length = 3 → fieldAt e 0 4 = y.cropHead.toNat → 272 ≤ fieldAt e 4 2 → 64 ≤ fieldAt e 6 1 →
       Completes (.cropRingPoll k) s fun t => OnlyMedia s t ∧ (t.grp c.group).cropHead = y.cropHead + 1 ∧ (t.grp c.group).cropExpired = satAdd y.cropExpired 1 ∧
         (t.scl k).jobs.length = 4 ∧ (t.scl k).state = .busy)) ∧
    ((src.val, ts) ∉ s.media.holds → Idles (.cropHoldExpire src ts) s) ∧
    ((src.val, ts) ∈ s.media.holds →
      (src.val < 256 → findHeld s src ts = none → Completes (.cropHoldExpire src ts) s fun t => t = { s with media := { s.media with holds := s.media.holds.erase (src.val, ts) } }) ∧
      (src.val < 256 → findHeld s src ts = some h → handleOk s (handleGroup h) h = true → 2 ≤ (s.buffer h).use → Completes (.cropHoldExpire src ts) s fun t =>
        OnlyMedia s t ∧ t.buffer h = { s.buffer h with use := (s.buffer h).use - 1 } ∧ t.media.holds = s.media.holds.erase (src.val, ts)) ∧
      (256 ≤ src.val → Completes (.cropHoldExpire src ts) s fun t => OnlyMedia s t ∧ (∀ f ∈ (t.sns (src.val - 256)).frames, f.ts = ts → f.hold = false ∧ 0 < f.jobs)))

/-! ### Sensors and buckets -/

/-- Receivers and frames (R293–R300, R311), while the CSI-2 ports are powered. A disabled receiver does nothing; an
enabled one stores, discards or counts a packet by its header check, type, virtual channel and source, and keeps
every source's state. Frame End leaves no frame in progress and Frame Start begins the new one, dropped whole where
its hoop slot is in use. A frame that ends with a timestamp later than the last, fewer than 256 waiting records and
no crop hold becomes a job and a placeholder with its timestamp, estimate and corrupt marks; one without a later
timestamp is dropped. Choices of the model in it: assumption log 18. -/
def Obligations.ReceiversBuildFrames : Prop :=
  ∀ (i : Fin 16) (rc : Fin 4) (v u : BitVec 4) (hs vcx : Bool) (n : Half) (dt : BitVec 6) (d e : List Byte) (f : Incoming) (l : DWord) (h : List (Half × DWord)) (ecc : HeaderEcc)
    (crc : Bool) (s : State), portsPowered s = true →
    let x := s.sns i
    let r := i.val / 4
    let rx := s.rcv r
    let onlySns := fun (y : Sensor) (t : State) => t = { s with media := { s.media with sensors := t.media.sensors } } ∧ t.sns i = y ∧ ∀ q, q ≠ i.val → t.sns q = s.sns q
    let onlyRcv := fun (q : Nat) (y : Receiver) (t : State) => t = { s with media := { s.media with receivers := t.media.receivers } } ∧ t.rcv q = y ∧ ∀ p, p ≠ q → t.rcv p = s.rcv p
    let discarded := onlyRcv r { rx with discard := satAdd rx.discard 1 }
    let spoiled := fun (t : State) => t.rcv r = { rx with discard := satAdd rx.discard 1 } ∧ t.dram = s.dram ∧
      ∀ q, t.sns q = if q / 4 = r then { s.sns q with incoming := (s.sns q).incoming.map (fun f => { f with corrupt := true }) } else s.sns q
    let next := fun (b : Bool) => some { slot := x.nextSlot, number := n, dropped := b, corrupt := false, embedded := none, lines := 0 }
    let used := ∃ y ∈ x.frames, y.slot = x.nextSlot
    let ended := fun (c est : Bool) (ts : DWord) (t : State) => (t.sns i).lastTs = some ts ∧ (t.sns i).history = ((f.number, ts) :: x.history).take 16 ∧
      (t.sns i).completed = satAdd x.completed 1 ∧ (t.sns i).corrupt = (if c then satAdd x.corrupt 1 else x.corrupt) ∧
      (t.sns i).estimated = (if est then satAdd x.estimated 1 else x.estimated) ∧ (t.sns i).nextSlot = (f.slot + 1) % max x.frameCount 1 ∧
      (t.sns i).frames = x.frames ++ [{ slot := f.slot, number := f.number, ts := ts, estimated := est, corrupt := c, jobs := 1, hold := false }] ∧
      (∃ j, (t.grp x.group).ready = (s.grp x.group).ready ++ [j] ∧ j.source = 256 + i.val ∧ j.ts = ts ∧ j.pix = .frame f.slot ∧ j.failed = c ∧ j.started = false) ∧
      ∃ w, (t.asm (256 + i.val)).waiting = (s.asm (256 + i.val)).waiting ++ [w] ∧ w.ts = ts ∧ w.filled = none ∧ w.estimated = est
    let fits := fun (ts : DWord) => (∀ y, x.lastTs = some y → y.toNat < ts.toNat) ∧ (s.asm (256 + i.val)).waiting.length < 256 ∧ holdMs s x.group = 0
    let bad := f.corrupt || decide (f.lines ≠ x.height)
    Completes (.dphyLaneStateChange rc v u hs) s (onlyRcv rc { s.rcv rc with stop := v, ulps := u, hs := hs }) ∧
    Completes (.csiLongPacket i vcx dt ecc crc d) s (fun t => t.cfg = s.cfg ∧ ∀ q, (t.sns q).state = (s.sns q).state) ∧
    Completes (.csiShortPacket i vcx dt ecc) s (fun t => t.cfg = s.cfg ∧ t.dram = s.dram ∧ ∀ q, (t.sns q).state = (s.sns q).state) ∧
    (rxEnabled s r = true → x.state = .running →
      (Completes (.csiFrameStart i n) s fun t => ∃ y, (t.sns i).incoming = some y ∧ y.number = n ∧ y.slot = (t.sns i).nextSlot) ∧
      Completes (.csiFrameEnd i n) s fun t => (t.sns i).incoming = none) ∧
    (rxEnabled s r = false → Idles (.csiFrameStart i n) s ∧ Idles (.csiFrameEnd i n) s ∧ (∀ q, Idles (.csiLongPacket i vcx dt q true d) s) ∧ ∀ q, Idles (.csiShortPacket i vcx dt q) s) ∧
    (rxEnabled s r = true →
      (x.state ≠ .running → Completes (.csiFrameStart i n) s discarded ∧ Completes (.csiFrameEnd i n) s discarded) ∧
      Completes (.csiLongPacket i vcx dt .bad true d) s spoiled ∧ Completes (.csiShortPacket i vcx dt .bad) s spoiled ∧
      (vcx = true ∨ x.state ≠ .running ∨ x.incoming = none ∨ isPixelType dt.toNat = false ∧ dt ≠ 0x12 → Completes (.csiLongPacket i vcx dt .clean true d) s discarded ∧
        Completes (.csiLongPacket i vcx dt .corrected true d) s (onlyRcv r { rx with discard := satAdd rx.discard 1, eccCorr := satAdd rx.eccCorr 1 })) ∧
      (vcx = true ∨ x.state ≠ .running ∨ dt ≠ 2 ∧ dt ≠ 3 → Completes (.csiShortPacket i vcx dt .clean) s discarded) ∧
      (vcx = false → x.state = .running → dt = 2 ∨ dt = 3 → Idles (.csiShortPacket i vcx dt .clean) s ∧
        Completes (.csiShortPacket i vcx dt .corrected) s (onlyRcv r { rx with eccCorr := satAdd rx.eccCorr 1 })) ∧
      (vcx = false → x.state = .running → x.incoming = some f →
        (f.dropped = true → isPixelType dt.toNat = true → Idles (.csiLongPacket i vcx dt .clean true d) s) ∧
        (f.dropped = false →
          (dt = 0x12 → Completes (.csiLongPacket i vcx dt .clean true d) s (onlySns { x with incoming := some { f with embedded := some (f.embedded.getD (d.take 256)) } }) ∧
            Completes (.csiLongPacket i vcx dt .clean false d) s fun t => t.rcv r = { rx with crc := satAdd rx.crc 1 } ∧
              t.sns i = { x with incoming := some { f with corrupt := true, embedded := some (f.embedded.getD (d.take 256)) } }) ∧
          (isPixelType dt.toNat = true → dt.toNat = x.dataType → d.length = lineBytes dt.toNat x.width → f.lines < x.height → Completes (.csiLongPacket i vcx dt .clean true d) s fun t =>
            t.sns i = { x with incoming := some { f with lines := f.lines + 1 } } ∧
              t.dram = (dramPut (frameAddr s i f.slot + 256 + f.lines * x.pitch) (storeLine dt.toNat x.width d) s).dram) ∧
          (isPixelType dt.toNat = true → dt.toNat ≠ x.dataType ∨ d.length ≠ lineBytes dt.toNat x.width →
            Completes (.csiLongPacket i vcx dt .clean true d) s (onlySns { x with incoming := some { f with lines := f.lines + 1, corrupt := true } })))) ∧
      (x.state = .running →
        (x.incoming = none ∨ (∃ y, x.incoming = some y ∧ y.dropped = true) →
          (used → Completes (.csiFrameStart i n) s (onlySns { x with dropped := satAdd x.dropped 1, incoming := next true })) ∧
          (¬ used → Completes (.csiFrameStart i n) s (onlySns { x with incoming := next false }))) ∧
        (x.incoming = none → Idles (.csiFrameEnd i n) s) ∧
        (x.incoming = some f → f.dropped = true → Completes (.csiFrameEnd i n) s (onlySns { x with incoming := none })) ∧
        (x.incoming = some f → f.dropped = false →
          (bits x.cfg 31 30 ≠ 1 → f.embedded = none → x.lastTs = some l →
            ((l + BitVec.ofNat 64 x.period).toNat ≤ l.toNat → Completes (.csiFrameEnd i n) s (onlySns { x with incoming := none, dropped := satAdd x.dropped 1 })) ∧
            (fits (l + BitVec.ofNat 64 x.period) →
              (Completes (.csiFrameEnd i n) s fun t => ended bad true (l + BitVec.ofNat 64 x.period) t ∧ (t.sns i).incoming = none) ∧
              Completes (.csiFrameStart i n) s fun t => ended true true (l + BitVec.ofNat 64 x.period) t ∧ ∃ y, (t.sns i).incoming = some y ∧ y.number = n)) ∧
          (bits x.cfg 31 30 ≠ 1 → f.embedded = some e →
            let ts := BitVec.ofNat 64 ((embeddedCount x e).1 * 90000 / max x.tsHz 1)
            fits ts → Completes (.csiFrameEnd i n) s fun t => ended bad false ts t ∧ (t.sns i).wraps = (embeddedCount x e).2) ∧
          (bits x.cfg 31 30 = 1 → (s.sns (bits x.cfg 3 0)).history = h →
            (h = [] → Completes (.csiFrameEnd i n) s (onlySns { x with incoming := none, dropped := satAdd x.dropped 1 })) ∧
            (∀ p rest, h = p :: rest →
              (p.1 = f.number → fits p.2 → Completes (.csiFrameEnd i n) s (ended bad false p.2)) ∧
              ((∀ z ∈ h, z.1 ≠ f.number) → fits (p.2 + BitVec.ofInt 64 ((f.number - p.1).toInt * x.period)) →
                Completes (.csiFrameEnd i n) s (ended bad true (p.2 + BitVec.ofInt 64 ((f.number - p.1).toInt * x.period)))))))))

/-- Sensor sources and buckets by their states (R301–R309, Tables 11.4, 11.6, 11.7), while the device serves and its
root clocks run. ENABLE samples the configuration or answers the failed check; DISABLE of a running source drops the
frame in progress, and of a running bucket closes its one FILLING curd and leaves none READY; a stop completes once
no frame, or no curd, is left; a FILLING curd that times out closes; a CLOSING one whose slots are all written
becomes READY with its header written, or is freed where the bucket stops; the oldest open alignment block that times
out closes incomplete, its empty slots written missing. Choices of the model in it: assumption logs 18 and 19. -/
def Obligations.SensorsAndBucketsFollowTheirStates : Prop :=
  ∀ (i b : Fin 16) (a : Fin 8) (f : Incoming) (c : Curd) (k : AlignBlock) (rest : List AlignBlock) (s : State), clocked s = true →
    let x := s.sns i
    let y := s.bkt b
    let z := s.alignSet a
    let onlySns := fun (w : Sensor) (t : State) => t = { s with media := { s.media with sensors := t.media.sensors } } ∧ t.sns i = w ∧ ∀ q, q ≠ i.val → t.sns q = s.sns q
    let onlyBkt := fun (w : Bucket) (t : State) => t = { s with media := { s.media with buckets := t.media.buckets } } ∧ t.bkt b = w ∧ ∀ q, q ≠ b.val → t.bkt q = s.bkt q
    let opened := fun (t : State) => OnlyMedia s t ∧ (t.sns i).state = .running ∧ (t.sns i).cfg = cfgGet s (snsSrc i) ∧ (t.sns i).size = cfgGet s (snsSrc i + 0xC) ∧
      (t.sns i).hoopBase = cfgGet64 s (snsSrc i + 0x10) ∧ (t.sns i).frames = [] ∧ (t.sns i).incoming = none ∧ (t.sns i).lastTs = none ∧ (t.sns i).completed = x.completed ∧
      ∀ q, q ≠ i.val → t.sns q = s.sns q
    let bopened := fun (t : State) => OnlyMedia s t ∧ t.bkt b = { y with state := .running, cfg := cfgGet s (inpBkt b), slotBytes := (cfgGet s (inpBkt b + 0xC)).toNat, ringBase := cfgGet64 s (inpBkt b + 0x10), ringCfg := cfgGet s (inpBkt b + 0x18), curds := [], seqNext := 0, lowPosted := false } ∧
      (bits (cfgGet s (snsSet a)) 3 0 = b → (t.alignSet a).on = bit (cfgGet s (snsSet a)) 31 ∧ (t.alignSet a).bucket = b ∧ (t.alignSet a).members = setMembers s a ∧
        (t.alignSet a).open_ = [] ∧ (t.alignSet a).blocks = z.blocks) ∧ ∀ q, q ≠ b.val → t.bkt q = s.bkt q
    let short := decide (c.slots.length < y.slots)
    let closed := fun (w : Run4) => onlyBkt { y with state := w, short := (if short then satAdd y.short 1 else y.short), curds := [{ c with state := .closing, short := short }] }
    (Serving s →
      (x.state ∈ [.running, .stoppingPendingEnable] → Idles (.sensorEnable i) s) ∧
      (x.state ∈ [.disabled, .stopping] → Idles (.sensorDisable i) s) ∧
      (x.state = .stopping → Completes (.sensorEnable i) s (onlySns { x with state := .stoppingPendingEnable })) ∧
      (x.state = .stoppingPendingEnable → Completes (.sensorDisable i) s (onlySns { x with state := .stopping })) ∧
      (x.state = .disabled → sensorCheck s i = 0 → Completes (.sensorEnable i) s opened) ∧
      (x.state = .disabled → sensorCheck s i ≠ 0 → Completes (.sensorEnable i) s fun t => t.sns i = { x with reason := BitVec.ofNat 8 (sensorCheck s i) } ∧ t.dram = s.dram ∧
        t.cfg = s.cfg ∧ t.media = { s.media with sensors := t.media.sensors }) ∧
      (x.state = .running → Completes (.sensorDisable i) s fun t => (t.sns i).state = .stopping ∧ (t.sns i).incoming = none) ∧
      (y.state = .running → Completes (.bucketDisable b) s fun t => (t.bkt b).state = .stopping ∧ ∀ q ∈ (t.bkt b).curds, q.state ≠ .ready) ∧
      (x.state = .running → x.incoming = none → Completes (.sensorDisable i) s (onlySns { x with state := .stopping })) ∧
      (x.state = .running → x.incoming = some f → f.dropped = false → Completes (.sensorDisable i) s (onlySns { x with state := .stopping, incoming := none, dropped := satAdd x.dropped 1 })) ∧
      (y.state ∈ [.running, .stoppingPendingEnable] → Idles (.bucketEnable b) s) ∧
      (y.state ∈ [.disabled, .stopping] → Idles (.bucketDisable b) s) ∧
      (y.state = .stopping → Completes (.bucketEnable b) s (onlyBkt { y with state := .stoppingPendingEnable })) ∧
      (y.state = .stoppingPendingEnable → Completes (.bucketDisable b) s (onlyBkt { y with state := .stopping })) ∧
      (y.state = .disabled → bucketCheck s b = 0 → Completes (.bucketEnable b) s bopened) ∧
      (y.state = .disabled → bucketCheck s b ≠ 0 → Completes (.bucketEnable b) s fun t => t.bkt b = { y with reason := BitVec.ofNat 8 (bucketCheck s b) } ∧ t.dram = s.dram ∧
        t.cfg = s.cfg ∧ t.media = { s.media with buckets := t.media.buckets }) ∧
      (y.state = .running → y.curds = [] → Completes (.bucketDisable b) s (onlyBkt { y with state := .stopping })) ∧
      (y.state = .running → y.curds = [c] → c.state = .filling → Completes (.bucketDisable b) s (closed .stopping)) ∧
      (y.state = .running → y.curds = [c] → c.state = .ready → Completes (.bucketDisable b) s fun t => OnlyMedia s t ∧
        t.bkt b = { y with state := .stopping, curds := [], dropped := satAdd y.dropped 1 }) ∧
      (y.state = .running → y.curds = [c] → c.state = .taken → Completes (.bucketDisable b) s (onlyBkt { y with state := .stopping }))) ∧
    (x.frames ≠ [] ∨ x.state ∈ [.disabled, .running] → Idles (.sensorStopComplete i) s) ∧
    (x.frames = [] → x.state = .stopping → Completes (.sensorStopComplete i) s (onlySns { x with state := .disabled })) ∧
    (x.frames = [] → x.state = .stoppingPendingEnable → sensorCheck s i = 0 → Completes (.sensorStopComplete i) s opened) ∧
    (x.frames = [] → x.state = .stoppingPendingEnable → sensorCheck s i ≠ 0 → Completes (.sensorStopComplete i) s fun t =>
      t.sns i = { x with state := .disabled, reason := BitVec.ofNat 8 (sensorCheck s i) } ∧ t.dram = s.dram) ∧
    (y.curds ≠ [] ∨ y.state ∈ [.disabled, .running] → Idles (.bucketStopComplete b) s) ∧
    (y.curds = [] → y.state = .stoppingPendingEnable → bucketCheck s b ≠ 0 → Completes (.bucketStopComplete b) s fun t =>
      t.bkt b = { y with state := .disabled, reason := BitVec.ofNat 8 (bucketCheck s b) } ∧ t.dram = s.dram) ∧
    Completes (.curdFillTimeout b) s (OnlyMedia s) ∧
    (Completes (.curdReady b) s fun t => (t.bkt b).state = y.state ∧ t.cfg = s.cfg) ∧
    (z.open_ = k :: rest → Completes (.alignBlockTimeout a) s fun t =>
      t.alignSet a = { z with open_ := rest, blocks := satAdd z.blocks 1, incomplete := satAdd z.incomplete 1 }) ∧
    (y.curds = [] → y.state = .stopping → Completes (.bucketStopComplete b) s (onlyBkt { y with state := .disabled })) ∧
    (y.curds = [] → y.state = .stoppingPendingEnable → bucketCheck s b = 0 → Completes (.bucketStopComplete b) s bopened) ∧
    (y.fillUs = 0 ∨ (∀ q ∈ y.curds, q.state ≠ .filling) → Idles (.curdFillTimeout b) s) ∧
    (y.fillUs ≠ 0 → y.curds = [c] → c.state = .filling → Completes (.curdFillTimeout b) s (closed y.state)) ∧
    ((∀ q ∈ y.curds, q.state ∈ [.ready, .taken]) → Idles (.curdReady b) s) ∧
    (y.curds = [c] → c.state = .filling ∨ c.state = .closing ∧ (∃ q ∈ c.slots, q.written = false ∨ q.reserved = true) → Idles (.curdReady b) s) ∧
    (y.curds = [c] → c.state = .closing → (∀ q ∈ c.slots, q.written = true ∧ q.reserved = false) → c.slots.length = y.slots →
      (y.state = .running → Completes (.curdReady b) s fun t => (t.bkt b).curds = [{ c with state := .ready }] ∧ (t.bkt b).state = .running ∧
        t.dram = (dramPut (curdAddr s b c.seq) (fitBytes y.hdrBytes (curdHeader b y c)) s).dram ∧ ∀ q, q ≠ b.val → t.bkt q = s.bkt q) ∧
      (y.state ≠ .running → Completes (.curdReady b) s fun t => (t.bkt b).curds = [] ∧ (t.bkt b).dropped = satAdd y.dropped 1 ∧ ∀ q, q ≠ b.val → t.bkt q = s.bkt q)) ∧
    (z.open_ = [] → Idles (.alignBlockTimeout a) s) ∧
    (z.open_ = k :: rest → z.bucket = b → y.curds = [c] → c.seq = k.seq → Completes (.alignBlockTimeout a) s fun t =>
      t.alignSet a = { z with open_ := rest, blocks := satAdd z.blocks 1, incomplete := satAdd z.incomplete 1 } ∧
      ∃ c', (t.bkt b).curds = [c'] ∧ c'.seq = c.seq ∧ c'.state = c.state ∧ ∀ n q, c.slots[n]? = some q → c'.slots[n]? = some (if k.first ≤ n ∧ n < k.first + z.count ∧ q.reserved = true then
        { q with reserved := false, written := true, valid := false, status := 0x0607 } else q))

/-! ### Requests and buffer pools -/

/-- Snapshots and clips (R327–R331, Table 12.7), and records (R322–R326), while the root clocks run. A request that
fails a check is answered with its status; a clip that passes waits, and so does a snapshot of the next picture; one
of a timestamp takes the HELD picture at once, or is answered with its status. CLIP_STOP finishes a clip, whose
media-done entry is posted at once where no picture is in encode, and a clip time whose picture is known is taken,
the last one finishing the clip. A side record whose turn it is, or the next frame record, is posted whole to its
route or waits for room there; FRAME counts the source's frame records. Choices of the model in it: assumption logs
16, 25, 37 and 82. -/
def Obligations.RequestsTakePictures : Prop :=
  ∀ (route : Half) (e : Entry64) (id h : Word) (src : Fin 272) (r : MediaReq) (st : Nat) (run hd : List Entry32) (x : Entry32) (rest : List (Half × List Entry32))
    (rt : Half) (w : WaitRec) (late : Bool) (s u : State), clocked s = true →
    let a := s.asm src
    let room := s.store.length < 4096 ∧ s.raised = []
    let posted := fun (y : Entry32) (t : State) => t.store = s.store ++ [{ qp := routeQp s route, cls := .kept, entry := y }] ∧ t.dram = s.dram
    let others := fun (t : State) => ∀ q i, (q ≠ route ∨ i ≠ mediaReqId e) → findReq t q i = findReq s q i
    let noIdle := ∀ f, f < 4 → (s.enc f).state ≠ .idle
    let taken := fun (idr : Bool) => { handle := h, ts := (s.buffer h).ts, idr := idr, tries := 0, qp := 0, fallback := false : EncPic }
    (∀ i ∈ [Instr.snapshot route e, .clip route e, .clipStop route e, .clipTimeTake route id, .recordPost src],
      Completes i s fun t => t.dram = s.dram ∧ t.cfg = s.cfg) ∧
    (room → checkRequest route e false s = .error st → Completes (.snapshot route e) s fun t => posted (doneEntry (mediaReqId e) st 0 0 0 0) t ∧ t.media = s.media) ∧
    (room → checkRequest route e true s = .error st → Completes (.clip route e) s fun t => posted (doneEntry (mediaReqId e) st 0 0 0 0) t ∧ t.media = s.media) ∧
    (checkRequest route e true s = .ok r → Completes (.clip route e) s fun t => t = { s with media := { s.media with requests := s.media.requests ++ [r] } }) ∧
    (checkRequest route e false s = .ok r →
      (r.time = BitVec.allOnes 64 → Completes (.snapshot route e) s fun t => t = { s with media := { s.media with requests := s.media.requests ++ [r] } }) ∧
      (r.time ≠ BitVec.allOnes 64 → findHeld s r.ses r.time = none → room → Completes (.snapshot route e) s fun t =>
        posted (doneEntry (mediaReqId e) 0x0802 0 0 0 0) t ∧ t.media = s.media) ∧
      (r.time ≠ BitVec.allOnes 64 → findHeld s r.ses r.time = some h → handleOk s (handleGroup h) h = true → findReq s route (mediaReqId e) = none → noIdle →
        Completes (.snapshot route e) s fun t => OnlyMedia s t ∧ t.buffer h = { s.buffer h with use := (s.buffer h).use + 1 } ∧
          t.media.requests = s.media.requests ++ [{ r with state := .recording, status := (if (s.buffer h).poisoned then 0x0B02 else 0), t0 := (s.buffer h).ts, queue := [taken true] }])) ∧
    (findReq s route (mediaReqId e) = none ∨ (∃ y, findReq s route (mediaReqId e) = some y ∧ y.state = .finishing) → Idles (.clipStop route e) s) ∧
    (findReq s route (mediaReqId e) = some r → r.state ≠ .finishing → r.cand = none →
      (r.queue = [] → room → Completes (.clipStop route e) s fun t => findReq t route (mediaReqId e) = none ∧ others t ∧
        posted (doneEntry r.reqId r.status r.pictures r.bytes r.firstTs.toNat r.lastTs.toNat) t) ∧
      (r.queue = [taken true] → r.core ≠ none → Completes (.clipStop route e) s fun t => findReq t route (mediaReqId e) = some { r with state := .finishing } ∧ others t ∧
        t.store = s.store)) ∧
    (findReq s route id = none → Idles (.clipTimeTake route id) s) ∧
    (findReq s route id = some r →
      (r.cand = none ∨ r.state ≠ .recording ∨ r.clip = false ∨ (s.ses r.ses).lateTs ≤ clipTime r r.n ∧ (s.ses r.ses).state = .running → Idles (.clipTimeTake route id) s) ∧
      (r.cand = some h → r.state = .recording → r.clip = true → clipTime r r.n < (s.ses r.ses).lateTs → handleOk s (handleGroup h) h = true → noIdle →
        (r.endTs.toNat ≤ clipTime r (r.n + 1) → Completes (.clipTimeTake route id) s fun t => OnlyMedia s t ∧ t.buffer h = { s.buffer h with use := (s.buffer h).use + 1 } ∧
          findReq t route id = some { r with n := r.n + 1, state := .finishing, queue := r.queue ++ [taken (r.n % max (encIdrPeriod r.params) 1 = 0)] }) ∧
        (clipTime r (r.n + 1) < r.endTs.toNat → Completes (.clipTimeTake route id) s fun t => ∃ c, t.dram = s.dram ∧
          findReq t route id = some { r with n := r.n + 1, cand := c, queue := r.queue ++ [taken (r.n % max (encIdrPeriod r.params) 1 = 0)] }))) ∧
    (a.outbox = (rt, run) :: rest → postRun (routeQp s rt) (finishSide a.posted run) s = none → Idles (.recordPost src) s) ∧
    (a.outbox = (rt, run) :: rest → postRun (routeQp s rt) (finishSide a.posted run) s = some u → Completes (.recordPost src) s fun t =>
      t = { u with media := t.media } ∧ t.asm src = { a with outbox := rest, route := rt } ∧
      ∀ q, q ≠ src.val → t.asm q = s.asm q) ∧
    (a.outbox = [] → nextRecord s src = none → Idles (.recordPost src) s) ∧
    (a.outbox = [] → nextRecord s src = some (w, x :: hd, late) →
      (postRun (routeQp s (w.route.getD a.route)) (finishHead a.frame s.now w late x :: hd) s = none → Idles (.recordPost src) s) ∧
      (postRun (routeQp s (w.route.getD a.route)) (finishHead a.frame s.now w late x :: hd) s = some u → Completes (.recordPost src) s fun t => t = { u with media := t.media } ∧
        (t.asm src).frame = a.frame + 1 ∧ (t.asm src).route = w.route.getD a.route ∧ (t.asm src).waiting.length + 1 = a.waiting.length ∧ (t.asm src).outbox = (a.sides.filter (fun y => y.1 = w.ts)).map (·.2) ∧
        (∀ y ∈ (t.asm src).sides, y.1 ≠ w.ts) ∧ (∃ l, (t.asm src).lastTs = some l ∧ w.ts.toNat ≤ l.toNat) ∧ ∀ q, q ≠ src.val → t.asm q = s.asm q))

/-- Buffer pools (R344–R349, Tables 13.3, 13.4), while the device serves and its root clocks run. A request gets a
buffer where it is grantable and no earlier one is, waits where it is within its quota, or ends its picture, counted
over quota; a mark changes under a good handle, a bad one is counted, and a HELD buffer without marks is FREE again;
ENABLE makes every buffer FREE and keeps GEN; DISABLE refuses the waiting requests and is complete at once where
every buffer is FREE; of the only two waiting sessions that hold more than their floors of one class for 21
evaluations, the one that began waiting last loses its request. Choices of the model in it: assumption logs 16 and
82. -/
def Obligations.PoolsGrantBuffers : Prop :=
  ∀ (g : Fin 32) (i : Fin 256) (h : Word) (c : MarkChange) (p : Pic) (k : Nat) (w v : BufWait) (s u : State),
    clocked s = true →
    let x := s.pool g
    let y := s.ses i
    let q := s.pool y.group
    let only := fun (z : Pool) (t : State) => t = { s with media := { s.media with pools := t.media.pools } } ∧ t.pool g = z ∧ ∀ j, j ≠ g.val → t.pool j = s.pool j
    let b := s.buffer h
    let clear := fun (z : Buffer) => z.state = .held ∧ z.ref = 0 ∧ z.out = false ∧ z.use = 0
    (Serving s →
      (x.state ∈ [.running, .stoppingPendingEnable] → Idles (.poolEnable g) s) ∧
      (x.state ∈ [.disabled, .stopping] → Idles (.poolDisable g) s) ∧
      (x.state = .stopping → Completes (.poolEnable g) s (only { x with state := .stoppingPendingEnable })) ∧
      (x.state = .stoppingPendingEnable → Completes (.poolDisable g) s (only { x with state := .stopping })) ∧
      (x.state = .disabled → poolCheck s g = 0 → Completes (.poolEnable g) s
        (only { x with state := .running, detail := 0, buffers := Table.remap Buffer.dflt (fun _ z => { Buffer.dflt with gen := z.gen }) x.buffers })) ∧
      (x.state = .disabled → poolCheck s g ≠ 0 → Completes (.poolEnable g) s fun t => t.pool g = { x with detail := poolCheck s g } ∧ t.dram = s.dram ∧ t.cfg = s.cfg) ∧
      (x.state = .running → Completes (.poolDisable g) s fun t => (t.pool g).state ∈ [.stopping, .disabled] ∧ (t.pool g).waits = [] ∧
        t.dram = s.dram) ∧
      (x.state = .running → x.waits = [] → poolEmpty x = true → Completes (.poolDisable g) s (only { x with state := .disabled, streak := [] })) ∧
      (x.state = .running → x.waits = [] → poolEmpty x = false → Completes (.poolDisable g) s (only { x with state := .stopping, streak := [] }))) ∧
    (∀ n ∈ [Instr.bufferRequest i, .bufferMarkChange g h c, .deadlockEval], Completes n s fun t => t.dram = s.dram ∧ t.cfg = s.cfg) ∧
    (y.pic = none ∨ (∃ z, y.pic = some z ∧ z.stage ≠ .needBuf) → Idles (.bufferRequest i) s) ∧
    (y.pic = some p → p.stage = .needBuf →
      (q.state = .running → underQuota s i (sesUse s i) = true → grantable s i = true → (∀ z ∈ q.waits, grantable s z.ses = false) → allocate i s = some (h, u) →
        Completes (.bufferRequest i) s fun t => OnlyMedia s t ∧ (t.ses i).pic = some { p with stage := .decoding, handle := some h } ∧
          (t.buffer h).state = .decoding ∧ (t.buffer h).ses = i ∧ (t.buffer h).gen = handleGen h ∧ t.pool y.group = u.pool y.group) ∧
      (q.state = .running → sizeClass s i ≠ none → underQuota s i (sesUse s i) = true → grantable s i = false ∨ (∃ z ∈ q.waits, grantable s z.ses = true) →
        Completes (.bufferRequest i) s fun t => OnlyMedia s t ∧ t.pool y.group = { q with waits := q.waits ++ [{ ses := i, since := s.now }] } ∧
          (t.ses i).pic = some { p with stage := .waitBuf, given := 0 } ∧ ∀ d, claimCore s i = some d → (t.dec d).work = none) ∧
      (p.au.eos = false → p.handle = none →
        (q.state ≠ .running ∨ sizeClass s i = none → Completes (.bufferRequest i) s fun t => (t.ses i).pic = none ∧ (t.ses i).dropped = y.dropped) ∧
        (q.state = .running → sizeClass s i ≠ none → underQuota s i (sesUse s i) = false → Completes (.bufferRequest i) s fun t => (t.ses i).pic = none ∧
          (t.ses i).dropped = satAdd y.dropped 1 ∧ (t.pool y.group).quotaRefused = satAdd q.quotaRefused 1))) ∧
    (handleOk s g h = false → Completes (.bufferMarkChange g h c) s fun t => t.pool g = { x with badHandle := satAdd x.badHandle 1 } ∧ t.buffer h = b ∧ t.dram = s.dram) ∧
    (handleOk s g h = true →
      (¬ clear (Buffer.change c b) → Completes (.bufferMarkChange g h c) s fun t => OnlyMedia s t ∧ t.buffer h = Buffer.change c b ∧ t.media = { s.media with pools := t.media.pools }) ∧
      (clear (Buffer.change c b) → x.state = .running → x.waits = [] → Completes (.bufferMarkChange g h c) s fun t => OnlyMedia s t ∧
        t.buffer h = { Buffer.dflt with gen := b.gen } ∧ t.media = { s.media with pools := t.media.pools })) ∧
    ((∀ j, (s.pool j).waits = []) → Completes .deadlockEval s fun t => OnlyMedia s t ∧ ∀ j, t.pool j = if j < 32 then { s.pool j with streak := [] } else s.pool j) ∧
    ((∀ j, j ≠ g.val → (s.pool j).waits = []) → x.waits = [w, v] → w.ses ≠ v.ses → k < 4 → (∀ z ∈ [w, v], sizeClass s z.ses = some k ∧ sesFloor s z.ses < sesUse s z.ses ∧
        20 ≤ Table.get 0 x.streak z.ses) → (s.ses v.ses).pic = some p → p.au.eos = false → p.handle = none →
      Completes .deadlockEval s fun t => (t.pool g).deadlocks = satAdd x.deadlocks 1 ∧ v ∉ (t.pool g).waits ∧ (t.ses v.ses).pic = none)

/-! ### Host queues and the PCIe endpoint -/

/-- Queue pairs (R359–R372, Tables 14.4, 14.5), while the device serves and its root clocks run. Doorbells move the
indices or are discarded and counted; ENABLE of a queue pair that no control destination owns samples and opens it,
or answers the failed check, and DISABLE stops it. Entries are read under tags; a completion for a free tag is
counted unexpected and one for a quarantined tag late; a read that times out is quarantined and reissued once, and a
failed read of a running queue pair without jobs or requests stops it with its status. The oldest message of a queue
pair takes the next ring slot with PHASE, and COUNT or TIME_US fires the vector. Choices of the model in it:
assumption logs 31 and 67. -/
def Obligations.QueuePairsMoveEntries : Prop :=
  ∀ (q : Fin 64) (v : Word) (tag : Fin 1024) (n : Nat) (k : Tag) (m : Msg) (es : List Entry64) (err : CplError) (s : State), clocked s = true →
    let x := s.qp q
    let only := fun (y : Qp) (t : State) => t = { s with qps := t.qps } ∧ t.qp q = y ∧ ∀ p, p ≠ q.val → t.qp p = s.qp p
    let discarded := fun (t : State) => t.qps = s.qps ∧ t.pcie.doorbellDiscard = satAdd s.pcie.doorbellDiscard 1 ∧ t.cmds = s.cmds ∧ t.jobs = s.jobs
    let alone := fun (p : Nat) => (∀ j ∈ liveJobs s, j.2.qp ≠ p) ∧ ∀ r ∈ s.media.requests, routeQp s r.route ≠ p
    let room := s.store.length < 4096 ∧ s.raised = []
    let stopped := fun (p r : Nat) (t : State) => t.qp p = { s.qp p with state := .stopping, reason := BitVec.ofNat 8 r, fetchBuf := [] } ∧ t.jobs = s.jobs ∧ t.cmds = s.cmds ∧ t.media = s.media
    let told := fun (p st : Nat) (t : State) => t.store = s.store ++ [{ qp := p, cls := .kept, entry := StatusMsg.entry { status := st, kind := 7, id := p } }]
    let opened := fun (t : State) => only { Qp.dflt with state := .running, cmdBase := cfgGet64 s (qpOff q), rspBase := cfgGet64 s (qpOff q + 8), headwbAddr := cfgGet64 s (qpOff q + 0x30), cfg := cfgGet s (qpOff q + 0x10), torn := x.torn } t
    let mod := cfgGet s (qpOff q + 0x2C)
    let vec := bits x.cfg 13 8
    (Serving s →
      (x.state = .running → qpDest s q = none → seqDist v x.cmdHead ≤ x.cmdEntries → seqDist v x.cmdTail ≤ x.cmdEntries → Completes (.cmdTailDoorbell q v) s (only { x with cmdTail := v })) ∧
      (x.state ≠ .running ∨ qpDest s q ≠ none ∨ x.cmdEntries < seqDist v x.cmdHead ∨ x.cmdEntries < seqDist v x.cmdTail → Completes (.cmdTailDoorbell q v) s discarded) ∧
      (x.state ≠ .disabled → seqDist v x.rspHead ≤ seqDist x.rspTail x.rspHead → Completes (.rspHeadDoorbell q v) s (only { x with rspHead := v })) ∧
      (x.state = .disabled ∨ seqDist x.rspTail x.rspHead < seqDist v x.rspHead → Completes (.rspHeadDoorbell q v) s discarded) ∧
      (x.state ∈ [.running, .stoppingPendingEnable] → Idles (.qpEnable q) s) ∧
      (x.state ∈ [.disabled, .stopping] → Idles (.qpDisable q) s) ∧
      (x.state = .stopping → Completes (.qpEnable q) s (only { x with state := .stoppingPendingEnable })) ∧
      (x.state = .stoppingPendingEnable → Completes (.qpDisable q) s (only { x with state := .stopping })) ∧
      (x.state = .disabled → qpCheck s q = 0 → qpDest s q = none → Completes (.qpEnable q) s opened) ∧
      (x.state = .disabled → qpCheck s q ≠ 0 → Completes (.qpEnable q) s fun t => t.qp q = { x with reason := BitVec.ofNat 8 (qpCheck s q) } ∧ t.cfg = s.cfg ∧ t.jobs = s.jobs) ∧
      (x.state = .running → Completes (.qpDisable q) s fun t => (t.qp q).state = .stopping ∧ (t.qp q).reason = 0x10) ∧
      (x.state = .running → alone q → Completes (.qpDisable q) s (stopped q 0x10))) ∧
    (qpStopped s q = false ∨ x.state ∈ [.disabled, .running] → Idles (.qpStopComplete q) s) ∧
    (qpStopped s q = true → x.state = .stopping → Completes (.qpStopComplete q) s (only { x with state := .disabled })) ∧
    (qpStopped s q = true → x.state = .stoppingPendingEnable → qpCheck s q = 0 → qpDest s q = none → Completes (.qpStopComplete q) s opened) ∧
    (qpStopped s q = true → x.state = .stoppingPendingEnable → qpCheck s q ≠ 0 → Completes (.qpStopComplete q) s fun t =>
      t.qp q = { x with state := .disabled, reason := BitVec.ofNat 8 (qpCheck s q) } ∧ t.cfg = s.cfg) ∧
    (x.state ≠ .running ∨ qpDest s q ≠ none ∨ fetchCount s q = 0 ∨ readCan s = false → Idles (.commandFetch q) s) ∧
    (x.state = .running → qpDest s q = none → 0 < fetchCount s q → freeTag s = some n → outstanding s < 512 → Completes (.commandFetch q) s fun t =>
      t = { s with qps := t.qps, pcie := t.pcie, out := s.out ++ [.hostRead n (x.cmdBase.toNat + x.fetchPos.toNat % x.cmdEntries * 64) (64 * fetchCount s q) (bit x.cfg 16)] } ∧
      t.qp q = { x with fetchPos := x.fetchPos + BitVec.ofNat 32 (fetchCount s q) } ∧
      (∀ i, tagOf t i = if i = n then some { qp := q, pos := x.fetchPos, count := fetchCount s q, reissue := false, quarantined := false } else tagOf s i)) ∧
    (tagOf s tag = none → Idles (.completionTimeout tag) s ∧ Idles (.quarantineExpire tag) s ∧
      ∀ i ∈ [Instr.commandReadComplete tag es, .completionErrorStatus tag err, .lateCompletion tag, .unexpectedCompletion tag], Completes i s fun t =>
        t = { s with out := s.out ++ [.aer .unexpectedCompletion], pcie := { s.pcie with unexpCpl := satAdd s.pcie.unexpCpl 1 } }) ∧
    (tagOf s tag = some k → k.quarantined = true → Idles (.completionTimeout tag) s ∧
      (∀ i ∈ [Instr.commandReadComplete tag es, .completionErrorStatus tag err, .lateCompletion tag, .unexpectedCompletion tag], Completes i s fun t =>
        t = { s with pcie := t.pcie } ∧ t.pcie.lateCpl = satAdd s.pcie.lateCpl 1 ∧ ∀ i, tagOf t i = if i = tag.val then none else tagOf s i) ∧
      Completes (.quarantineExpire tag) s fun t => t = { s with pcie := t.pcie } ∧ t.pcie.lateCpl = s.pcie.lateCpl ∧ ∀ i, tagOf t i = if i = tag.val then none else tagOf s i) ∧
    (tagOf s tag = some k → k.quarantined = false → Idles (.lateCompletion tag) s ∧ Idles (.unexpectedCompletion tag) s ∧ Idles (.quarantineExpire tag) s ∧
      (Completes (.completionTimeout tag) s fun t => t.pcie.cplTimeout = satAdd s.pcie.cplTimeout 1 ∧ tagOf t tag = some { k with quarantined := true }) ∧
      (Completes (.completionErrorStatus tag err) s fun t => tagOf t tag = none) ∧
      ((s.qp k.qp).state ≠ .running → Completes (.commandReadComplete tag es) s fun t => t = { s with pcie := t.pcie } ∧ ∀ i, tagOf t i = if i = tag.val then none else tagOf s i) ∧
      ((s.qp k.qp).state = .running → Completes (.commandReadComplete tag es) s fun t => ∃ u, u = { s with pcie := u.pcie } ∧ (∀ i, tagOf u i = if i = tag.val then none else tagOf s i) ∧
        t = acceptLoop k.qp (landEntries k.qp k.pos (es.take k.count) u)) ∧
      (k.reissue = false → (s.qp k.qp).state = .running → freeTag s = some n → outstanding (setTag tag (some { k with quarantined := true }) s) < 512 → Completes (.completionTimeout tag) s fun t =>
        t.out = s.out ++ [.aer .completionTimeout, .hostRead n ((s.qp k.qp).cmdBase.toNat + k.pos.toNat % (s.qp k.qp).cmdEntries * 64) (64 * k.count) (bit (s.qp k.qp).cfg 16)] ∧
        t.pcie.cplTimeout = satAdd s.pcie.cplTimeout 1 ∧ t.qps = s.qps ∧
        ∀ i, tagOf t i = if i = n then some { k with reissue := true } else if i = tag.val then some { k with quarantined := true } else tagOf s i) ∧
      (k.reissue = true → (s.qp k.qp).state = .running → alone k.qp → room → Completes (.completionTimeout tag) s fun t => stopped k.qp 0x11 t ∧ told k.qp 0x0106 t ∧
        tagOf t tag = some { k with quarantined := true } ∧ t.out = s.out ++ [.aer .completionTimeout]) ∧
      ((s.qp k.qp).state = .running → alone k.qp → room → Completes (.completionErrorStatus tag err) s fun t => stopped k.qp 0x12 t ∧ told k.qp 0x0107 t ∧ tagOf t tag = none ∧
        t.out = s.out ++ (match err with | .poisoned => [.aer .poisonedTlp] | .ecrc => [.aer .ecrc] | _ => []))) ∧
    ((∀ y ∈ s.store, y.qp ≠ q.val) → Idles (.messagePost q) s) ∧
    (s.store.find? (fun y => y.qp = q.val) = some m →
      (qpDest s q = none → ringRoom s q 1 = false → Idles (.messagePost q) s) ∧
      (∀ d, qpDest s q = some d → ccRoom s d = true → s.raised = [] → Completes (.messagePost q) s fun t => t.store.length + 1 = s.store.length) ∧
      (∀ d, qpDest s q = some d → ccRoom s d = false → Idles (.messagePost q) s) ∧
      (qpDest s q = none → ringRoom s q 1 = true → s.raised = [] → Completes (.messagePost q) s fun t => t.store.length + 1 = s.store.length ∧ (t.qp q).rspTail = x.rspTail + 1 ∧
        (∃ o, t.out = s.out ++ [.hostWrite (x.rspBase.toNat + x.rspTail.toNat % x.rspEntries * 32) (toBytes (stamp m.entry (phaseOf x.rspEntries x.rspTail) q) 32) false] ++ o) ∧
        (max 1 (bits mod 31 16) ≤ x.posted + 1 → (t.qp q).posted = 0) ∧
        (x.posted + 1 < max 1 (bits mod 31 16) → bits mod 15 0 ≠ 0 → x.posted ≠ 0 → s.now < x.postedAt + 1000 * bits mod 15 0 → (t.qp q).posted = x.posted + 1))) ∧
    (x.posted = 0 → Idles (.irqTimer q) s) ∧
    (0 < x.posted →
      (s.pcie.msixOn = false → Completes (.irqTimer q) s (only { x with posted := 0 })) ∧
      (s.pcie.msixOn = true → msixMasked s vec = true → Completes (.irqTimer q) s fun t => t.qp q = { x with posted := 0 } ∧ bit t.pcie.pba vec = true ∧ t.out = s.out) ∧
      (s.pcie.msixOn = true → msixMasked s vec = false → Completes (.irqTimer q) s fun t => t.qp q = { x with posted := 0 } ∧
        t.out = s.out ++ [.msix vec (cfgGet64 s (msixOff vec)) (cfgGet s (msixOff vec + 8))]))

/-- The endpoint (R353–R358, R373–R375, R377, R379, Tables 14.1–14.3, 14.9), while the root clocks run. Windows are
committed whole or refused whole; BAR2 maps through them, a miss is counted, and a read's aborted, poison travels
both ways; errors are reported; configuration reads are answered with the named field's value or a free one, the
named fields that software may set are written, and everything is answered with Retry Status while the device is not
ready; the link's state is kept, and a drop is counted in soot. Choices of the model in it: assumption logs 32, 67
and 83. -/
def Obligations.EndpointAnswersRequests : Prop :=
  ∀ (mask : Byte) (off v : Word) (len : Fin 4097) (bs : List Byte) (p l11 : Bool) (a : Nat) (err : FatalTlp) (n : Fin 65536) (f : ConfigField) (k : Fin 6) (sp : Fin 6) (w : Fin 9) (s : State),
    clocked s = true →
    let d := dramRead s a len
    let only := fun (e : Pcie) (os : List Output) (t : State) => t = { s with pcie := e, out := s.out ++ os }
    let ok := fun (f : ConfigField) (e : Pcie) => only e [.config f 0 .success]
    (Serving s →
      ((∀ i, i < 8 → bit mask i = true → winDetail (staged s i) = 0) → Completes (.windowCommit mask) s fun t => t = { s with pcie := t.pcie } ∧
        (∀ i, t.window i = if i < 8 ∧ bit mask i = true then staged s i else s.window i) ∧ t.pcie.commitStatus = pack 32 [(8, 1), (0, mask.toNat)]) ∧
      ((∃ i, i < 8 ∧ bit mask i = true ∧ winDetail (staged s i) ≠ 0) → Completes (.windowCommit mask) s fun t => (∀ i, t.window i = s.window i) ∧
        (∃ x y, t.pcie.commitStatus = pack 32 [(16, x), (8, 2), (0, y)] ∧ ∃ i, i < 8 ∧ bit mask i = true ∧ x = winDetail (staged s i) ∧ x ≠ 0) ∧ t.cfg = s.cfg ∧ t.dram = s.dram)) ∧
    (memServed s = false → (Completes (.bar2Read off len) s fun t => t.out = s.out ++ [.barRead 2 off.toNat [] false .abort, .aer .completerAbort] ∧ t.dram = s.dram) ∧
      Completes (.bar2Write off bs p) s fun t => t = recordBar off.toNat s) ∧
    (memServed s = true →
      (winMap s off len false = none → Completes (.bar2Read off len) s fun t => t.out = s.out ++ [.barRead 2 off.toNat [] false .abort, .aer .completerAbort] ∧
        t.pcie.winMiss = satAdd s.pcie.winMiss 1 ∧ t.dram = s.dram) ∧
      (winMap s off len false = some a →
        (d.any (·.2) = false → Completes (.bar2Read off len) s (only s.pcie [.barRead 2 off.toNat (d.map (·.1)) false .success])) ∧
        (d.any (·.2) = true → Completes (.bar2Read off len) s (only { s.pcie with poisonTx := satAdd s.pcie.poisonTx 1 } [.barRead 2 off.toNat (d.map (·.1)) true .success]))) ∧
      (winMap s off bs.length true = none → Completes (.bar2Write off bs p) s fun t => t.dram = s.dram ∧ t.dramPoison = s.dramPoison ∧ t.pcie.winMiss = satAdd s.pcie.winMiss 1 ∧
        t.pcie.poisonRx = if p then satAdd s.pcie.poisonRx 1 else s.pcie.poisonRx) ∧
      (winMap s off bs.length true = some a → Completes (.bar2Write off bs p) s fun t => t.pcie.winMiss = s.pcie.winMiss ∧ t.cfg = s.cfg) ∧
      (winMap s off bs.length true = some a → a + bs.length ≤ dramBytes → (∀ c, (s.chan c).state ≠ .failed) → Completes (.bar2Write off bs p) s fun t =>
        (∀ x, Table.get 0 t.dram x = if a ≤ x ∧ x < a + bs.length then byteAt bs (x - a) else Table.get 0 s.dram x) ∧
        (p = true → ∀ x, a ≤ x → x < a + bs.length → Table.get false t.dramPoison (x / 32) = true) ∧
        (p = false → ∀ x, (∀ y, y < 32 → a ≤ 32 * x + y ∧ 32 * x + y < a + bs.length) → Table.get false t.dramPoison x = false) ∧
        t.pcie.poisonRx = if p then satAdd s.pcie.poisonRx 1 else s.pcie.poisonRx)) ∧
    Completes .ecrcRequestError s (only s.pcie [.aer .ecrc]) ∧
    Completes .noBarRequest s (only s.pcie [.unsupportedRequest, .aer .unsupportedRequest]) ∧
    (Completes (.fatalTlpError err) s fun t => t.out = s.out ++ [.aer .fatal] ∧ t.dram = s.dram ∧ t.cfg = s.cfg ∧
      (Table.get 0 s.recorder.spent 0x0A04 < 8 → ∃ r, Table.get none t.recorder.ring (s.recorder.seqNext.toNat % 8192) = some r ∧ r.code = 0x0A04)) ∧
    (Completes (.linkReplay n) s fun t => t.out = s.out ++ [.aer .correctable] ∧ t.recorder = { s.recorder with soot := { s.recorder.soot with pcieReplays := satAdd s.recorder.soot.pcieReplays n } } ∧
      t.pcie = s.pcie) ∧
    (s.pcie.notReady = true → ∀ x, Completes (.configRequest f x) s (only s.pcie [.config f 0 .retry])) ∧
    (s.pcie.notReady = false →
      (∀ x, Completes (.configRequest f (some x)) s fun t => t.cfg = s.cfg ∧ t.dram = s.dram) ∧
      (∀ x, configValue s f = some x → Completes (.configRequest f none) s (only s.pcie [.config f x .success])) ∧
      (configValue s f = none → Completes (.configRequest f none) s fun t => ∃ x, t = { s with fresh := t.fresh, out := s.out ++ [.config f x .success] }) ∧
      (Completes (.configRequest (.bar k) (some v)) s fun t => ok (.bar k) t.pcie t ∧ t.pcie = { s.pcie with bars := t.pcie.bars } ∧
        ∀ i, Table.get 0 t.pcie.bars i = if i = k.val then v &&& barMask k else Table.get 0 s.pcie.bars i) ∧
      (v.toNat ≤ 2 → Completes (.configRequest .maxPayload (some v)) s (ok .maxPayload { s.pcie with mps := 128 * 2 ^ v.toNat })) ∧
      (v.toNat ≤ 5 → Completes (.configRequest .maxReadRequest (some v)) s (ok .maxReadRequest { s.pcie with mrrs := 128 * 2 ^ v.toNat })) ∧
      (bit v 15 = false ∨ s.pcie.pba = 0 → Completes (.configRequest .msixControl (some v)) s (ok .msixControl { s.pcie with msixOn := bit v 15, msixMask := bit v 14 })) ∧
      (Completes (.configRequest .msixControl (some v)) s fun t => t.pcie.msixOn = bit v 15 ∧ t.pcie.msixMask = bit v 14 ∧ t.cfg = s.cfg) ∧
      (∀ y ∈ [ConfigField.ids, .classRev, .subsystem, .interruptPin], Completes (.configRequest y (some v)) s (ok y s.pcie))) ∧
    Completes (.pcieLinkUp sp w) s (only { s.pcie with dlActive := true, speed := sp, width := w, pm := 0 } []) ∧
    (s.pcie.dlActive = true → (Completes .pcieLinkDown s fun t => t.pcie = { s.pcie with dlActive := false, speed := 0, width := 0, pm := 0 } ∧
        t.recorder = { s.recorder with soot := { s.recorder.soot with pcieLinkDown := satAdd s.recorder.soot.pcieLinkDown 1 } } ∧ t.out = s.out) ∧
      Completes (.aspmL1Entry l11) s (only { s.pcie with pm := if l11 then 2 else 1 } [])) ∧
    (s.pcie.dlActive = false → Idles .pcieLinkDown s ∧ Idles (.aspmL1Entry l11) s) ∧
    Completes .aspmL1Exit s (only { s.pcie with pm := 0 } [])

/-! ### Ethernet -/

/-- Ports, links and ingest (R381–R390, Tables 15.1–15.3), while the Ethernet ports are powered. Ports go through
their states with MODE sampled; link changes are kept, and a drop is recorded; what arrives on a link that runs is
counted, classified by address and port, and delivered or dropped, and what arrives on another is not received. An
RTP packet of a live session that does not match, comes late or twice is counted; one ahead of its turn is held; the
next one of its access unit joins it; a gap that outlasts the hold is lost. The RTSP client asks in its order.
Choices of the model in it: assumption logs 33, 34, 36 and 83. -/
def Obligations.LinksReceiveFrames : Prop :=
  ∀ (p : Fin 2) (l : Fin 8) (i : Fin 256) (d : Fin 16) (m : Fin 8) (sp : Fin 4) (pr : Fin 8) (fec ok ce : Bool) (src dst bs : List Byte) (sport dport : Half) (n : Nat × Nat) (ans : List Byte)
    (k : RtpIn) (h : RtpPkt) (w ts : Word) (ntp : DWord) (pt : Fin 128) (z : Nat) (s : State), portsPowered s = true →
    let x := s.port p
    let y := s.link l
    let r := s.rtp i
    let only := fun (v : EthPort) (t : State) => t = { s with ether := { s.ether with ports := t.ether.ports } } ∧ t.port p = v ∧ ∀ q, q ≠ p.val → t.port q = s.port q
    let onlyLink := fun (v : EthLink) (t : State) => t = { s with ether := { s.ether with links := t.ether.links } } ∧ t.link l = v ∧ ∀ q, q ≠ l.val → t.link q = s.link q
    let onlyRtp := fun (v : Rtp) (t : State) => t = { s with ether := { s.ether with rtps := t.ether.rtps } } ∧ t.rtp i = v ∧ ∀ q, q ≠ i.val → t.rtp q = s.rtp q
    let counted := { y with rxFrames := satAdd y.rxFrames 1, fecCorr := satAdd y.fecCorr n.1, fecUncorr := satAdd y.fecUncorr n.2 }
    let dropped := onlyLink { counted with rxDrop := satAdd y.rxDrop 1 }
    let asks := fun (v : Rtp) (q : RtspReq) (t : State) => t.rtp i = v ∧ t.ether = { s.ether with rtps := t.ether.rtps } ∧
      t.out = s.out ++ [.rtsp (bits r.cfg 29 27) i q (dramBytesAt s (groupBase s (s.ses i).group + r.rtspAddr.toNat % 2 ^ 40 / 256 * 256) 256)]
    let lk := bits r.cfg 29 27
    let heardOn := fun (t : State) => (t.link lk).rxFrames = satAdd (s.link lk).rxFrames 1 ∧ ∀ q, q ≠ lk → t.link q = s.link q
    let heardRtp := fun (v : Rtp) (t : State) => t = { s with ether := { s.ether with rtps := t.ether.rtps, links := t.ether.links } } ∧ heardOn t ∧
      t.rtp i = v ∧ ∀ q, q ≠ i.val → t.rtp q = s.rtp q
    let e := r.next.getD k.seq.toNat
    let gap := (k.seq - BitVec.ofNat 16 e).toNat
    (Serving s →
      (x.state ∈ [.running, .stoppingPendingEnable] → Idles (.portEnable p) s) ∧
      (x.state ∈ [.disabled, .stopping] → Idles (.portDisable p) s) ∧
      (x.state = .disabled → bits (cfgGet s (portOff p)) 19 18 ≠ 3 → Completes (.portEnable p) s (only { x with state := .running, cfg := cfgGet s (portOff p) })) ∧
      (x.state = .disabled → bits (cfgGet s (portOff p)) 19 18 = 3 → Completes (.portEnable p) s fun t => t = recordWrite (portOff p + 4) 1 s ∧ t.port p = x) ∧
      (x.state = .stopping → Completes (.portEnable p) s (only { x with state := .stoppingPendingEnable })) ∧
      (x.state ∈ [.running, .stoppingPendingEnable] → Completes (.portDisable p) s (only { x with state := .stopping }))) ∧
    ((∃ j, j < 4 ∧ (s.link (4 * p.val + j)).up = true) ∨ x.state ∈ [.disabled, .running] → Idles (.portShutdownComplete p) s) ∧
    ((∀ j, j < 4 → (s.link (4 * p.val + j)).up = false) →
      (x.state = .stopping → Completes (.portShutdownComplete p) s (only EthPort.dflt)) ∧
      (x.state = .stoppingPendingEnable → Completes (.portShutdownComplete p) s (only { x with state := .running, cfg := cfgGet s (portOff p) }))) ∧
    ((s.port (l / 4)).state ≠ .running ∨ linkInMode s l = false ∨ y.up = true → Idles (.ethLinkUp l sp fec) s) ∧
    ((s.port (l / 4)).state = .running → linkInMode s l = true → y.up = false → Completes (.ethLinkUp l sp fec) s fun t => (t.link l).up = true ∧ (t.link l).speed = sp ∧
      (t.link l).fecLock = fec ∧ (t.link l).paused = 0 ∧ (t.link l).rxFrames = y.rxFrames ∧ t.cfg = s.cfg ∧ t.dram = s.dram ∧ ∀ q, q ≠ l.val → (t.link q).up = (s.link q).up) ∧
    (y.up = false → Idles (.ethLinkDown l) s) ∧
    (y.up = true → Completes (.ethLinkDown l) s fun t => t.link l = { y with up := false, speed := 0, fecLock := false, paused := 0 } ∧ t.cfg = s.cfg ∧
      (∀ q, q ≠ l.val → t.link q = s.link q) ∧
      (Table.get 0 s.recorder.spent 0x0B01 < 8 → ∃ v, Table.get none t.recorder.ring (s.recorder.seqNext.toNat % 8192) = some v ∧ v.code = 0x0B01 ∧ v.id = BitVec.ofNat 16 l)) ∧
    (linkRuns s l = false → Idles (.pfcFrame l pr ok) s ∧ Idles (.udpDatagram l ok src sport dst dport ce bs n) s ∧ Idles (.ethFrameReceived l (some ans) n) s ∧ Idles (.ethFrameReceived l none n) s) ∧
    (linkRuns s l = true →
      (Completes (.udpDatagram l ok src sport dst dport ce bs n) s fun t => (t.link l).rxFrames = satAdd y.rxFrames 1) ∧
      (Completes (.pfcFrame l pr true) s fun t => OnlyEther s t ∧ (t.link l).rxFrames = satAdd y.rxFrames 1 ∧
        (t.link l).paused = if bit (linkCfg s l) (12 + pr) then y.paused ||| BitVec.ofNat 8 (2 ^ pr.val) else y.paused) ∧
      (Completes (.pfcFrame l pr false) s fun t => (t.link l).rxFrames = satAdd y.rxFrames 1 ∧
        (t.link l).paused = if bit (linkCfg s l) (12 + pr) then y.paused &&& ~~~(BitVec.ofNat 8 (2 ^ pr.val)) else y.paused) ∧
      Completes (.ethFrameReceived l none n) s dropped ∧
      (Completes (.ethFrameReceived l (some ans) n) s fun t => t.link l = { counted with txFrames := satAdd y.txFrames 1 } ∧ t.out = s.out ++ [.ethAnswer l ans] ∧
        t = { s with ether := { s.ether with links := t.ether.links }, out := t.out }) ∧
      (ok = false ∨ ownAddr s l dst = false → Completes (.udpDatagram l ok src sport dst dport ce bs n) s dropped) ∧
      (ownAddr s l dst = true →
        (dport.toNat = bits (cfgGet s (ethBase + 0x3000)) 15 0 →
          (destFrom s l src sport.toNat = none → Completes (.udpDatagram l true src sport dst dport ce bs n) s dropped) ∧
          (destFrom s l src sport.toNat = some d → headerOk bs = false ∨ byteAt bs 10 ≠ 0 → Completes (.udpDatagram l true src sport dst dport ce bs n) s dropped) ∧
          (destFrom s l src sport.toNat = some d → headerOk bs = true → byteAt bs 10 = 0 → byteAt bs 3 = 1 → Completes (.udpDatagram l true src sport dst dport ce bs n) s fun t =>
            ∃ u, onlyLink counted u ∧ t = dataFrame (.control d) (headWord bs 12) (headWord bs 16) (headWord bs 20) (headWord bs 28) (bit (byteAt bs 11) 1) ce
              ((bs.drop 32).take (fieldAt bs 24 2)) u)) ∧
        (dport.toNat ≠ bits (cfgGet s (ethBase + 0x3000)) 15 0 → dport.toNat = bits (cfgGet s joinOff) 15 0 →
          (memberFrom s l src = none ∨ s.ether.join ≠ .running ∨ headerOk bs = false → Completes (.udpDatagram l true src sport dst dport ce bs n) s dropped) ∧
          (memberFrom s l src = some m → s.ether.join = .running → headerOk bs = true →
            (byteAt bs 3 = 3 → Completes (.udpDatagram l true src sport dst dport ce bs n) s fun t => ∃ u, onlyLink counted u ∧ t = helloRecv m { joinId := headWord bs 4, src := byteAt bs 8, epoch := headWord bs 28, members := byteAt bs 32, glbId := headWord bs 36, image := headWord bs 40 } u) ∧
            (byteAt bs 3 = 5 → Completes (.udpDatagram l true src sport dst dport ce bs n) s fun t => ∃ u, onlyLink counted u ∧ t = leaveRecv m u) ∧
            (byteAt bs 3 = 2 → byteAt bs 10 = 1 → Completes (.udpDatagram l true src sport dst dport ce bs n) s fun t => ∃ u, onlyLink counted u ∧
              t = ackFrame (.tensor m) (headWord bs 16) (headWord bs 20) (headWord bs 28) (bit (byteAt bs 11) 1) ce u))) ∧
        (dport.toNat ≠ bits (cfgGet s (ethBase + 0x3000)) 15 0 → dport.toNat ≠ bits (cfgGet s joinOff) 15 0 →
          (rtpSessions s l dport.toNat = [] → rtpSessions s l (dport.toNat - 1) = [] → Completes (.udpDatagram l true src sport dst dport ce bs n) s dropped) ∧
          (rtpSessions s l dport.toNat = [i.val] → parseRtp bs = some k → Completes (.udpDatagram l true src sport dst dport ce bs n) s fun t => ∃ u, onlyLink counted u ∧ t = rtpPacket i k u)))) ∧
    (linkRuns s lk = false → Idles (.rtpPacket i k) s ∧ Idles (.rtcpSenderReport i w ntp ts) s ∧ Idles (.rtcpReportTimer i) s) ∧
    (linkRuns s lk = true → Completes (.rtpPacket i k) s heardOn ∧ Completes (.rtcpSenderReport i w ntp ts) s heardOn) ∧
    (rtpLive s i = false → Idles (.rtpGapTimeout i) s ∧ Idles (.rtcpReportTimer i) s ∧ Idles (.rtspReply i ok pt bs) s ∧ Idles (.rtspRetryTimer i) s ∧
      Idles (.rtspKeepaliveTimer i) s ∧
      (linkRuns s lk = true → Completes (.rtpPacket i k) s (heardRtp r) ∧ Completes (.rtcpSenderReport i w ntp ts) s (heardRtp r))) ∧
    (rtpLive s i = true → linkRuns s lk = true →
      (r.matches k.version k.pt k.ssrc = false → Completes (.rtpPacket i k) s (heardRtp { r with late := satAdd r.late 1 })) ∧
      (r.matches k.version k.pt k.ssrc = true →
        (2 ^ 15 ≤ gap → Completes (.rtpPacket i k) s (heardRtp { r with ssrc := some k.ssrc, late := satAdd r.late 1 })) ∧
        (0 < gap → gap < 2 ^ 15 → r.held.length < 64 →
          ((∃ q ∈ r.held, q.seq = e + gap) → Completes (.rtpPacket i k) s (heardRtp { r with ssrc := some k.ssrc, late := satAdd r.late 1 })) ∧
          ((∀ q ∈ r.held, q.seq ≠ e + gap) → Completes (.rtpPacket i k) s (heardRtp { r with ssrc := some k.ssrc, next := some e, heldAt := (if r.held = [] then s.now else r.heldAt), held := insertBy (·.seq) { seq := e + gap, ts := k.ts, marker := k.marker, payload := k.payload } r.held }))) ∧
        (gap = 0 → r.held = [] → r.auTs = none ∨ r.auTs = some k.ts → k.marker = false → (s.ses i).h265 = false → 1 ≤ (byteAt k.payload 0).toNat % 32 → (byteAt k.payload 0).toNat % 32 ≤ 23 →
          Completes (.rtpPacket i k) s (heardRtp { r with ssrc := some k.ssrc, auTs := some k.ts, next := some (e + 1), au := r.au ++ (startCode ++ k.payload) }))) ∧
      ((if r.ssrcReq ≠ 0 then some r.ssrcReq else r.ssrc) = some w → Completes (.rtcpSenderReport i w ntp ts) s (heardRtp { r with sr := some (ntp.toNat, extendTs r.lastTs ts) })) ∧
      ((if r.ssrcReq ≠ 0 then some r.ssrcReq else r.ssrc) ≠ some w → Completes (.rtcpSenderReport i w ntp ts) s (heardRtp r)) ∧
      (Completes (.rtcpReportTimer i) s fun t => t = { s with ether := { s.ether with links := t.ether.links }, out := s.out ++ [.rtcp lk i] } ∧
        t.link lk = { s.link lk with txFrames := satAdd (s.link lk).txFrames 1 } ∧ ∀ q, q ≠ lk → t.link q = s.link q)) ∧
    (rtpLive s i = true →
      (r.held ≠ [] → Completes (.rtpGapTimeout i) s fun t => t.cfg = s.cfg ∧ t.jobs = s.jobs) ∧
      (r.held = [] ∨ r.next = none → Idles (.rtpGapTimeout i) s) ∧
      (r.held = [h] → r.next = some z → r.auTs = none → h.marker = false → Completes (.rtpGapTimeout i) s fun t => t = { s with ether := { s.ether with rtps := t.ether.rtps } } ∧
        (t.rtp i).lost = satAdd r.lost (h.seq - z) ∧ (t.rtp i).held = [] ∧ (t.rtp i).auBad = true ∧ (t.rtp i).disc = true ∧ (t.rtp i).next = some (h.seq + 1)) ∧
      (r.rtsp = 0 ∨ r.rtsp = 4 → Idles (.rtspReply i ok pt bs) s) ∧
      (r.rtsp ≠ 0 → r.rtsp ≠ 4 → Completes (.rtspReply i false pt bs) s (onlyRtp { r with rtsp := 4 })) ∧
      (r.rtsp = 1 → Completes (.rtspReply i true pt bs) s (asks { r with rtsp := 2, pt := some pt, sprop := bs } .setup)) ∧
      (r.rtsp = 2 → Completes (.rtspReply i true pt bs) s (asks { r with rtsp := 3, spropDue := decide (r.sprop ≠ []) } .play)) ∧
      (r.rtsp = 3 → Idles (.rtspReply i true pt bs) s ∧ Completes (.rtspKeepaliveTimer i) s (asks r .getParameter)) ∧
      (r.rtsp ≠ 3 → Idles (.rtspKeepaliveTimer i) s) ∧
      (r.rtsp = 4 → Completes (.rtspRetryTimer i) s (asks { r with rtsp := 1 } .describe)) ∧
      (r.rtsp ≠ 4 → Idles (.rtspRetryTimer i) s))

/-- The datagram layer and the join (R391–R398, Tables 15.2, 15.5, 15.6), while the Ethernet ports are powered. What
comes on a link that does not run is not received. Of a flow with nothing queued, frames are accepted in order while
there is a buffer, acknowledged by the eighth or by the timer, and counted or answered out of order; acknowledgements
free frames and move the window; what is unacknowledged is sent again with a doubling timeout; a stalled destination
is probed. Members that exchange tensors with no job follow HELLO, LEAVE and their timers, and the join its states.
Choices of the model in it: assumption logs 33, 35, 38, 39, 75 and 83. -/
def Obligations.FlowsAndMembersFollowTheirStates : Prop :=
  ∀ (id : FlowId) (d : Fin 16) (m : Fin 8) (seq ack limit ep : Word) (more ece ce : Bool) (bs : List Byte) (h : HelloIn) (fr : TxFrame) (rest : List TxFrame) (s : State),
    portsPowered s = true →
    let f := s.flow id
    let x := s.member m
    let y := s.dest d
    let e := s.ether
    let n := seqDist ack f.oldest
    let settled := (∃ c, id = .control c ∧ (s.qp (destQp s c)).state ≠ .running) ∨ ∀ c, id ≠ .control c
    let unstalled := ∀ c, id = .control c → (s.dest c).stalled = false
    let noJobs := ∀ j ∈ liveJobs s, exchangesWith s m j.2 = false
    let became := fun (st : MemberState) (t : State) => (t.member m).state = st ∧ (t.member m).cfg = x.cfg ∧ t.cfg = s.cfg ∧ t.dram = s.dram ∧
      ∀ q, q ≠ m.val → t.member q = s.member q
    let comes := ∀ l, flowLink s id = some l → linkRuns s l = true
    let near := linkRuns s (bits x.cfg 29 27) = true
    let heardOnly := fun (t : State) => OnlyEther s t ∧ t.member m = x ∧ ∀ q, q ≠ m.val → t.member q = s.member q
    let lim := if seqDist limit f.limit < 2 ^ 31 then limit else f.limit
    let tmo := if n = 0 then f.timeout else 200
    (¬ comes → Idles (.dataFrame id seq ack limit ep more ece ce bs) s ∧ Idles (.ackFrame id ack limit ep ece ce) s) ∧
    ((∀ v, flowLive s id v = false) → f.rx = [] → Idles (.ackTimer id) s) ∧
    (comes → flowLive s id ep = false → Completes (.dataFrame id seq ack limit ep more ece ce bs) s (fun t => OnlyEther s t ∧ t.flow id = f) ∧
      Completes (.ackFrame id ack limit ep ece ce) s (fun t => OnlyEther s t ∧ t.flow id = f)) ∧
    (Completes (.dataFrame id seq ack limit ep more ece ce bs) s fun t => t.image = s.image) ∧
    (Completes (.ackFrame id ack limit ep ece ce) s fun t => t.image = s.image ∧ t.dram = s.dram) ∧
    (Completes (.ackTimer id) s fun t => t.image = s.image) ∧
    (comes → flowLive s id ep = true → f.queue = [] →
      (seq = f.expected → ack = f.oldest → f.rx.length < flowBuffers id → settled →
        (f.accepted < 7 → Completes (.dataFrame id seq ack limit ep more false ce bs) s fun t => (t.flow id).expected = f.expected + 1 ∧ (t.flow id).accepted = f.accepted + 1 ∧
          (t.flow id).ece = (f.ece || ce) ∧ (t.flow id).unacked = f.unacked ∧ (∀ c, id = .control c → (t.flow id).rx = f.rx ++ [bs] ∧ t.out = s.out)) ∧
        (7 ≤ f.accepted → flowUp s id = true → Completes (.dataFrame id seq ack limit ep more false ce bs) s fun t => (t.flow id).expected = f.expected + 1 ∧ (t.flow id).accepted = 0 ∧
          (t.flow id).ece = false)) ∧
      (seq = f.expected → ack = f.oldest → flowBuffers id ≤ f.rx.length → Completes (.dataFrame id seq ack limit ep more false ce bs) s fun t => (t.flow id).expected = f.expected ∧ (t.flow id).rx = f.rx) ∧
      (seq ≠ f.expected → ack = f.oldest → seqDist seq f.expected < 2 ^ 31 → Completes (.dataFrame id seq ack limit ep more false ce bs) s fun t => (t.flow id).early = satAdd f.early 1 ∧
        (t.flow id).expected = f.expected ∧ (t.flow id).rx = f.rx ∧ t.out = s.out) ∧
      (2 ^ 31 ≤ seqDist seq f.expected → ack = f.oldest → flowUp s id = true → Completes (.dataFrame id seq ack limit ep more false ce bs) s fun t => (t.flow id).expected = f.expected ∧
        (t.flow id).rx = f.rx ∧ ∃ o, t.out = s.out ++ [o]) ∧
      (n ≤ f.unacked.length → unstalled →
        (f.grown + n < f.w → Completes (.ackFrame id ack limit ep false ce) s fun t => OnlyEther s t ∧
          t.flow id = { f with ece := f.ece || ce, unacked := f.unacked.drop n, timeout := tmo, limit := lim, grown := f.grown + n }) ∧
        (f.w ≤ f.grown + n → Completes (.ackFrame id ack limit ep false ce) s fun t => OnlyEther s t ∧
          t.flow id = { f with ece := f.ece || ce, unacked := f.unacked.drop n, timeout := tmo, limit := lim, grown := 0, w := min 64 (f.w + 1) }) ∧
        (f.cutAt = none → Completes (.ackFrame id ack limit ep true ce) s fun t => OnlyEther s t ∧
          t.flow id = { f with ece := f.ece || ce, unacked := f.unacked.drop n, timeout := tmo, limit := lim, grown := 0, w := max 4 (f.w / 2), cutAt := some s.now })) ∧
      (f.rx = [] → flowUp s id = true → Completes (.ackTimer id) s fun t => (t.flow id).accepted = 0 ∧ (t.flow id).expected = f.expected ∧ ∃ o, t.out = s.out ++ [o])) ∧
    (f.unacked = [] ∨ (∃ c, id = .control c ∧ (s.dest c).stalled = true) → Idles (.retxTimeout id) s) ∧
    (f.unacked ≠ [] → unstalled →
      (Completes (.retxTimeout id) s fun t => (t.flow id).timeout = min 1600 (2 * f.timeout) ∧ (t.flow id).unacked = f.unacked ∧
        t.out.length = s.out.length + if flowUp s id then f.unacked.length else 0)) ∧
    (destOn s d = false ∨ y.stalled = true ∨ y.flow.unacked = [] → Idles (.ccStallTimeout d) s) ∧
    (destOn s d = true → y.stalled = false → y.flow.unacked ≠ [] → Completes (.ccStallTimeout d) s fun t => t.dest d = { y with stalled := true } ∧ ∀ q, q ≠ d.val → t.dest q = s.dest q) ∧
    (destOn s d = false ∨ y.stalled = false ∨ flowUp s (.control d) = false ∨ y.flow.unacked = [] → Idles (.ccProbeTimer d) s) ∧
    (destOn s d = true → y.stalled = true → flowUp s (.control d) = true → y.flow.unacked = fr :: rest → Completes (.ccProbeTimer d) s fun t => (t.dest d).retx = satAdd y.retx 1 ∧
      (t.dest d).stalled = true ∧ (t.dest d).flow.unacked = fr :: rest ∧ ∃ o, t.out = s.out ++ [o]) ∧
    (¬ near → Idles (.hello m h) s ∧ Idles (.leave m) s) ∧
    (near → e.join ≠ .running ∨ memberOn s m = false ∨ x.state = .down → Completes (.hello m h) s heardOnly) ∧
    (near → e.join ≠ .running ∨ x.state ≠ .up → Completes (.leave m) s heardOnly) ∧
    (e.join ≠ .running → Idles (.helloTimer m) s ∧ Idles (.memberTimeout m) s) ∧
    (e.join = .running →
      (near → memberOn s m = true → noJobs →
        (x.state ∈ [.probing, .lost, .refused] → helloReason s m h = 0 → Completes (.hello m h) s fun t => became .up t ∧ (t.member m).epoch = h.epoch ∧ (t.member m).tensor.next = 0 ∧
          (t.member m).tensor.expected = 0 ∧ (t.member m).image.next = 0 ∧ (t.member m).reason = 0) ∧
        (x.state = .probing → helloReason s m h ≠ 0 → Completes (.hello m h) s fun t => became .refused t ∧ (t.member m).reason = BitVec.ofNat 8 (helloReason s m h)) ∧
        (x.state = .lost ∨ x.state = .refused → helloReason s m h ≠ 0 → Completes (.hello m h) s heardOnly) ∧
        (x.state = .up → h.epoch = x.epoch → Completes (.hello m h) s heardOnly) ∧
        (x.state = .up → h.epoch ≠ x.epoch → Completes (.hello m h) s fun t => became .lost t ∧ (t.member m).tensor.unacked = [] ∧ (t.member m).tensor.queue = [])) ∧
      (x.state = .up → noJobs → (near → Completes (.leave m) s fun t => became .probing t ∧ (t.member m).tensor.unacked = []) ∧
        Completes (.memberTimeout m) s fun t => became .lost t ∧ (t.member m).tensor.unacked = [] ∧ (t.member m).image.queue = []) ∧
      (x.state ≠ .up → Idles (.memberTimeout m) s) ∧
      (x.state = .up ∨ x.state = .down ∨ linkRuns s (bits x.cfg 29 27) = false → Idles (.helloTimer m) s) ∧
      (x.state ∈ [.probing, .lost, .refused] → linkRuns s (bits x.cfg 29 27) = true → Completes (.helloTimer m) s fun t => OnlyEther { s with out := t.out } t ∧ t.member m = x ∧
        ∃ o, t.out = s.out ++ [o])) ∧
    (Serving s →
      (e.join ∈ [.running, .stoppingPendingEnable] → Idles .joinEnable s) ∧
      (e.join ∈ [.disabled, .stopping] → Idles .joinDisable s) ∧
      (e.join = .stopping → Completes .joinEnable s fun t => t = { s with ether := { e with join := .stoppingPendingEnable } }) ∧
      (e.join = .stoppingPendingEnable → Completes .joinDisable s fun t => t = { s with ether := { e with join := .stopping } }) ∧
      (e.join = .disabled → (∀ q, (s.member q).state ≠ .up) → Completes .joinEnable s fun t => t.ether.join = .running ∧ t.ether.joinCfg = cfgGet s joinOff ∧
        t.ether.joinId = cfgGet s (joinOff + 0xC) ∧ t.ether.joinEntries = e.joinEntries + 1 ∧ (t.member m).cfg = cfgGet s (peerOff m) ∧
        (t.member m).state = (if bit (cfgGet s (peerOff m)) 31 = true ∧ m.val ≠ bits (cfgGet s joinOff) 18 16 then .probing else x.state) ∧ t.cfg = s.cfg) ∧
      (e.join = .running → liveJobs s = [] → Completes .joinDisable s fun t => t.ether.join = .stopping ∧ (t.member m).state = (if memberOn s m then .down else x.state) ∧
        (x.state = .up → memberOn s m = true → (t.member m).leaveSent = true) ∧ t.cfg = s.cfg)) ∧
    ((∃ j ∈ liveJobs s, ∃ a, j.2.adapt = some a ∧ a.lead ≠ 0xFF) ∨ e.join ∈ [.disabled, .running] → Idles .joinShutdownComplete s) ∧
    ((∀ j ∈ liveJobs s, ∀ a, j.2.adapt = some a → a.lead = 0xFF) → e.join = .stopping → Completes .joinShutdownComplete s fun t => t = { s with ether := { e with join := .disabled } }) ∧
    ((∀ j ∈ liveJobs s, ∀ a, j.2.adapt = some a → a.lead = 0xFF) → e.join = .stoppingPendingEnable → Completes .joinShutdownComplete s fun t =>
      t.ether.join = .running ∧ t.ether.joinCfg = cfgGet s joinOff ∧ t.ether.joinEntries = e.joinEntries + 1)

/-! ### The recorder, soot, engine resets -/

/-- The event recorder and soot (R405, R412–R421, Table 16.6), whose flash rows run whether or not the root clocks
do: each of them changes the recorder alone. Flushes and checkpoints start or fall due; a flush that ends leaves its
records at their places in flash, and one that ends a sector starts the erase ahead; an erased sector reads as no
record; a checkpoint stands in its copy; budgets refill; a second of a powered device counts in the totals; a
watchdog timeout is recorded; the windows show what was loaded and snapped. Choices of the model in it: assumption
log 14. -/
def Obligations.RecorderKeepsRecords : Prop :=
  ∀ (up : Word) (k : Nat) (c : SootCopy) (pg : Fin 1024) (m : Byte) (s : State),
    let r := s.recorder
    let to_ := fun (x : Recorder) (t : State) => t = { s with recorder := x }
    let still := r.flushDue = false ∧ r.ckptDue = false ∧ r.eraseAgain = []
    let blocked := flashIdle r = false ∨ r.seqFlushed.toNat % 131072 / 2048 ∈ r.eraseAgain
    let n := seqDist up r.seqFlushed
    let place := fun (i : Nat) => (r.seqFlushed + BitVec.ofNat 32 i).toNat % 131072
    let landed := fun (t : State) => (∀ i, i < n → Table.get none t.recorder.flash (place i) = Table.get none r.ring ((r.seqFlushed + BitVec.ofNat 32 i).toNat % 8192)) ∧
      ∀ p, (∀ i, i < n → p ≠ place i) → Table.get none t.recorder.flash p = Table.get none r.flash p
    let written := fun (code : Nat) (t : State) => Table.get 0 r.spent code < 8 → ∃ x, Table.get none t.recorder.ring (r.seqNext.toNat % 8192) = some x ∧ x.code = BitVec.ofNat 16 code
    (∀ i ∈ [Instr.flushTimer, .flushComplete, .eraseComplete, .rateBudgetRefill, .sootCheckpointTimer, .checkpointComplete, .flashPageReady],
      Completes i s fun t => t = { s with recorder := t.recorder }) ∧
    (r.seqNext = r.seqFlushed → Idles .flushTimer s) ∧
    (r.seqNext ≠ r.seqFlushed → blocked → Completes .flushTimer s (to_ { r with flushDue := true })) ∧
    (r.seqNext ≠ r.seqFlushed → ¬ blocked →
      (r.lostSince = 0 → Completes .flushTimer s (to_ { r with flushing := some r.seqNext, flushDue := false })) ∧
      (r.lostSince ≠ 0 → Completes .flushTimer s fun t => t = { s with recorder := t.recorder } ∧ t.recorder.flushing = some (r.seqNext + 1) ∧ t.recorder.lostSince = 0 ∧
        ∃ x, Table.get none t.recorder.ring (r.seqNext.toNat % 8192) = some x ∧ x.code = 0x0D01 ∧ x.arg = BitVec.ofNat 64 r.lostSince)) ∧
    (r.flushing = none → Idles .flushComplete s) ∧
    (r.flushing = some up → still → n ≤ 2048 - r.seqFlushed.toNat % 2048 → seqDist r.seqNext up < 64 →
      (up.toNat % 2048 ≠ 0 → Completes .flushComplete s fun t => landed t ∧ to_ { r with flash := t.recorder.flash, seqFlushed := up, flushing := none, oldestAt := s.now } t) ∧
      (up.toNat % 2048 = 0 → n ≠ 0 → r.erasing = none → r.checkpoint = none → r.pfail = false → Completes .flushComplete s fun t => landed t ∧
        to_ { r with flash := t.recorder.flash, seqFlushed := up, flushing := none, oldestAt := s.now, erasing := some ((up.toNat % 131072 / 2048 + 1) % 64) } t)) ∧
    (r.erasing = none → Idles .eraseComplete s) ∧
    (r.erasing = some k → still → Completes .eraseComplete s fun t => to_ { r with flash := t.recorder.flash, erasing := none } t ∧
      ∀ p, Table.get none t.recorder.flash p = if p / 2048 = k then none else Table.get none r.flash p) ∧
    (Completes .rateBudgetRefill s fun t => to_ { r with spent := t.recorder.spent } t ∧ (Table.wf 0 r.spent = true → ∀ i, Table.get 0 t.recorder.spent i = Table.get 0 r.spent i - 1)) ∧
    (flashIdle r = false → Completes .sootCheckpointTimer s (to_ { r with ckptDue := true })) ∧
    (flashIdle r = true → Completes .sootCheckpointTimer s fun t => Table.get none t.recorder.copies (ckptTarget r) = none ∧
      Table.get none t.recorder.copies (1 - ckptTarget r) = Table.get none r.copies (1 - ckptTarget r) ∧
      to_ { r with ckptDue := false, copies := t.recorder.copies, checkpoint := some (ckptTarget r, { soot := { r.soot with checkpoints := satAdd r.soot.checkpoints 1 }, opSeconds := r.opSeconds, powerCycles := r.powerCycles }) } t) ∧
    (r.checkpoint = none → Idles .checkpointComplete s) ∧
    (r.checkpoint = some (k, c) → still → Completes .checkpointComplete s fun t => Table.get none t.recorder.copies k = some c ∧ (∀ i, i ≠ k → Table.get none t.recorder.copies i = Table.get none r.copies i) ∧
      to_ { r with copies := t.recorder.copies, checkpoint := none, sootAge := 0, soot := { r.soot with checkpoints := c.soot.checkpoints } } t) ∧
    (Serving s →
      (r.loading = true → Completes (.flashPageLoad pg) s fun t => t = recordWrite flashPageOff (BitVec.ofNat 32 (2 ^ 31 + pg)) s ∧ t.recorder.loading = true) ∧
      (r.loading = false → Completes (.flashPageLoad pg) s fun t => t = { s with cfg := t.cfg, recorder := { r with loading := true } } ∧ cfgGet t flashPageOff = BitVec.ofNat 32 pg) ∧
      Completes .sootSnap s (to_ { r with sootWin := some { soot := r.soot, opSeconds := r.opSeconds, powerCycles := r.powerCycles } })) ∧
    (r.loading = false → Idles .flashPageReady s) ∧
    (r.loading = true → Completes .flashPageReady s fun t => to_ { r with loading := false, flashWin := t.recorder.flashWin } t ∧
      ∀ i, Table.get none t.recorder.flashWin i = if i < 128 then Table.get none r.flash (128 * bits (cfgGet s flashPageOff) 9 0 + i) else none) ∧
    (s.power.state = .cold → Idles .opSecondTick s ∧ Idles (.mantelWatchdogTimeout m) s) ∧
    (s.power.state ≠ .cold →
      (clocked s = true → Completes (.mantelWatchdogTimeout m) s fun t => OnlyRecord s t ∧ written 0x0303 t) ∧
      Completes .opSecondTick s fun t => t.recorder.opSeconds = satAdd r.opSeconds 1 ∧ t.recorder.sootAge = satAdd r.sootAge 1 ∧
        (∀ i, Table.get 0 t.recorder.soot.tempHist i = if i = tempBin (logicMax s) then satAdd (Table.get 0 r.soot.tempHist i) 1 else Table.get 0 r.soot.tempHist i) ∧
        (∀ i, Table.get 0 t.recorder.soot.classTime i = if (s.power.state = .lit ∧ i = s.boot.fuses.cls) ∨ (s.power.state = .banked ∧ i = 3)
          then satAdd (Table.get 0 r.soot.classTime i) 1 else Table.get 0 r.soot.classTime i) ∧
        to_ { r with opSeconds := t.recorder.opSeconds, sootAge := t.recorder.sootAge, soot := { r.soot with tempHist := t.recorder.soot.tempHist, classTime := t.recorder.soot.classTime } } t)

/-- Engine resets (R258, R406, R267), while the root clocks run: a hung engine with work is recorded, and one without
has nothing to reset. A decode core gives up its unit, and a picture with units left is concealed; the one picture of
an encode core that fits goes out as the fallback picture; a scaler's one started job without slots ends, counted.
Choices of the model in it: assumption logs 61 and 82. -/
def Obligations.HungEnginesAreReset : Prop :=
  ∀ (g : Fin 40) (e : Fin 4) (k : Fin 8) (data : List Byte) (j u : Nat) (p : Pic) (q : EncPic) (r : MediaReq) (y : ScJob) (qs : List EncPic)
    (blocks : List PicBlock) (s : State), clocked s = true →
    let d := s.dec g
    let x := s.enc e
    let c := s.scl k
    let written := fun (t : State) => Table.get 0 s.recorder.spent 0x0801 < 8 → ∃ v, Table.get none t.recorder.ring (s.recorder.seqNext.toNat % 8192) = some v ∧
      v.code = 0x0801 ∧ v.id = BitVec.ofNat 16 g
    (g.val < 16 → d.work = some (j, u) → (s.ses j).pic = some p → p.stage = .decoding → Completes (.engineHangTimeout g blocks data) s fun t =>
      written t ∧ (t.dec g).work = none) ∧
    (g.val = 16 + e.val → s.media.requests.find? (fun z => decide (z.core = some e.val)) = some r → r.queue = q :: qs →
      Completes (.engineHangTimeout g blocks data) s written) ∧
    (g.val = 32 + k.val → y ∈ c.jobs → y.started = true → Completes (.engineHangTimeout g blocks data) s written) ∧
    (20 ≤ g.val → g.val < 32 → Idles (.engineHangTimeout g [] data) s) ∧
    (g.val < 16 →
      (d.work = none → Idles (.engineHangTimeout g [] data) s) ∧
      (d.work = some (j, u) → (s.ses j).pic = some p → p.stage ≠ .decoding → Idles (.engineHangTimeout g [] data) s) ∧
      (d.work = some (j, u) → (s.ses j).pic = some p → p.stage = .decoding → p.done + 1 < picUnits (s.ses j) p → d.leaving = false → d.state = .busy → (s.ses j).state = .running →
        Completes (.engineHangTimeout g [] data) s fun t => t.dec g = { d with state := .idle, work := none } ∧ written t ∧ t.dram = s.dram ∧
          (t.ses j).pic = some { p with done := p.done + 1, cores := g.val :: p.cores, broken := true, concealed := true, anyOk := p.anyOk && decide (1 < picUnits (s.ses j) p) } ∧
          ∀ z, z ≠ g.val → t.dec z = s.dec z)) ∧
    (g.val = 16 + e.val →
      ((∀ z ∈ s.media.requests, z.core ≠ some e.val) → Idles (.engineHangTimeout g [] data) s) ∧
      (s.media.requests = [r] → r.core = some e.val → r.queue = [q] → encCodec r.params ≠ 2 → encMode r.params = 0 → r.clip = true → r.state = .recording →
        r.bytes + data.length ≤ r.dstBytes → x.state = .busy → Completes (.engineHangTimeout g [] data) s fun t => written t ∧
          t.enc e = { x with fallback := satAdd x.fallback 1, pictures := satAdd x.pictures 1, state := .idle } ∧
          t.dram = (dramPut (groupBase s (s.ses r.ses).group + (r.dst.toNat + r.bytes)) data s).dram)) ∧
    (g.val = 32 + k.val →
      ((∀ z ∈ c.jobs, z.started = false) → Idles (.engineHangTimeout g [] data) s) ∧
      (c.jobs = [y] → y.started = true → y.slots = [] → y.pix = .nothing → (∀ z, (s.ses z).pic = none) → (s.grp c.group).cropOn = false → c.leaving = false → c.state = .busy →
        Completes (.engineHangTimeout g [] data) s fun t => written t ∧ (t.scl k).jobs = [] ∧ (t.scl k).state = .idle ∧ (t.scl k).done = satAdd c.done 1 ∧ t.dram = s.dram))

/-! ### Starting, security, updates -/

/-- Starts, confirmation, recovery, attestation, orders and settings (R424–R433, R436–R440, Tables 17.3, 17.6, 17.9,
17.10), while the root clocks run. The loaded firmware starts with the kept settings and the package's image where it
passes its checks; the start ends in Lit once every channel is up and a trial has passed its draw check; a trial is
confirmed, or falls back to a restart. In recovery pieces in order fill slot A, and a package that passes restarts
the device. GO builds the report, which is then signed; an order is refused, takes effect at once or is burned, and
then changes its setting; SAVE keeps the settings. Choices of the model in it: assumption logs 41, 42, 51, 58, 62, 68
and 76. -/
def Obligations.DeviceStartsAndConfirms : Prop :=
  ∀ (faulted : Word) (codec : Bool) (off : Fin 1024) (o : List Byte) (h : Fin 32) (i : Nat) (s : State), clocked s = true →
    let b := s.boot
    let k := b.active
    let slot := b.slot k
    let img := imageCheck b [] (pkgImage slot.data) none
    let rollbackTo := fun (n : Nat) (t : State) => t.boot.fuses = { b.fuses with rollback := b.fuses.rollback + min (n - b.fuses.rollback) b.fuses.rollbackLeft, rollbackLeft := b.fuses.rollbackLeft - min (n - b.fuses.rollback) b.fuses.rollbackLeft }
    let restarts := fun (t : State) => t.power.state = .booting ∧ t.boot.phase = .relock ∧ t.dram = [] ∧ t.boot.fuses = b.fuses ∧ t.pcie.notReady = true ∧ t.jobs = []
    let fellBack := fun (d : Nat) (t : State) => restarts t ∧ (t.boot.slot k).state = .failed ∧ t.boot.updStatus = pack 32 [(16, 0x0907), (8, d), (0, bits b.updStatus 1 0)]
    let piece := (upTo 65536).map (fun i => Table.get 0 b.recWindow i)
    let recD := b.slotA.data.take (pkgBytes b.slotA.data)
    let ordered := fun (n : Nat) (o : List Byte) (t : State) => t.boot.fuses = b.fuses.apply o n ∧ t.boot.order = none ∧ t.boot.orderStatus = orderWord 0 (orderSetting o) true false
    (b.phase ≠ .loaded ∨ s.power.state ≠ .booting → Idles (.firmwareStart faulted []) s) ∧
    (b.phase = .loaded → s.power.state = .booting →
      (slotIn b .confirmed = none → Completes (.firmwareStart faulted []) s fun t => t.boot.phase = .started ∧ t.pcie.notReady = false ∧
        (img ≠ 0 → t.boot.imageBad = true ∧ t.image = s.image ∧ t.pcie.subsystem = b.identity.subsystem ∧ (∀ r ∈ keptSvc, cfgGet t r = Table.get 0 b.settings r) ∧
          (t.hearth h).state = if bit faulted h then .faulted else (s.hearth h).state)) ∧
      (∀ ms, Completes (.firmwareStart faulted ms) s fun t => t.boot.phase = .started ∧ t.pcie.notReady = false) ∧
      (Completes (.firmwareStart faulted []) s fun t => t.boot.phase = .started ∧ t.pcie.notReady = false ∧
        (img = 0 → t.boot.imageBad = b.imageBad ∧ t.image = parseImage (pkgImage slot.data))) ∧
      (∀ c, slotIn b .confirmed = some c → slotIn b .old = none → Completes (.firmwareStart faulted []) s (rollbackTo (slotRollback (b.slot c))))) ∧
    (starting s = false ∨ channelsUp s = false ∨ onTrial s = true ∧ b.drawOk = false → Idles .bootComplete s) ∧
    (starting s = true → channelsUp s = true → onTrial s = false ∨ b.drawOk = true → Completes .bootComplete s fun t => t.power = { s.power with state := .lit } ∧
      t.boot = { b with startFailed := failedChannels s, startFaulted := faultedHearths s, lastFailed := (if onTrial s then b.lastFailed else failedChannels s), lastFaulted := (if onTrial s then b.lastFaulted else faultedHearths s) } ∧ t.dram = s.dram ∧ t.hearths = s.hearths) ∧
    (starting s = false ∨ onTrial s = false ∨ b.drawOk = true ∨ channelsUp s = false → Idles (.drawCheckComplete codec) s) ∧
    (starting s = true → onTrial s = true → b.drawOk = false → channelsUp s = true →
      (drawDetail s codec = 0 → Completes (.drawCheckComplete codec) s fun t => t.boot = { b with drawOk := true, confirmAt := some s.now } ∧ t.dram = s.dram) ∧
      (drawDetail s codec ≠ 0 → Completes (.drawCheckComplete codec) s (fellBack (drawDetail s codec)))) ∧
    (confirming s = false → Idles .confirmTimeout s) ∧
    (confirming s = true → Completes .confirmTimeout s (fellBack 0x10)) ∧
    (Serving s →
      (confirming s = false → Completes .confirm s fun t => t = recordWrite (svcBase + 0x10) 1 s ∧ t.boot = b) ∧
      (confirming s = true → Completes .confirm s fun t => (t.boot.slot k).state = .confirmed ∧ (t.boot.slot k).data = slot.data ∧ t.boot.confirmAt = none ∧ rollbackTo (slotRollback slot) t ∧
        t.boot.lastFailed = b.startFailed ∧ t.boot.lastFaulted = b.startFaulted ∧ t.boot.formats = [pkgFormat slot.data] ∧
        ∀ c, slotIn b .confirmed = some c → (t.boot.slot c).state ∈ [.old, .failed]) ∧
      (Completes (.recoveryWrite off) s fun t => t.boot = b) ∧ (Completes (.recoveryEnd off) s fun t => t.boot = b) ∧
      (b.attestBusy = true → Completes .attestGo s fun t => t = recordWrite attestCtrlOff 1 s) ∧
      (b.attestBusy = false → Completes .attestGo s fun t => t = { s with boot := { b with attestBusy := true, attestReady := false, attest := attestReport s ++ b.attest.drop 256 } }) ∧
      (b.order = some o → Completes .orderSubmit s fun t => t = recordWrite orderCtrlOff 1 s) ∧
      (b.order = none → Completes .orderSubmit s fun t => t.fresh = s.fresh + 1 ∧
        (orderStatusOf s (orderBytes s) ≠ 0 →
          t.boot = { b with nonce := t.boot.nonce, orderStatus := orderWord (orderStatusOf s (orderBytes s)) (orderSetting (orderBytes s)) false false }) ∧
        (orderStatusOf s (orderBytes s) = 0 → orderPresent b.fuses (orderBytes s) = true → ordered 0 (orderBytes s) t) ∧
        (orderStatusOf s (orderBytes s) = 0 → orderPresent b.fuses (orderBytes s) = false →
          t.boot = { b with nonce := t.boot.nonce, order := some (orderBytes s), orderStatus := orderWord 0 (orderSetting (orderBytes s)) false true })) ∧
      (Completes .settingsSave s fun t => t = { s with boot := { b with settings := t.boot.settings } } ∧ (∀ r ∈ keptSvc, Table.get 0 t.boot.settings r = cfgGet s r) ∧
        (i ∉ keptSvc → Table.get 0 t.boot.settings i = Table.get 0 b.settings i))) ∧
    (s.power.state = .recovery → s.pcie.notReady = false →
      (off.val = b.recNext → off.val < 896 → Completes (.recoveryWrite off) s fun t => t.dram = s.dram ∧
        t.boot = { b with slotA := { state := .writing, attempts := 0, data := (if off.val = 0 then [] else b.slotA.data) ++ piece }, recNext := off.val + 1 }) ∧
      (off.val ≠ b.recNext ∨ 896 ≤ off.val → Completes (.recoveryWrite off) s fun t => t.boot = b) ∧
      Completes (.recoveryEnd off) s fun t =>
        (slotOk b recD = true → restarts t ∧ t.boot.slotA = { state := .pending, attempts := 0, data := recD }) ∧
        (slotOk b recD = false → t.boot = { b with slotA := Slot.dflt, recNext := 0, updStatus := pack 32 [(16, 0x0904), (8, 0), (0, 2)] } ∧ t.power = s.power)) ∧
    (b.attestBusy = false → Idles .attestReady s) ∧
    (b.attestBusy = true → Completes .attestReady s fun t => t = { s with boot := { b with attestBusy := false, attestReady := true, attest := b.attest.take 256 ++ fitBytes 384 (Config.attestSign (b.attest.take 256)) } }) ∧
    (b.order = none → Idles .fuseBurnComplete s) ∧
    (b.order = some o → Completes .fuseBurnComplete s fun t => ordered 1 o t ∧
      (orderSetting o = 1 → t.boot.fuses = { b.fuses with cls := orderValue o, clsLeft := b.fuses.clsLeft - 1 }) ∧
      (orderSetting o = 2 → t.boot.fuses = { b.fuses with owner := decide (orderValue o = 1), ownerLeft := b.fuses.ownerLeft - 1 }) ∧
      (orderSetting o = 3 → orderRegion o < 32 → bit t.boot.fuses.locked (orderRegion o) = decide (orderValue o = 1) ∧ lockLeft t.boot.fuses (orderRegion o) = lockLeft b.fuses (orderRegion o) - 1 ∧
        t.boot.fuses.cls = b.fuses.cls ∧ t.boot.fuses.revoked = b.fuses.revoked) ∧
      (orderSetting o = 4 → orderValue o < 4 → bit t.boot.fuses.revoked (orderValue o) = true ∧ t.boot.fuses.revokedLeft = b.fuses.revokedLeft - 1 ∧ t.boot.fuses.cls = b.fuses.cls))

/-- Updates (R434, R435, R441, Tables 17.8, 17.9), while the root clocks run; no row of a transfer but CONFIRM
changes a fuse. An offer is accepted into the slot that does not run or refused with its status; chunks of the update
under way fill it in order, and one out of order, an END too soon or 10 s without one end the update and empty its
slot; a package that passes its checks is PENDING, and is offered to the next member where the chain is enabled; that
member's answers are followed. Choices of the model in it: assumption logs 49 and 76. -/
def Obligations.UpdatesFollowTheirTransfer : Prop :=
  ∀ (id : FlowId) (m : Fin 8) (v : Word) (off len : Nat) (d : List Byte) (ok : Bool) (f : Forward) (k : Nat) (s u : State), clocked s = true →
    let x := s.boot.update
    let op := fun (n : Nat) => takeOp id n s = some ((v, off, len, d), u)
    let mine := x.flow = id ∧ x.transfer = v
    let free := 1 - s.boot.active
    let upd := fun (y : Update) (t : State) => t.boot = { s.boot with update := y }
    let failed := fun (st : Nat) (t : State) => t.boot.update.state = .idle ∧ t.boot.slot x.slot = Slot.dflt ∧ t.boot.updStatus = pack 32 [(16, st), (8, 0), (0, updSource x.flow)] ∧
      t.boot.fuses = s.boot.fuses ∧ t.dram = s.dram
    (∀ i ∈ [Instr.updateOffer id, .updateChunk id, .updateEnd id, .updateVerifyComplete ok, .updateResult id, .updateAbortOp id, .chunkTimeout],
      Completes i s fun t => t.boot.fuses = s.boot.fuses ∧ t.dram = s.dram) ∧
    (takeOp id 1 s = none → Idles (.updateOffer id) s) ∧ (takeOp id 2 s = none → Idles (.updateChunk id) s) ∧ (takeOp id 3 s = none → Idles (.updateEnd id) s) ∧
    (takeOp id 4 s = none → Idles (.updateResult id) s) ∧ (takeOp id 5 s = none → Idles (.updateAbortOp id) s) ∧ (takeOp id 6 s = none → Idles (.updateConfirmOp id) s) ∧
    (op 1 →
      (updFrom s id = false → Completes (.updateOffer id) s fun t => t = u) ∧
      (updFrom s id = true → offerStatus s len d ≠ 0 → Completes (.updateOffer id) s fun t =>
        t.boot = { s.boot with updStatus := pack 32 [(16, offerStatus s len d), (8, 0), (0, updSource id)] } ∧ t.dram = s.dram) ∧
      (updFrom s id = true → offerStatus s len d = 0 → Completes (.updateOffer id) s fun t => t.boot.slot free = { state := .writing, attempts := 0, data := d.take 576 } ∧
        t.boot.update = { state := .receiving, flow := id, transfer := v, slot := free, rxBytes := 576, pkgBytes := len } ∧ t.boot.fuses = s.boot.fuses ∧ t.boot.active = s.boot.active)) ∧
    (op 2 →
      (x.state ≠ .receiving ∨ ¬ mine → Completes (.updateChunk id) s fun t => t = u) ∧
      (x.state = .receiving → mine →
        (off = x.rxBytes → len = d.length → x.rxBytes + len ≤ x.pkgBytes → Completes (.updateChunk id) s fun t => t.boot.update = { x with rxBytes := x.rxBytes + len } ∧
          t.boot.slot x.slot = { s.boot.slot x.slot with data := (s.boot.slot x.slot).data ++ d } ∧ t.boot.fuses = s.boot.fuses ∧ t.boot.updStatus = s.boot.updStatus) ∧
        (off ≠ x.rxBytes ∨ len ≠ d.length ∨ x.pkgBytes < x.rxBytes + len → Completes (.updateChunk id) s (failed 0x0904)))) ∧
    (op 3 →
      (x.state ≠ .receiving ∨ ¬ mine → Completes (.updateEnd id) s fun t => t = u) ∧
      (x.state = .receiving → mine →
        (x.rxBytes = x.pkgBytes → Completes (.updateEnd id) s (upd { x with state := .verifying })) ∧
        (x.rxBytes ≠ x.pkgBytes → Completes (.updateEnd id) s (failed 0x0904)))) ∧
    (x.state ≠ .verifying → Idles (.updateVerifyComplete ok) s) ∧
    (x.state = .verifying →
      (let g := (s.boot.slot x.slot).data
       let good := pkgSigned s.boot g = true ∧ imageCheck s.boot [] (pkgImage g) none = 0 ∧ ok = true
       Completes (.updateVerifyComplete ok) s fun t =>
         (good → t.boot.slot x.slot = { state := .pending, attempts := 0, data := g } ∧ t.boot.update = { x with state := .idle } ∧
           t.boot.fuses = s.boot.fuses) ∧
         (¬ good → failed 0x0904 t))) ∧
    (op 4 → id = .image m →
      (s.boot.forward = none → Completes (.updateResult id) s fun t => t = u) ∧
      (s.boot.forward = some f → f.member = m.val → f.transfer = v →
        (len % 65536 = 0 → f.accepted = false → pendingSlot s = some k → Completes (.updateResult id) s fun t => t.boot = { s.boot with forward := some { f with accepted := true } }) ∧
        (len % 65536 ≠ 0 ∨ f.accepted = true → Completes (.updateResult id) s fun t => t.boot = { s.boot with forward := none }))) ∧
    (op 5 →
      (x.state ≠ .idle → mine → Completes (.updateAbortOp id) s fun t => t.boot.update.state = .idle ∧ t.boot.slot x.slot = Slot.dflt ∧ t.fresh = s.fresh + 1 ∧ t.boot.fuses = s.boot.fuses) ∧
      (x.state = .idle → id = .image m → s.boot.forward = some f → f.member = m.val → f.transfer = v → Completes (.updateAbortOp id) s fun t =>
        t.boot = { s.boot with forward := none } ∧ t.fresh = s.fresh + 1)) ∧
    (op 6 →
      (id ≠ .service → Completes (.updateConfirmOp id) s fun t => t = u) ∧
      (id = .service → Serving s → Completes (.updateConfirmOp id) s fun t => exec .confirm u = .next t)) ∧
    (x.state ≠ .receiving → Idles .chunkTimeout s) ∧
    (x.state = .receiving → Completes .chunkTimeout s (failed 0x0904)) ∧
    (Serving s →
      (pendingSlot s = none → Idles .updateForward s) ∧
      (pendingSlot s = some k → joinSelf s + 1 = m.val → bit (cfgGet s (svcBase + 0x24)) 0 = true → (s.member m).state = .up → Completes .updateForward s fun t =>
        ∃ w, t.boot = { s.boot with forward := some { member := m, transfer := w, accepted := false } } ∧ t.fresh = s.fresh + 1) ∧
      (7 ≤ joinSelf s ∨ bit (cfgGet s (svcBase + 0x24)) 0 = false → Idles .updateForward s) ∧
      (x.state = .idle → s.boot.forward = none → Idles .updateAbort s) ∧
      (x.state = .idle → s.boot.forward = some f → Completes .updateAbort s fun t => t.boot = { s.boot with forward := none }) ∧
      (x.state ≠ .idle → Completes .updateAbort s fun t => t.boot.update.state = .idle ∧ t.boot.slot x.slot = Slot.dflt ∧ t.boot.fuses = s.boot.fuses ∧ t.fresh = s.fresh + 1))

/-! ### Supplies, power, heat and the sideband -/

/-- Rails, voltage, the power manager, the thermal levels and the pins (R446–R460, R462, R469, Tables 18.5, 18.6): a
low rail sets its bit, alerts and ends an update; each 20 µs step compares the draw with the effective budget and
moves one cap; the levels hold and clear, a throttle level brings a budget, and a second reading at the trip level
gates the clocks. Choices of the model in it: assumption logs 40, 59 and 69. -/
def Obligations.PowerAndHeatAreManaged : Prop :=
  ∀ (rail : Fin 7) (up tripNow : Bool) (mv p : Half) (v : Word) (rs : List Half) (s : State),
    let e := s.elec
    let only := fun (x : Elec) (t : State) => t = { s with elec := x }
    let alert := fun (t : State) => (alertConds t = 0 → t.elec.smbAlert = false) ∧ (alertConds t &&& ~~~(alertConds s) ≠ 0 → t.elec.smbAlert = true) ∧
      (alertConds t ≠ 0 → alertConds t &&& ~~~(alertConds s) = 0 → t.elec.smbAlert = e.smbAlert)
    let cls := classBudget s.boot.fuses.cls
    let b := (effectiveBudget s).1
    let low := if p.toNat + 20 < b then e.belowSteps + 1 else 0
    let raises := p.toNat ≤ b ∧ 50 ≤ low ∧ 50 ≤ e.sinceRaise + 1
    (s.power.state = .cold → Idles (.railLow rail) s ∧ Idles (.railRecovered rail) s ∧ Idles (.avsStep up mv) s ∧ Idles .avsFailure s ∧ Idles (.powerStep p) s ∧ Idles (.thermalSensorRead rs) s) ∧
    (s.power.state ≠ .cold →
      (Completes (.railLow rail) s fun t => t.elec = { e with low := t.elec.low, smbAlert := t.elec.smbAlert } ∧ (∀ i, i < 7 → bit t.elec.low i = (decide (i = rail) || bit e.low i)) ∧
        alert t ∧ t.boot.update.state = .idle ∧ t.dram = s.dram) ∧
      (Completes (.railRecovered rail) s fun t => only { e with low := t.elec.low, smbAlert := t.elec.smbAlert } t ∧ (∀ i, i < 7 → bit t.elec.low i = (!decide (i = rail) && bit e.low i)) ∧ alert t) ∧
      (e.avsFail = false → Completes (.avsStep up mv) s (only { e with vset := (if up then min 800 (e.vset + 5) else max 600 (e.vset - 5)), vmeas := mv.toNat })) ∧
      (e.avsFail = true → Idles (.avsStep up mv) s) ∧
      (Completes .avsFailure s fun t => only { e with avsFail := true, smbAlert := t.elec.smbAlert, caps := { array := min e.caps.array 8, ember := min e.caps.ember 16, dram := min e.caps.dram 8, codec := min e.caps.codec 16 } } t ∧ alert t) ∧
      (Completes (.powerStep p) s fun t => t = { s with elec := t.elec } ∧ t.elec.power = p.toNat ∧ t.elec.samples = (p.toNat :: e.samples).take 50 ∧ t.elec.budget = b ∧
        t.elec.limiter = (effectiveBudget s).2 ∧ 250 ≤ t.elec.budget ∧ t.elec.belowSteps = low ∧ e.peak ≤ t.elec.peak ∧ t.elec.vset = e.vset ∧
        (e.caps.above (capsNow s) = true → t.elec.caps = lowerToClass (capsNow s) e.caps) ∧
        (e.caps.above (capsNow s) = false →
          (b < p.toNat → t.elec.caps = lowerCap e.caps ∧ (4 < e.caps.array → t.elec.caps = { e.caps with array := e.caps.array - 1 }) ∧ t.elec.floor = t.elec.caps.floor) ∧
          (raises → t.elec.caps = raiseCap (capsNow s) e.caps ∧ t.elec.sinceRaise = 0) ∧
          (p.toNat ≤ b → ¬ raises → t.elec.caps = e.caps ∧ t.elec.sinceRaise = e.sinceRaise + 1))) ∧
      (Completes (.thermalSensorRead rs) s fun t => (∀ i, Table.get 0 t.elec.sensors i = if i < 20 then rs[i]?.getD (Table.get 0 e.sensors i) else Table.get 0 e.sensors i) ∧
        (atLevel t 105 95 = true → t.elec.throttleLevel = true) ∧ (atLevel t (alertAt s) 85 = true → t.elec.alertLevel = true) ∧
        (e.throttleLevel = false → atLevel t 105 95 = false → t.elec.throttleLevel = false) ∧
        (e.throttleLevel = true → coolOf t 105 95 = false → t.elec.throttleLevel = true ∧ t.elec.throttleCool = 0) ∧
        (e.throttleLevel = true → atLevel t 105 95 = false → coolOf t 105 95 = true → (t.elec.throttleLevel = false ↔ 1000 ≤ e.throttleCool + 1)) ∧
        (e.throttleLevel = false → t.elec.throttleLevel = true → t.elec.thermBudget = some (e.power - cls / 10)) ∧
        (e.tripWait = false → logicMax t < 460 → dramMax t < 400 → t.power = s.power ∧ t.boot = s.boot ∧ t.elec.tripped = e.tripped ∧ t.elec.tripLogic = 0 ∧ t.elec.tripDram = 0) ∧
        (e.tripWait = false → (460 ≤ logicMax t ∧ 1 ≤ e.tripLogic) ∨ (400 ≤ dramMax t ∧ 1 ≤ e.tripDram) → t.elec.tripped = true ∧ t.elec.tripWait = true ∧ t.elec.pllLocked = false ∧
          t.power.state = .booting ∧ t.boot.phase ∈ [.held, .gated] ∧ t.pcie.dlActive = false) ∧
        (e.tripWait = true → t.power = s.power ∧ (t.elec.tripWait = false ↔ logicMax t ≤ 380 ∧ dramMax t ≤ 340)))) ∧
    (e.thermBudget = none → Idles .thermalBudgetStep s) ∧
    (∀ n, e.thermBudget = some n → Completes .thermalBudgetStep s fun t => only { e with smbAlert := t.elec.smbAlert, thermBudget := (if e.throttleLevel then some (n - cls / 10) else if cls ≤ n + cls / 20 then none else some (n + cls / 20)) } t ∧ alert t) ∧
    (Serving s →
      (Completes (.budgetWrite v) s fun t => t = { s with cfg := t.cfg } ∧ cfgGet t budgetOff = v &&& 0xFFFF ∧ ∀ o, o ≠ budgetOff → cfgGet t o = cfgGet s o) ∧
      (Completes (.gpioOutWrite v) s fun t => t = { s with cfg := t.cfg } ∧ cfgGet t gpioOutOff = v &&& 0xFF ∧ (∀ o, o ≠ gpioOutOff → cfgGet t o = cfgGet s o) ∧
        ∀ i, i < 8 → bit (gpioIn t) i = if bit (cfgGet s (cpmBase + 0x200)) i then bit v i else bit e.gpioPins i) ∧
      Completes (.trippedClear tripNow) s fun t => only { e with tripped := tripNow, smbAlert := t.elec.smbAlert } t ∧ alert t)

/-- The sideband (R461, R463, Table 18.7): the SMBus target answers each command of the table while its supply is in
range, and NACKs any other; the JTAG port loads each instruction, and the five that act on the pins do so only while
PERST_N is asserted. Choices of the model in it: assumption log 60. -/
def Obligations.SidebandAnswers : Prop :=
  ∀ (h : Half) (cap up : List Bool) (s : State),
    let e := s.elec
    let only := fun (x : Elec) (os : List Output) (t : State) => t = { s with elec := x, out := s.out ++ os }
    let answers := fun (d : List Byte) => only e [.smbus (some d)]
    (Idles .smbTimeout s ∧ Completes .smbOtherCommand s (only e [.smbus none])) ∧
    (s.power.state = .cold → (∀ c ∈ [Instr.smbId, .smbState, .smbTemp, .smbPower, .smbBudgetRead, .smbBudgetWrite h, .smbStatus, .smbWake, .smbTherm], Idles c s) ∧
      Completes .smbAlertResponse s (only e [.smbus none])) ∧
    (s.power.state ≠ .cold →
      Completes .smbId s (answers (toBytes glbId 4 ++ toBytes glbRev 4)) ∧
      (s.power.state ∉ [.booting, .recovery] → Completes .smbState s (answers [BitVec.ofNat 8 s.power.state.code])) ∧
      (s.power.state ∈ [.booting, .recovery] → Completes .smbState s (answers [0])) ∧
      Completes .smbTemp s (answers [degrees (logicMax s), degrees (dramTemp s 0), degrees (dramTemp s 1), degrees (dramTemp s 2), degrees (dramTemp s 3)]) ∧
      Completes .smbPower s (answers (toBytes (BitVec.ofNat 16 (min e.power 65535)) 2)) ∧
      Completes .smbBudgetRead s (answers (toBytes e.smbBudget 2)) ∧
      Completes (.smbBudgetWrite h) s (only { e with smbBudget := h } [.smbus (some [])]) ∧
      Completes .smbStatus s (answers [BitVec.ofNat 8 (bits (railStatus s) 7 0), BitVec.ofNat 8 (bits (railStatus s) 31 24)]) ∧
      Completes .smbTherm s (answers [BitVec.ofNat 8 (bits (thermStatus s) 31 24)]) ∧
      (s.power.state = .banked → bit (cfgGet s (cpmBase + 0x108)) 8 = true → Completes .smbWake s fun t => t.power = { s.power with state := .exitingBanked, wakeCause := 3 } ∧
        t.out = s.out ++ [.smbus (some [])]) ∧
      (s.power.state ≠ .banked ∨ bit (cfgGet s (cpmBase + 0x108)) 8 = false → Completes .smbWake s fun t => t.power = s.power ∧ t.out = s.out ++ [.smbus (some [])]) ∧
      (e.smbAlert = true → Completes .smbAlertResponse s (only { e with smbAlert := false } [.smbus (some [BitVec.ofNat 8 (2 * (0x58 + e.strap.toNat))])])) ∧
      (e.smbAlert = false → Completes .smbAlertResponse s (only e [.smbus none]))) ∧
    Completes .jtagBypass s (only { e with jtag := .bypass } [.jtag [false]]) ∧
    Completes .jtagIdcode s (only { e with jtag := .idcode } [.jtag ((upTo 32).map (fun i => bit (0x13216A3B : Word) i))]) ∧
    Completes (.jtagSamplePreload cap up) s (only { e with jtag := .sample, boundary := up } [.jtag cap]) ∧
    (e.perst = true → Completes (.jtagExtest cap up) s (only { e with jtag := .extest, boundary := up } [.jtag cap]) ∧
      Completes (.jtagExtestPulse cap up) s (only { e with jtag := .extestPulse, boundary := up } [.jtag cap]) ∧
      Completes (.jtagExtestTrain cap up) s (only { e with jtag := .extestTrain, boundary := up } [.jtag cap])) ∧
    (e.perst = false → Completes (.jtagExtest cap up) s (only { e with jtag := .extest } []) ∧
      Completes (.jtagExtestPulse cap up) s (only { e with jtag := .extestPulse } []) ∧ Completes (.jtagExtestTrain cap up) s (only { e with jtag := .extestTrain } [])) ∧
    Completes .jtagClamp s (only { e with jtag := .clamp } [.jtag [false]]) ∧
    Completes .jtagHighz s (only { e with jtag := .highz } [.jtag [false]])

/-! ### Invariants of every step -/

/-- Memory contents stay in their canonical form (DRAM, its poison marks, every hearth's scratchpad and its poison
marks): a step from any state whose memories have it answers a state whose memories have it. Choices of the model in
it: assumption log 8. -/
def Obligations.MemoriesKeepTheirForm : Prop :=
  ∀ s t : State, MemoriesLegal s → step s = .next t → MemoriesLegal t

/-- What is burned stays burned (R431–R433, R439, Table 17.6): from any state whose fuses and order under burn are
within the table, a step answers a state for which this holds again, and it never lowers the anti-rollback counter,
gives a change back, clears a revoked key, or touches the root-key fuses and the identity area. -/
def Obligations.FusesOnlyBurn : Prop :=
  ∀ s t : State, FusesLegal s.boot.fuses → (∀ o, s.boot.order = some o → orderCodes o = true) → step s = .next t →
    FusesLegal t.boot.fuses ∧ (∀ o, t.boot.order = some o → orderCodes o = true) ∧
    s.boot.fuses.rollback ≤ t.boot.fuses.rollback ∧ t.boot.fuses.clsLeft ≤ s.boot.fuses.clsLeft ∧ t.boot.fuses.ownerLeft ≤ s.boot.fuses.ownerLeft ∧
    t.boot.fuses.revokedLeft ≤ s.boot.fuses.revokedLeft ∧ s.boot.fuses.revoked &&& t.boot.fuses.revoked = s.boot.fuses.revoked ∧
    (∀ r, Table.get 0 s.boot.fuses.lockUsed r ≤ Table.get 0 t.boot.fuses.lockUsed r) ∧ t.boot.fuses.keyHash = s.boot.fuses.keyHash ∧ t.boot.identity = s.boot.identity

/-- The state right after reset has the form of `MemoriesKeepTheirForm` and the fuses of `FusesOnlyBurn`, as shipped
(Table 17.6). Choices of the model in it: assumption logs 4 and 8. -/
def Obligations.InvariantsHoldAtReset : Prop :=
  MemoriesLegal State.reset ∧ FusesLegal State.reset.boot.fuses ∧ State.reset.boot.order = none ∧ State.reset.dram = [] ∧
    State.reset.boot.fuses.cls = 1 ∧ State.reset.boot.fuses.clsLeft = 6 ∧ State.reset.boot.fuses.ownerLeft = 4 ∧ State.reset.boot.fuses.rollbackLeft = 96 ∧
    State.reset.boot.fuses.revokedLeft = 3

/-- While the root-derived clocks are gated, or held in reset, nothing outside the always-on island changes (R29):
only the resets themselves, a lock, the fall of the supplies and a thermal reading, which may trip, reach the
scratchpads, cores, arrays, DRAM, streams, jobs and queues of a device that is in no Banked transition; and in Banked
the Ethernet and CSI-2 ports do nothing (R32). Choices of the model in it: assumption log 79. -/
def Obligations.GatedLogicStandsStill : Prop :=
  (∀ (c : Instr) (s t : State), clocked s = false → s.power.state ∉ [.enteringBanked, .banked, .exitingBanked] →
    c ∉ [.perstNAssert, .perstNRelease, .pllLock, .supplyLoss] → (∀ rs, c ≠ .thermalSensorRead rs) → exec c s = .next t →
    t.hearths = s.hearths ∧ t.dram = s.dram ∧ t.dramPoison = s.dramPoison ∧ t.media = s.media ∧ t.jobs = s.jobs ∧ t.cmds = s.cmds ∧
      t.vats = s.vats ∧ t.qps = s.qps ∧ t.image = s.image ∧ t.versions = s.versions) ∧
  ∀ (i : Fin 16) (l : Fin 8) (rc : Fin 4) (f p : Half) (vcx fec ok ce crc hs : Bool) (dt : BitVec 6) (ecc : HeaderEcc) (v w : BitVec 4)
    (sp : Fin 4) (pr : Fin 8) (a d bs : List Byte) (n : Nat × Nat) (ans : Option (List Byte)) (s : State), s.power.state = .banked →
    ∀ c ∈ [Instr.csiFrameStart i f, .csiFrameEnd i f, .csiLongPacket i vcx dt ecc crc bs, .csiShortPacket i vcx dt ecc, .dphyLaneStateChange rc v w hs,
      .ethLinkUp l sp fec, .ethLinkDown l, .pfcFrame l pr ok, .udpDatagram l ok a p d f ce bs n, .ethFrameReceived l ans n], Idles c s

/-! ### Rules of the shared mechanisms, whole -/

/-- BAR0 offsets that no register occupies read zero and discard writes (R10), in every size of read. -/
def Obligations.UnoccupiedOffsetsReadZero : Prop :=
  ∀ (off : BitVec 26) (v w : Word) (s : State), Serving s → off.toNat % 4 = 0 → regHit off.toNat = .empty →
    (∀ (d : BitVec 26) (len : BitVec 13), d.toNat / 4 * 4 = off.toNat → (len ≠ 8 ∨ d.toNat % 8 ≠ 0) →
      Completes (.lowHalfRead { off := d, len := len }) s fun t =>
        t = { s with out := s.out ++ [.barRead 0 off.toNat [0, 0, 0, 0] false .success] }) ∧
    (off.toNat % 8 = 0 → regHit (off.toNat + 4) = .empty →
      (Completes (.lowHalfRead { off := off, len := 8 }) s fun t =>
        t = { s with out := s.out ++ [.barRead 0 off.toNat [0, 0, 0, 0, 0, 0, 0, 0] false .success] }) ∧
      Idles (.registerWrite off v 15 (some (w, 15)) false) s) ∧
    Idles (.registerWrite off v 15 none false) s ∧ Idles (.lowHalfWrite off v) s ∧ Idles (.highHalfWrite off v) s

/-- In Banked the GLB_, CPM_, LCS_ and EVR_ blocks are served; every other BAR0 offset reads zero and discards
writes, and a BAR2 or BAR4 request is aborted and recorded (R33). -/
def Obligations.BankedServesFourBlocks : Prop :=
  ∀ (off : BitVec 26) (v : Word) (s : State), s.power.state = .banked → s.pcie.notReady = false → clocked s = true →
    (off.toNat % 4 = 0 → off.toNat < hqBase →
      (∀ len : BitVec 13, len ≠ 8 ∨ off.toNat % 8 ≠ 0 → Completes (.lowHalfRead { off := off, len := len }) s fun t =>
        t = { s with readHold := t.readHold, out := s.out ++ [.barRead 0 off.toNat (toBytes (bar0Word off.toNat s) 4) false .success] }) ∧
      (off.toNat % 8 = 0 → Completes (.lowHalfRead { off := off, len := 8 }) s fun t =>
        t = { s with out := s.out ++ [.barRead 0 off.toNat (toBytes (bar0Pair off.toNat s) 8) false .success] }) ∧
      Completes (.registerWrite off v 15 none false) s fun t => t = writeReg off.toNat v s) ∧
    (off.toNat % 4 = 0 → hqBase ≤ off.toNat →
      (∀ len : BitVec 13, len ≠ 8 ∨ off.toNat % 8 ≠ 0 → Completes (.lowHalfRead { off := off, len := len }) s fun t =>
        t = { s with out := s.out ++ [.barRead 0 off.toNat [0, 0, 0, 0] false .success] }) ∧
      (off.toNat % 8 = 0 → Completes (.lowHalfRead { off := off, len := 8 }) s fun t =>
        t = { s with out := s.out ++ [.barRead 0 off.toNat [0, 0, 0, 0, 0, 0, 0, 0] false .success] }) ∧
      ∀ be hi, Completes (.registerWrite off v be hi false) s fun t => t = recordBar off.toNat s) ∧
    (∀ o len, Completes (.bar2Read o len) s fun t => t = abortRead 2 o.toNat (recordBar o.toNat s)) ∧
    (∀ o d p, Completes (.bar2Write o d p) s fun t => t = recordBar o.toNat s) ∧
    (∀ o len es rs, Completes (.bar4Read o len es rs) s fun t => t = abortRead 4 o.toNat (recordBar o.toNat s)) ∧
    ∀ o d p rs, Completes (.bar4Write o d p rs) s fun t => t = recordBar o.toNat s

/-- A power-state request written during a transition is latched, the last write winning; the end of the transition
acts on it, or discards it where it asks for the state reached (R35). -/
def Obligations.LatchedPowerRequestsAreActedOn : Prop :=
  ∀ s : State, clocked s = true → s.pcie.notReady = false → s.power.flrAfterWake = false →
    (s.power.state = .enteringBanked ∨ s.power.state = .exitingBanked →
      (Completes .bankedRequest s fun t => t = { s with cfg := t.cfg, power := { s.power with pending := 1 } }) ∧
      Completes .litRequest s fun t => t = { s with cfg := t.cfg, power := { s.power with pending := 2 } }) ∧
    (s.power.state = .enteringBanked → channelsBusy s = false → Completes .bankedEntryComplete s fun t =>
      ∃ u : State, u.power = { s.power with state := .banked, bankedCount := satAdd s.power.bankedCount 1, pending := 0 } ∧
        t = if s.power.pending = 0 ∨ s.power.pending = 1 then u else powerRequest s.power.pending u) ∧
    (s.power.state = .exitingBanked → channelsBusy s = false → banksBusy s = false → Completes .bankedExitComplete s fun t =>
      ∃ u : State, u.power = { s.power with state := .lit, deferredFaults := [], pending := 0 } ∧
        t = if s.power.pending = 0 ∨ s.power.pending = 2 then u else powerRequest s.power.pending u)

/-- Each event code has a budget of 8 records, refilled one at a time up to 8; a record that finds it empty is not
written, and counts in the next written record's SUPPRESSED and in EVR_SUPPRESSED; severity 3 ignores the budget
(R414). -/
def Obligations.EventBudgetsLimitRecords : Prop :=
  (∀ (code kind id : Nat) (arg : DWord) (now : Nat) (r : Recorder),
    let n := Table.get 0 r.spent code
    let q := (recordCore code kind id arg now r).1
    (eventSeverity code ≠ 3 → 8 ≤ n → q = { r with suppressed := satAdd r.suppressed 1, suppSince := q.suppSince } ∧
      Table.get 0 q.suppSince code = satAdd (Table.get 0 r.suppSince code) 1 ∧ ∀ k, k ≠ code → Table.get 0 q.suppSince k = Table.get 0 r.suppSince k) ∧
    (eventSeverity code = 3 ∨ n < 8 → q.suppressed = r.suppressed ∧ Table.get 0 q.suppSince code = 0 ∧
      (∃ e, Table.get none q.ring (r.seqNext.toNat % ringSlots) = some e ∧ e.code = BitVec.ofNat 16 code ∧ e.arg = arg ∧ e.seq = r.seqNext ∧
        e.supp = Table.get 0 r.suppSince code) ∧
      Table.get 0 q.spent code = (if eventSeverity code = 3 then n else n + 1) ∧ ∀ k, k ≠ code → Table.get 0 q.spent k = Table.get 0 r.spent k)) ∧
  (∀ s : State, Completes .rateBudgetRefill s fun t => t = { s with recorder := { s.recorder with spent := t.recorder.spent } } ∧
    (Table.wf 0 s.recorder.spent = true → ∀ k, Table.get 0 t.recorder.spent k = Table.get 0 s.recorder.spent k - 1)) ∧
  ∀ k, Table.get 0 State.reset.recorder.spent k = 0
end

