-- ==== Sys2Proof/Laws/Table.lean ====
section
/-! SUPPORT. Tables: a read after a write, and every operation keeps the canonical form. -/

namespace Sys2Proof.Machine.Table
variable {β : Type}

@[simp] theorem get_nil (d : β) (k : Nat) : get d [] k = d := rfl

theorem get_cons (d : β) (j : Nat) (v : β) (t : Table β) (k : Nat) : get d ((j, v) :: t) k = if j = k then v else get d t k := rfl

@[simp] theorem get_erase_self (d : β) (t : Table β) (k : Nat) : get d (erase t k) k = d := by
  induction t with
  | nil => rfl
  | cons p t ih =>
    obtain ⟨j, v⟩ := p
    by_cases h : j = k
    · simp [erase, h, ih]
    · simp [erase, h, get, ih]

theorem get_erase_ne (d : β) (t : Table β) {k m : Nat} (h : m ≠ k) : get d (erase t k) m = get d t m := by
  induction t with
  | nil => rfl
  | cons p t ih =>
    obtain ⟨j, v⟩ := p
    by_cases hj : j = k
    · subst hj; simp [erase, get, ih, Ne.symm h]
    · simp [erase, hj, get, ih]

theorem get_insert_self (d : β) (t : Table β) (k : Nat) (v : β) (h : ∀ p ∈ t, p.1 ≠ k) :
    get d (insert t k v) k = v := by
  induction t with
  | nil => simp [insert, get]
  | cons p t ih =>
    obtain ⟨j, w⟩ := p
    have hj : j ≠ k := h (j, w) (by simp)
    by_cases hk : k < j
    · simp [insert, hk, get]
    · simp only [insert, hk, if_false, get, hj]
      exact ih (fun p hp => h p (by simp [hp]))

theorem keys_erase (t : Table β) (k : Nat) : ∀ p ∈ erase t k, p.1 ≠ k := by
  induction t with
  | nil => simp [erase]
  | cons p t ih =>
    obtain ⟨j, v⟩ := p
    by_cases h : j = k
    · simpa [erase, h] using ih
    · simp only [erase, h, if_false, List.mem_cons]
      rintro q (rfl | hq)
      · exact h
      · exact ih q hq

theorem get_insert_ne (d : β) (t : Table β) {k m : Nat} (v : β) (h : m ≠ k) : get d (insert t k v) m = get d t m := by
  induction t with
  | nil => simp [insert, get, Ne.symm h]
  | cons p t ih =>
    obtain ⟨j, w⟩ := p
    by_cases hk : k < j
    · simp [insert, hk, get, Ne.symm h]
    · simp [insert, hk, get, ih]

section eq
variable [DecidableEq β]

/-- A read after a write of the same key gives the value written. -/
@[simp] theorem get_set_self (d : β) (t : Table β) (k : Nat) (v : β) : get d (set d t k v) k = v := by
  unfold set
  split
  · simp_all
  · exact get_insert_self d _ k v (keys_erase t k)

/-- A write leaves every other key alone. -/
@[simp] theorem get_set_ne (d : β) (t : Table β) {k m : Nat} (v : β) (h : m ≠ k) : get d (set d t k v) m = get d t m := by
  unfold set
  split
  · exact get_erase_ne d t h
  · rw [get_insert_ne d _ v h, get_erase_ne d t h]

theorem get_set_other (d e : β) (t : Table β) {k m : Nat} (v : β) (h : m ≠ k) : get d (set e t k v) m = get d t m := by
  unfold set
  split
  · exact get_erase_ne d t h
  · rw [get_insert_ne d _ v h, get_erase_ne d t h]

theorem get_set (d : β) (t : Table β) (k m : Nat) (v : β) : get d (set d t k v) m = if m = k then v else get d t m := by
  split
  · subst_vars; simp
  · rename_i h; exact get_set_ne d t v h

@[simp] theorem get_mod_self (d : β) (t : Table β) (k : Nat) (f : β → β) : get d (mod d t k f) k = f (get d t k) := by simp [mod]

@[simp] theorem get_mod_ne (d : β) (t : Table β) {k m : Nat} (f : β → β) (h : m ≠ k) : get d (mod d t k f) m = get d t m := by simp [mod, h]

theorem get_mod (d : β) (t : Table β) (k m : Nat) (f : β → β) : get d (mod d t k f) m = if m = k then f (get d t k) else get d t m := by
  simp [mod, get_set]

omit [DecidableEq β] in
theorem above_of_le {b c : Nat} (h : c ≤ b) : ∀ {t : Table β}, above b t = true → above c t = true
  | [], _ => rfl
  | (j, v) :: t, hb => by
    simp only [above, Bool.and_eq_true, decide_eq_true_eq] at hb ⊢
    exact ⟨by omega, above_of_le h hb.2⟩

omit [DecidableEq β] in
theorem above_erase {b : Nat} (k : Nat) : ∀ {t : Table β}, above b t = true → above b (erase t k) = true
  | [], _ => rfl
  | (j, v) :: t, hb => by
    simp only [above, Bool.and_eq_true, decide_eq_true_eq] at hb
    by_cases h : j = k
    · simpa [erase, h] using above_erase k hb.2
    · simp [erase, h, above, hb.1, above_erase k hb.2]

theorem wf_erase (d : β) (k : Nat) : ∀ {t : Table β}, wf d t = true → wf d (erase t k) = true
  | [], _ => rfl
  | (j, v) :: t, hw => by
    simp only [wf, Bool.and_eq_true, decide_eq_true_eq] at hw
    by_cases h : j = k
    · simpa [erase, h] using wf_erase d k hw.2
    · simp [erase, h, wf, hw.1.1, above_erase k hw.1.2, wf_erase d k hw.2]

omit [DecidableEq β] in
theorem above_insert {b k : Nat} (v : β) (hk : b < k) : ∀ {t : Table β}, above b t = true → above b (insert t k v) = true
  | [], _ => by simp [insert, above, hk]
  | (j, w) :: t, hb => by
    simp only [above, Bool.and_eq_true, decide_eq_true_eq] at hb
    by_cases h : k < j
    · simp [insert, h, above, hk, hb.1, hb.2]
    · simp [insert, h, above, hb.1, above_insert v hk hb.2]

theorem wf_insert (d : β) {k : Nat} {v : β} (hv : v ≠ d) : ∀ {t : Table β}, wf d t = true → (∀ p ∈ t, p.1 ≠ k) → wf d (insert t k v) = true
  | [], _, _ => by simp [insert, wf, above, hv]
  | (j, w) :: t, hw, hk => by
    have hj : j ≠ k := hk (j, w) (by simp)
    simp only [wf, Bool.and_eq_true, decide_eq_true_eq] at hw
    by_cases h : k < j
    · simp [insert, h, wf, above, hv, hw.1.1, hw.1.2, hw.2, above_of_le (Nat.le_of_lt h) hw.1.2]
    · have := wf_insert d hv hw.2 (fun p hp => hk p (by simp [hp]))
      simp [insert, h, wf, hw.1.1, this, above_insert v (show j < k by omega) hw.1.2]

/-- A write keeps the canonical form. -/
theorem wf_set (d : β) (t : Table β) (k : Nat) (v : β) (h : wf d t = true) : wf d (set d t k v) = true := by
  unfold set
  split
  · exact wf_erase d k h
  · rename_i hv; exact wf_insert d hv (wf_erase d k h) (keys_erase t k)

theorem wf_mod (d : β) (t : Table β) (k : Nat) (f : β → β) (h : wf d t = true) : wf d (mod d t k f) = true := wf_set d t k _ h

theorem wf_modAll (d : β) (ks : List Nat) (f : Nat → β → β) : ∀ (t : Table β), wf d t = true → wf d (modAll d t ks f) = true := by
  induction ks with
  | nil => intro t h; exact h
  | cons k ks ih => intro t h; exact ih _ (wf_mod d t k (f k) h)

omit [DecidableEq β] in
theorem above_drop {b : Nat} (p : Nat → Bool) : ∀ {t : Table β}, above b t = true → above b (drop p t) = true
  | [], _ => rfl
  | (j, v) :: t, hb => by
    simp only [above, Bool.and_eq_true, decide_eq_true_eq] at hb
    by_cases h : p j
    · simpa [drop, h] using above_drop p hb.2
    · simp [drop, h, above, hb.1, above_drop p hb.2]

theorem wf_drop (d : β) (p : Nat → Bool) : ∀ {t : Table β}, wf d t = true → wf d (drop p t) = true
  | [], _ => rfl
  | (j, v) :: t, hw => by
    simp only [wf, Bool.and_eq_true, decide_eq_true_eq] at hw
    by_cases h : p j
    · simpa [drop, h] using wf_drop d p hw.2
    · simp [drop, h, wf, hw.1.1, above_drop p hw.1.2, wf_drop d p hw.2]

theorem above_remap (d : β) {b : Nat} (f : Nat → β → β) : ∀ {t : Table β}, above b t = true → above b (remap d f t) = true
  | [], _ => rfl
  | (j, v) :: t, hb => by
    simp only [above, Bool.and_eq_true, decide_eq_true_eq] at hb
    by_cases h : f j v = d
    · simpa [remap, h] using above_remap d f hb.2
    · simp [remap, h, above, hb.1, above_remap d f hb.2]

theorem wf_remap (d : β) (f : Nat → β → β) : ∀ {t : Table β}, wf d t = true → wf d (remap d f t) = true
  | [], _ => rfl
  | (j, v) :: t, hw => by
    simp only [wf, Bool.and_eq_true, decide_eq_true_eq] at hw
    by_cases h : f j v = d
    · simpa [remap, h] using wf_remap d f hw.2
    · simp [remap, h, wf, above_remap d f hw.1.2, wf_remap d f hw.2]

omit [DecidableEq β] in
theorem get_above (d : β) {b k : Nat} (hk : k ≤ b) : ∀ {t : Table β}, above b t = true → get d t k = d
  | [], _ => rfl
  | (j, v) :: t, hb => by
    simp only [above, Bool.and_eq_true, decide_eq_true_eq] at hb
    have : j ≠ k := by omega
    simp [get, this, get_above d hk hb.2]

omit [DecidableEq β] in
theorem get_drop (d : β) (p : Nat → Bool) (t : Table β) (k : Nat) : get d (drop p t) k = if p k then d else get d t k := by
  induction t with
  | nil => simp [drop]
  | cons q t ih =>
    obtain ⟨j, v⟩ := q
    by_cases h : p j
    · by_cases hk : j = k
      · subst hk; simp [drop, h, ih]
      · simp [drop, h, ih, get, hk]
    · by_cases hk : j = k
      · subst hk; simp [drop, h, get]
      · simp [drop, h, ih, get, hk]

/-- A change of every listed value is read at every key, where it keeps the default. -/
theorem get_remap (d : β) (f : Nat → β → β) (k : Nat) (hf : f k d = d) : ∀ {t : Table β}, wf d t = true → get d (remap d f t) k = f k (get d t k)
  | [], _ => by simp [remap, hf]
  | (j, v) :: t, hw => by
    simp only [wf, Bool.and_eq_true, decide_eq_true_eq] at hw
    by_cases hk : j = k
    · subst hk
      by_cases h : f j v = d
      · simp [remap, h, get, get_above d (Nat.le_refl j) (above_remap d f hw.1.2)]
      · simp [remap, h, get]
    · by_cases h : f j v = d
      · simp [remap, h, get, hk, get_remap d f k hf hw.2]
      · simp [remap, h, get, hk, get_remap d f k hf hw.2]

/-- Equal readings are equal tables, in the canonical form. -/
theorem ext (d : β) : ∀ {t u : Table β}, wf d t = true → wf d u = true → (∀ k, get d t k = get d u k) → t = u
  | [], [], _, _, _ => rfl
  | [], (j, v) :: u, _, hu, h => by
    simp only [wf, Bool.and_eq_true, decide_eq_true_eq] at hu
    have := h j
    simp [get] at this
    exact absurd this.symm hu.1.1
  | (j, v) :: t, [], ht, _, h => by
    simp only [wf, Bool.and_eq_true, decide_eq_true_eq] at ht
    have := h j
    simp [get] at this
    exact absurd this ht.1.1
  | (j, v) :: t, (i, w) :: u, ht, hu, h => by
    simp only [wf, Bool.and_eq_true, decide_eq_true_eq] at ht hu
    have hji : j = i := by
      rcases Nat.lt_trichotomy j i with hl | he | hg
      · have := h j
        have hne : i ≠ j := by omega
        simp [get, hne, get_above d (Nat.le_of_lt hl) hu.1.2] at this
        exact absurd this ht.1.1
      · exact he
      · have := h i
        have hne : j ≠ i := by omega
        simp [get, hne, get_above d (Nat.le_of_lt hg) ht.1.2] at this
        exact absurd this.symm hu.1.1
    subst hji
    have hv : v = w := by simpa [get] using h j
    subst hv
    have : t = u := ext d ht.2 hu.2 (fun k => by
      by_cases hk : j = k
      · subst hk; rw [get_above d (Nat.le_refl _) ht.1.2, get_above d (Nat.le_refl _) hu.1.2]
      · simpa [get, hk] using h k)
    rw [this]

end eq

end Sys2Proof.Machine.Table
end

