-- ==== Sys2Proof/Laws/State.lean ====
section
/-! SUPPORT. One lemma per field of the state and named update, and what each numbered block reads as after its update. -/

namespace Sys2Proof.Machine
open Sys2Proof

/-! ### `cfgSet` -/

section
variable (o : Nat) (v : Word) (s : State)
@[simp] theorem cfgSet_pending : (cfgSet o v s).pending = s.pending := rfl
@[simp] theorem cfgSet_now : (cfgSet o v s).now = s.now := rfl
@[simp] theorem cfgSet_fresh : (cfgSet o v s).fresh = s.fresh := rfl
@[simp] theorem cfgSet_out : (cfgSet o v s).out = s.out := rfl
@[simp] theorem cfgSet_readHold : (cfgSet o v s).readHold = s.readHold := rfl
@[simp] theorem cfgSet_writeHold : (cfgSet o v s).writeHold = s.writeHold := rfl
@[simp] theorem cfgSet_recorder : (cfgSet o v s).recorder = s.recorder := rfl
@[simp] theorem cfgSet_power : (cfgSet o v s).power = s.power := rfl
@[simp] theorem cfgSet_pcie : (cfgSet o v s).pcie = s.pcie := rfl
@[simp] theorem cfgSet_qps : (cfgSet o v s).qps = s.qps := rfl
@[simp] theorem cfgSet_store : (cfgSet o v s).store = s.store := rfl
@[simp] theorem cfgSet_raised : (cfgSet o v s).raised = s.raised := rfl
@[simp] theorem cfgSet_hearths : (cfgSet o v s).hearths = s.hearths := rfl
@[simp] theorem cfgSet_dones : (cfgSet o v s).dones = s.dones := rfl
@[simp] theorem cfgSet_jobs : (cfgSet o v s).jobs = s.jobs := rfl
@[simp] theorem cfgSet_jobOrder : (cfgSet o v s).jobOrder = s.jobOrder := rfl
@[simp] theorem cfgSet_cmds : (cfgSet o v s).cmds = s.cmds := rfl
@[simp] theorem cfgSet_sems : (cfgSet o v s).sems = s.sems := rfl
@[simp] theorem cfgSet_killStatus : (cfgSet o v s).killStatus = s.killStatus := rfl
@[simp] theorem cfgSet_vats : (cfgSet o v s).vats = s.vats := rfl
@[simp] theorem cfgSet_image : (cfgSet o v s).image = s.image := rfl
@[simp] theorem cfgSet_reload : (cfgSet o v s).reload = s.reload := rfl
@[simp] theorem cfgSet_versions : (cfgSet o v s).versions = s.versions := rfl
@[simp] theorem cfgSet_media : (cfgSet o v s).media = s.media := rfl
@[simp] theorem cfgSet_ether : (cfgSet o v s).ether = s.ether := rfl
@[simp] theorem cfgSet_dram : (cfgSet o v s).dram = s.dram := rfl
@[simp] theorem cfgSet_dramPoison : (cfgSet o v s).dramPoison = s.dramPoison := rfl
@[simp] theorem cfgSet_channels : (cfgSet o v s).channels = s.channels := rfl
@[simp] theorem cfgSet_drams : (cfgSet o v s).drams = s.drams := rfl
@[simp] theorem cfgSet_boot : (cfgSet o v s).boot = s.boot := rfl
@[simp] theorem cfgSet_elec : (cfgSet o v s).elec = s.elec := rfl
end

/-! ### `modHearth` -/

section
variable (h : Nat) (f : Hearth → Hearth) (s : State)
@[simp] theorem modHearth_pending : (modHearth h f s).pending = s.pending := rfl
@[simp] theorem modHearth_now : (modHearth h f s).now = s.now := rfl
@[simp] theorem modHearth_fresh : (modHearth h f s).fresh = s.fresh := rfl
@[simp] theorem modHearth_out : (modHearth h f s).out = s.out := rfl
@[simp] theorem modHearth_cfg : (modHearth h f s).cfg = s.cfg := rfl
@[simp] theorem modHearth_readHold : (modHearth h f s).readHold = s.readHold := rfl
@[simp] theorem modHearth_writeHold : (modHearth h f s).writeHold = s.writeHold := rfl
@[simp] theorem modHearth_recorder : (modHearth h f s).recorder = s.recorder := rfl
@[simp] theorem modHearth_power : (modHearth h f s).power = s.power := rfl
@[simp] theorem modHearth_pcie : (modHearth h f s).pcie = s.pcie := rfl
@[simp] theorem modHearth_qps : (modHearth h f s).qps = s.qps := rfl
@[simp] theorem modHearth_store : (modHearth h f s).store = s.store := rfl
@[simp] theorem modHearth_raised : (modHearth h f s).raised = s.raised := rfl
@[simp] theorem modHearth_dones : (modHearth h f s).dones = s.dones := rfl
@[simp] theorem modHearth_jobs : (modHearth h f s).jobs = s.jobs := rfl
@[simp] theorem modHearth_jobOrder : (modHearth h f s).jobOrder = s.jobOrder := rfl
@[simp] theorem modHearth_cmds : (modHearth h f s).cmds = s.cmds := rfl
@[simp] theorem modHearth_sems : (modHearth h f s).sems = s.sems := rfl
@[simp] theorem modHearth_killStatus : (modHearth h f s).killStatus = s.killStatus := rfl
@[simp] theorem modHearth_vats : (modHearth h f s).vats = s.vats := rfl
@[simp] theorem modHearth_image : (modHearth h f s).image = s.image := rfl
@[simp] theorem modHearth_reload : (modHearth h f s).reload = s.reload := rfl
@[simp] theorem modHearth_versions : (modHearth h f s).versions = s.versions := rfl
@[simp] theorem modHearth_media : (modHearth h f s).media = s.media := rfl
@[simp] theorem modHearth_ether : (modHearth h f s).ether = s.ether := rfl
@[simp] theorem modHearth_dram : (modHearth h f s).dram = s.dram := rfl
@[simp] theorem modHearth_dramPoison : (modHearth h f s).dramPoison = s.dramPoison := rfl
@[simp] theorem modHearth_channels : (modHearth h f s).channels = s.channels := rfl
@[simp] theorem modHearth_drams : (modHearth h f s).drams = s.drams := rfl
@[simp] theorem modHearth_boot : (modHearth h f s).boot = s.boot := rfl
@[simp] theorem modHearth_elec : (modHearth h f s).elec = s.elec := rfl
end

/-! ### `modQp` -/

section
variable (q : Nat) (f : Qp → Qp) (s : State)
@[simp] theorem modQp_pending : (modQp q f s).pending = s.pending := rfl
@[simp] theorem modQp_now : (modQp q f s).now = s.now := rfl
@[simp] theorem modQp_fresh : (modQp q f s).fresh = s.fresh := rfl
@[simp] theorem modQp_out : (modQp q f s).out = s.out := rfl
@[simp] theorem modQp_cfg : (modQp q f s).cfg = s.cfg := rfl
@[simp] theorem modQp_readHold : (modQp q f s).readHold = s.readHold := rfl
@[simp] theorem modQp_writeHold : (modQp q f s).writeHold = s.writeHold := rfl
@[simp] theorem modQp_recorder : (modQp q f s).recorder = s.recorder := rfl
@[simp] theorem modQp_power : (modQp q f s).power = s.power := rfl
@[simp] theorem modQp_pcie : (modQp q f s).pcie = s.pcie := rfl
@[simp] theorem modQp_store : (modQp q f s).store = s.store := rfl
@[simp] theorem modQp_raised : (modQp q f s).raised = s.raised := rfl
@[simp] theorem modQp_hearths : (modQp q f s).hearths = s.hearths := rfl
@[simp] theorem modQp_dones : (modQp q f s).dones = s.dones := rfl
@[simp] theorem modQp_jobs : (modQp q f s).jobs = s.jobs := rfl
@[simp] theorem modQp_jobOrder : (modQp q f s).jobOrder = s.jobOrder := rfl
@[simp] theorem modQp_cmds : (modQp q f s).cmds = s.cmds := rfl
@[simp] theorem modQp_sems : (modQp q f s).sems = s.sems := rfl
@[simp] theorem modQp_killStatus : (modQp q f s).killStatus = s.killStatus := rfl
@[simp] theorem modQp_vats : (modQp q f s).vats = s.vats := rfl
@[simp] theorem modQp_image : (modQp q f s).image = s.image := rfl
@[simp] theorem modQp_reload : (modQp q f s).reload = s.reload := rfl
@[simp] theorem modQp_versions : (modQp q f s).versions = s.versions := rfl
@[simp] theorem modQp_media : (modQp q f s).media = s.media := rfl
@[simp] theorem modQp_ether : (modQp q f s).ether = s.ether := rfl
@[simp] theorem modQp_dram : (modQp q f s).dram = s.dram := rfl
@[simp] theorem modQp_dramPoison : (modQp q f s).dramPoison = s.dramPoison := rfl
@[simp] theorem modQp_channels : (modQp q f s).channels = s.channels := rfl
@[simp] theorem modQp_drams : (modQp q f s).drams = s.drams := rfl
@[simp] theorem modQp_boot : (modQp q f s).boot = s.boot := rfl
@[simp] theorem modQp_elec : (modQp q f s).elec = s.elec := rfl
end

/-! ### `setJob` -/

section
variable (j : Nat) (b : Option Job) (s : State)
@[simp] theorem setJob_pending : (setJob j b s).pending = s.pending := rfl
@[simp] theorem setJob_now : (setJob j b s).now = s.now := rfl
@[simp] theorem setJob_fresh : (setJob j b s).fresh = s.fresh := rfl
@[simp] theorem setJob_out : (setJob j b s).out = s.out := rfl
@[simp] theorem setJob_cfg : (setJob j b s).cfg = s.cfg := rfl
@[simp] theorem setJob_readHold : (setJob j b s).readHold = s.readHold := rfl
@[simp] theorem setJob_writeHold : (setJob j b s).writeHold = s.writeHold := rfl
@[simp] theorem setJob_recorder : (setJob j b s).recorder = s.recorder := rfl
@[simp] theorem setJob_power : (setJob j b s).power = s.power := rfl
@[simp] theorem setJob_pcie : (setJob j b s).pcie = s.pcie := rfl
@[simp] theorem setJob_qps : (setJob j b s).qps = s.qps := rfl
@[simp] theorem setJob_store : (setJob j b s).store = s.store := rfl
@[simp] theorem setJob_raised : (setJob j b s).raised = s.raised := rfl
@[simp] theorem setJob_hearths : (setJob j b s).hearths = s.hearths := rfl
@[simp] theorem setJob_dones : (setJob j b s).dones = s.dones := rfl
@[simp] theorem setJob_jobOrder : (setJob j b s).jobOrder = s.jobOrder := rfl
@[simp] theorem setJob_cmds : (setJob j b s).cmds = s.cmds := rfl
@[simp] theorem setJob_sems : (setJob j b s).sems = s.sems := rfl
@[simp] theorem setJob_killStatus : (setJob j b s).killStatus = s.killStatus := rfl
@[simp] theorem setJob_vats : (setJob j b s).vats = s.vats := rfl
@[simp] theorem setJob_image : (setJob j b s).image = s.image := rfl
@[simp] theorem setJob_reload : (setJob j b s).reload = s.reload := rfl
@[simp] theorem setJob_versions : (setJob j b s).versions = s.versions := rfl
@[simp] theorem setJob_media : (setJob j b s).media = s.media := rfl
@[simp] theorem setJob_ether : (setJob j b s).ether = s.ether := rfl
@[simp] theorem setJob_dram : (setJob j b s).dram = s.dram := rfl
@[simp] theorem setJob_dramPoison : (setJob j b s).dramPoison = s.dramPoison := rfl
@[simp] theorem setJob_channels : (setJob j b s).channels = s.channels := rfl
@[simp] theorem setJob_drams : (setJob j b s).drams = s.drams := rfl
@[simp] theorem setJob_boot : (setJob j b s).boot = s.boot := rfl
@[simp] theorem setJob_elec : (setJob j b s).elec = s.elec := rfl
end

/-! ### `modJob` -/

section
variable (j : Nat) (f : Job → Job) (s : State)
@[simp] theorem modJob_pending : (modJob j f s).pending = s.pending := rfl
@[simp] theorem modJob_now : (modJob j f s).now = s.now := rfl
@[simp] theorem modJob_fresh : (modJob j f s).fresh = s.fresh := rfl
@[simp] theorem modJob_out : (modJob j f s).out = s.out := rfl
@[simp] theorem modJob_cfg : (modJob j f s).cfg = s.cfg := rfl
@[simp] theorem modJob_readHold : (modJob j f s).readHold = s.readHold := rfl
@[simp] theorem modJob_writeHold : (modJob j f s).writeHold = s.writeHold := rfl
@[simp] theorem modJob_recorder : (modJob j f s).recorder = s.recorder := rfl
@[simp] theorem modJob_power : (modJob j f s).power = s.power := rfl
@[simp] theorem modJob_pcie : (modJob j f s).pcie = s.pcie := rfl
@[simp] theorem modJob_qps : (modJob j f s).qps = s.qps := rfl
@[simp] theorem modJob_store : (modJob j f s).store = s.store := rfl
@[simp] theorem modJob_raised : (modJob j f s).raised = s.raised := rfl
@[simp] theorem modJob_hearths : (modJob j f s).hearths = s.hearths := rfl
@[simp] theorem modJob_dones : (modJob j f s).dones = s.dones := rfl
@[simp] theorem modJob_jobOrder : (modJob j f s).jobOrder = s.jobOrder := rfl
@[simp] theorem modJob_cmds : (modJob j f s).cmds = s.cmds := rfl
@[simp] theorem modJob_sems : (modJob j f s).sems = s.sems := rfl
@[simp] theorem modJob_killStatus : (modJob j f s).killStatus = s.killStatus := rfl
@[simp] theorem modJob_vats : (modJob j f s).vats = s.vats := rfl
@[simp] theorem modJob_image : (modJob j f s).image = s.image := rfl
@[simp] theorem modJob_reload : (modJob j f s).reload = s.reload := rfl
@[simp] theorem modJob_versions : (modJob j f s).versions = s.versions := rfl
@[simp] theorem modJob_media : (modJob j f s).media = s.media := rfl
@[simp] theorem modJob_ether : (modJob j f s).ether = s.ether := rfl
@[simp] theorem modJob_dram : (modJob j f s).dram = s.dram := rfl
@[simp] theorem modJob_dramPoison : (modJob j f s).dramPoison = s.dramPoison := rfl
@[simp] theorem modJob_channels : (modJob j f s).channels = s.channels := rfl
@[simp] theorem modJob_drams : (modJob j f s).drams = s.drams := rfl
@[simp] theorem modJob_boot : (modJob j f s).boot = s.boot := rfl
@[simp] theorem modJob_elec : (modJob j f s).elec = s.elec := rfl
end

/-! ### `modVat` -/

section
variable (v : Nat) (f : Vat → Vat) (s : State)
@[simp] theorem modVat_pending : (modVat v f s).pending = s.pending := rfl
@[simp] theorem modVat_now : (modVat v f s).now = s.now := rfl
@[simp] theorem modVat_fresh : (modVat v f s).fresh = s.fresh := rfl
@[simp] theorem modVat_out : (modVat v f s).out = s.out := rfl
@[simp] theorem modVat_cfg : (modVat v f s).cfg = s.cfg := rfl
@[simp] theorem modVat_readHold : (modVat v f s).readHold = s.readHold := rfl
@[simp] theorem modVat_writeHold : (modVat v f s).writeHold = s.writeHold := rfl
@[simp] theorem modVat_recorder : (modVat v f s).recorder = s.recorder := rfl
@[simp] theorem modVat_power : (modVat v f s).power = s.power := rfl
@[simp] theorem modVat_pcie : (modVat v f s).pcie = s.pcie := rfl
@[simp] theorem modVat_qps : (modVat v f s).qps = s.qps := rfl
@[simp] theorem modVat_store : (modVat v f s).store = s.store := rfl
@[simp] theorem modVat_raised : (modVat v f s).raised = s.raised := rfl
@[simp] theorem modVat_hearths : (modVat v f s).hearths = s.hearths := rfl
@[simp] theorem modVat_dones : (modVat v f s).dones = s.dones := rfl
@[simp] theorem modVat_jobs : (modVat v f s).jobs = s.jobs := rfl
@[simp] theorem modVat_jobOrder : (modVat v f s).jobOrder = s.jobOrder := rfl
@[simp] theorem modVat_cmds : (modVat v f s).cmds = s.cmds := rfl
@[simp] theorem modVat_sems : (modVat v f s).sems = s.sems := rfl
@[simp] theorem modVat_killStatus : (modVat v f s).killStatus = s.killStatus := rfl
@[simp] theorem modVat_image : (modVat v f s).image = s.image := rfl
@[simp] theorem modVat_reload : (modVat v f s).reload = s.reload := rfl
@[simp] theorem modVat_versions : (modVat v f s).versions = s.versions := rfl
@[simp] theorem modVat_media : (modVat v f s).media = s.media := rfl
@[simp] theorem modVat_ether : (modVat v f s).ether = s.ether := rfl
@[simp] theorem modVat_dram : (modVat v f s).dram = s.dram := rfl
@[simp] theorem modVat_dramPoison : (modVat v f s).dramPoison = s.dramPoison := rfl
@[simp] theorem modVat_channels : (modVat v f s).channels = s.channels := rfl
@[simp] theorem modVat_drams : (modVat v f s).drams = s.drams := rfl
@[simp] theorem modVat_boot : (modVat v f s).boot = s.boot := rfl
@[simp] theorem modVat_elec : (modVat v f s).elec = s.elec := rfl
end

/-! ### `modCmd` -/

section
variable (j : Nat) (q : Word) (f : Cmd → Cmd) (s : State)
@[simp] theorem modCmd_pending : (modCmd j q f s).pending = s.pending := rfl
@[simp] theorem modCmd_now : (modCmd j q f s).now = s.now := rfl
@[simp] theorem modCmd_fresh : (modCmd j q f s).fresh = s.fresh := rfl
@[simp] theorem modCmd_out : (modCmd j q f s).out = s.out := rfl
@[simp] theorem modCmd_cfg : (modCmd j q f s).cfg = s.cfg := rfl
@[simp] theorem modCmd_readHold : (modCmd j q f s).readHold = s.readHold := rfl
@[simp] theorem modCmd_writeHold : (modCmd j q f s).writeHold = s.writeHold := rfl
@[simp] theorem modCmd_recorder : (modCmd j q f s).recorder = s.recorder := rfl
@[simp] theorem modCmd_power : (modCmd j q f s).power = s.power := rfl
@[simp] theorem modCmd_pcie : (modCmd j q f s).pcie = s.pcie := rfl
@[simp] theorem modCmd_qps : (modCmd j q f s).qps = s.qps := rfl
@[simp] theorem modCmd_store : (modCmd j q f s).store = s.store := rfl
@[simp] theorem modCmd_raised : (modCmd j q f s).raised = s.raised := rfl
@[simp] theorem modCmd_hearths : (modCmd j q f s).hearths = s.hearths := rfl
@[simp] theorem modCmd_dones : (modCmd j q f s).dones = s.dones := rfl
@[simp] theorem modCmd_jobs : (modCmd j q f s).jobs = s.jobs := rfl
@[simp] theorem modCmd_jobOrder : (modCmd j q f s).jobOrder = s.jobOrder := rfl
@[simp] theorem modCmd_sems : (modCmd j q f s).sems = s.sems := rfl
@[simp] theorem modCmd_killStatus : (modCmd j q f s).killStatus = s.killStatus := rfl
@[simp] theorem modCmd_vats : (modCmd j q f s).vats = s.vats := rfl
@[simp] theorem modCmd_image : (modCmd j q f s).image = s.image := rfl
@[simp] theorem modCmd_reload : (modCmd j q f s).reload = s.reload := rfl
@[simp] theorem modCmd_versions : (modCmd j q f s).versions = s.versions := rfl
@[simp] theorem modCmd_media : (modCmd j q f s).media = s.media := rfl
@[simp] theorem modCmd_ether : (modCmd j q f s).ether = s.ether := rfl
@[simp] theorem modCmd_dram : (modCmd j q f s).dram = s.dram := rfl
@[simp] theorem modCmd_dramPoison : (modCmd j q f s).dramPoison = s.dramPoison := rfl
@[simp] theorem modCmd_channels : (modCmd j q f s).channels = s.channels := rfl
@[simp] theorem modCmd_drams : (modCmd j q f s).drams = s.drams := rfl
@[simp] theorem modCmd_boot : (modCmd j q f s).boot = s.boot := rfl
@[simp] theorem modCmd_elec : (modCmd j q f s).elec = s.elec := rfl
end

/-! ### `modRec` -/

section
variable (f : Recorder → Recorder) (s : State)
@[simp] theorem modRec_pending : (modRec f s).pending = s.pending := rfl
@[simp] theorem modRec_now : (modRec f s).now = s.now := rfl
@[simp] theorem modRec_fresh : (modRec f s).fresh = s.fresh := rfl
@[simp] theorem modRec_out : (modRec f s).out = s.out := rfl
@[simp] theorem modRec_cfg : (modRec f s).cfg = s.cfg := rfl
@[simp] theorem modRec_readHold : (modRec f s).readHold = s.readHold := rfl
@[simp] theorem modRec_writeHold : (modRec f s).writeHold = s.writeHold := rfl
@[simp] theorem modRec_power : (modRec f s).power = s.power := rfl
@[simp] theorem modRec_pcie : (modRec f s).pcie = s.pcie := rfl
@[simp] theorem modRec_qps : (modRec f s).qps = s.qps := rfl
@[simp] theorem modRec_store : (modRec f s).store = s.store := rfl
@[simp] theorem modRec_raised : (modRec f s).raised = s.raised := rfl
@[simp] theorem modRec_hearths : (modRec f s).hearths = s.hearths := rfl
@[simp] theorem modRec_dones : (modRec f s).dones = s.dones := rfl
@[simp] theorem modRec_jobs : (modRec f s).jobs = s.jobs := rfl
@[simp] theorem modRec_jobOrder : (modRec f s).jobOrder = s.jobOrder := rfl
@[simp] theorem modRec_cmds : (modRec f s).cmds = s.cmds := rfl
@[simp] theorem modRec_sems : (modRec f s).sems = s.sems := rfl
@[simp] theorem modRec_killStatus : (modRec f s).killStatus = s.killStatus := rfl
@[simp] theorem modRec_vats : (modRec f s).vats = s.vats := rfl
@[simp] theorem modRec_image : (modRec f s).image = s.image := rfl
@[simp] theorem modRec_reload : (modRec f s).reload = s.reload := rfl
@[simp] theorem modRec_versions : (modRec f s).versions = s.versions := rfl
@[simp] theorem modRec_media : (modRec f s).media = s.media := rfl
@[simp] theorem modRec_ether : (modRec f s).ether = s.ether := rfl
@[simp] theorem modRec_dram : (modRec f s).dram = s.dram := rfl
@[simp] theorem modRec_dramPoison : (modRec f s).dramPoison = s.dramPoison := rfl
@[simp] theorem modRec_channels : (modRec f s).channels = s.channels := rfl
@[simp] theorem modRec_drams : (modRec f s).drams = s.drams := rfl
@[simp] theorem modRec_boot : (modRec f s).boot = s.boot := rfl
@[simp] theorem modRec_elec : (modRec f s).elec = s.elec := rfl
@[simp] theorem modRec_recorder : (modRec f s).recorder = f s.recorder := rfl
end

/-! ### `modSoot` -/

section
variable (f : Soot → Soot) (s : State)
@[simp] theorem modSoot_pending : (modSoot f s).pending = s.pending := rfl
@[simp] theorem modSoot_now : (modSoot f s).now = s.now := rfl
@[simp] theorem modSoot_fresh : (modSoot f s).fresh = s.fresh := rfl
@[simp] theorem modSoot_out : (modSoot f s).out = s.out := rfl
@[simp] theorem modSoot_cfg : (modSoot f s).cfg = s.cfg := rfl
@[simp] theorem modSoot_readHold : (modSoot f s).readHold = s.readHold := rfl
@[simp] theorem modSoot_writeHold : (modSoot f s).writeHold = s.writeHold := rfl
@[simp] theorem modSoot_power : (modSoot f s).power = s.power := rfl
@[simp] theorem modSoot_pcie : (modSoot f s).pcie = s.pcie := rfl
@[simp] theorem modSoot_qps : (modSoot f s).qps = s.qps := rfl
@[simp] theorem modSoot_store : (modSoot f s).store = s.store := rfl
@[simp] theorem modSoot_raised : (modSoot f s).raised = s.raised := rfl
@[simp] theorem modSoot_hearths : (modSoot f s).hearths = s.hearths := rfl
@[simp] theorem modSoot_dones : (modSoot f s).dones = s.dones := rfl
@[simp] theorem modSoot_jobs : (modSoot f s).jobs = s.jobs := rfl
@[simp] theorem modSoot_jobOrder : (modSoot f s).jobOrder = s.jobOrder := rfl
@[simp] theorem modSoot_cmds : (modSoot f s).cmds = s.cmds := rfl
@[simp] theorem modSoot_sems : (modSoot f s).sems = s.sems := rfl
@[simp] theorem modSoot_killStatus : (modSoot f s).killStatus = s.killStatus := rfl
@[simp] theorem modSoot_vats : (modSoot f s).vats = s.vats := rfl
@[simp] theorem modSoot_image : (modSoot f s).image = s.image := rfl
@[simp] theorem modSoot_reload : (modSoot f s).reload = s.reload := rfl
@[simp] theorem modSoot_versions : (modSoot f s).versions = s.versions := rfl
@[simp] theorem modSoot_media : (modSoot f s).media = s.media := rfl
@[simp] theorem modSoot_ether : (modSoot f s).ether = s.ether := rfl
@[simp] theorem modSoot_dram : (modSoot f s).dram = s.dram := rfl
@[simp] theorem modSoot_dramPoison : (modSoot f s).dramPoison = s.dramPoison := rfl
@[simp] theorem modSoot_channels : (modSoot f s).channels = s.channels := rfl
@[simp] theorem modSoot_drams : (modSoot f s).drams = s.drams := rfl
@[simp] theorem modSoot_boot : (modSoot f s).boot = s.boot := rfl
@[simp] theorem modSoot_elec : (modSoot f s).elec = s.elec := rfl
@[simp] theorem modSoot_recorder : (modSoot f s).recorder = { s.recorder with soot := f s.recorder.soot } := rfl
end

/-! ### `modPcie` -/

section
variable (f : Pcie → Pcie) (s : State)
@[simp] theorem modPcie_pending : (modPcie f s).pending = s.pending := rfl
@[simp] theorem modPcie_now : (modPcie f s).now = s.now := rfl
@[simp] theorem modPcie_fresh : (modPcie f s).fresh = s.fresh := rfl
@[simp] theorem modPcie_out : (modPcie f s).out = s.out := rfl
@[simp] theorem modPcie_cfg : (modPcie f s).cfg = s.cfg := rfl
@[simp] theorem modPcie_readHold : (modPcie f s).readHold = s.readHold := rfl
@[simp] theorem modPcie_writeHold : (modPcie f s).writeHold = s.writeHold := rfl
@[simp] theorem modPcie_recorder : (modPcie f s).recorder = s.recorder := rfl
@[simp] theorem modPcie_power : (modPcie f s).power = s.power := rfl
@[simp] theorem modPcie_qps : (modPcie f s).qps = s.qps := rfl
@[simp] theorem modPcie_store : (modPcie f s).store = s.store := rfl
@[simp] theorem modPcie_raised : (modPcie f s).raised = s.raised := rfl
@[simp] theorem modPcie_hearths : (modPcie f s).hearths = s.hearths := rfl
@[simp] theorem modPcie_dones : (modPcie f s).dones = s.dones := rfl
@[simp] theorem modPcie_jobs : (modPcie f s).jobs = s.jobs := rfl
@[simp] theorem modPcie_jobOrder : (modPcie f s).jobOrder = s.jobOrder := rfl
@[simp] theorem modPcie_cmds : (modPcie f s).cmds = s.cmds := rfl
@[simp] theorem modPcie_sems : (modPcie f s).sems = s.sems := rfl
@[simp] theorem modPcie_killStatus : (modPcie f s).killStatus = s.killStatus := rfl
@[simp] theorem modPcie_vats : (modPcie f s).vats = s.vats := rfl
@[simp] theorem modPcie_image : (modPcie f s).image = s.image := rfl
@[simp] theorem modPcie_reload : (modPcie f s).reload = s.reload := rfl
@[simp] theorem modPcie_versions : (modPcie f s).versions = s.versions := rfl
@[simp] theorem modPcie_media : (modPcie f s).media = s.media := rfl
@[simp] theorem modPcie_ether : (modPcie f s).ether = s.ether := rfl
@[simp] theorem modPcie_dram : (modPcie f s).dram = s.dram := rfl
@[simp] theorem modPcie_dramPoison : (modPcie f s).dramPoison = s.dramPoison := rfl
@[simp] theorem modPcie_channels : (modPcie f s).channels = s.channels := rfl
@[simp] theorem modPcie_drams : (modPcie f s).drams = s.drams := rfl
@[simp] theorem modPcie_boot : (modPcie f s).boot = s.boot := rfl
@[simp] theorem modPcie_elec : (modPcie f s).elec = s.elec := rfl
@[simp] theorem modPcie_pcie : (modPcie f s).pcie = f s.pcie := rfl
end

/-! ### `modPower` -/

section
variable (f : Power → Power) (s : State)
@[simp] theorem modPower_pending : (modPower f s).pending = s.pending := rfl
@[simp] theorem modPower_now : (modPower f s).now = s.now := rfl
@[simp] theorem modPower_fresh : (modPower f s).fresh = s.fresh := rfl
@[simp] theorem modPower_out : (modPower f s).out = s.out := rfl
@[simp] theorem modPower_cfg : (modPower f s).cfg = s.cfg := rfl
@[simp] theorem modPower_readHold : (modPower f s).readHold = s.readHold := rfl
@[simp] theorem modPower_writeHold : (modPower f s).writeHold = s.writeHold := rfl
@[simp] theorem modPower_recorder : (modPower f s).recorder = s.recorder := rfl
@[simp] theorem modPower_pcie : (modPower f s).pcie = s.pcie := rfl
@[simp] theorem modPower_qps : (modPower f s).qps = s.qps := rfl
@[simp] theorem modPower_store : (modPower f s).store = s.store := rfl
@[simp] theorem modPower_raised : (modPower f s).raised = s.raised := rfl
@[simp] theorem modPower_hearths : (modPower f s).hearths = s.hearths := rfl
@[simp] theorem modPower_dones : (modPower f s).dones = s.dones := rfl
@[simp] theorem modPower_jobs : (modPower f s).jobs = s.jobs := rfl
@[simp] theorem modPower_jobOrder : (modPower f s).jobOrder = s.jobOrder := rfl
@[simp] theorem modPower_cmds : (modPower f s).cmds = s.cmds := rfl
@[simp] theorem modPower_sems : (modPower f s).sems = s.sems := rfl
@[simp] theorem modPower_killStatus : (modPower f s).killStatus = s.killStatus := rfl
@[simp] theorem modPower_vats : (modPower f s).vats = s.vats := rfl
@[simp] theorem modPower_image : (modPower f s).image = s.image := rfl
@[simp] theorem modPower_reload : (modPower f s).reload = s.reload := rfl
@[simp] theorem modPower_versions : (modPower f s).versions = s.versions := rfl
@[simp] theorem modPower_media : (modPower f s).media = s.media := rfl
@[simp] theorem modPower_ether : (modPower f s).ether = s.ether := rfl
@[simp] theorem modPower_dram : (modPower f s).dram = s.dram := rfl
@[simp] theorem modPower_dramPoison : (modPower f s).dramPoison = s.dramPoison := rfl
@[simp] theorem modPower_channels : (modPower f s).channels = s.channels := rfl
@[simp] theorem modPower_drams : (modPower f s).drams = s.drams := rfl
@[simp] theorem modPower_boot : (modPower f s).boot = s.boot := rfl
@[simp] theorem modPower_elec : (modPower f s).elec = s.elec := rfl
@[simp] theorem modPower_power : (modPower f s).power = f s.power := rfl
end

/-! ### `modBoot` -/

section
variable (f : Boot → Boot) (s : State)
@[simp] theorem modBoot_pending : (modBoot f s).pending = s.pending := rfl
@[simp] theorem modBoot_now : (modBoot f s).now = s.now := rfl
@[simp] theorem modBoot_fresh : (modBoot f s).fresh = s.fresh := rfl
@[simp] theorem modBoot_out : (modBoot f s).out = s.out := rfl
@[simp] theorem modBoot_cfg : (modBoot f s).cfg = s.cfg := rfl
@[simp] theorem modBoot_readHold : (modBoot f s).readHold = s.readHold := rfl
@[simp] theorem modBoot_writeHold : (modBoot f s).writeHold = s.writeHold := rfl
@[simp] theorem modBoot_recorder : (modBoot f s).recorder = s.recorder := rfl
@[simp] theorem modBoot_power : (modBoot f s).power = s.power := rfl
@[simp] theorem modBoot_pcie : (modBoot f s).pcie = s.pcie := rfl
@[simp] theorem modBoot_qps : (modBoot f s).qps = s.qps := rfl
@[simp] theorem modBoot_store : (modBoot f s).store = s.store := rfl
@[simp] theorem modBoot_raised : (modBoot f s).raised = s.raised := rfl
@[simp] theorem modBoot_hearths : (modBoot f s).hearths = s.hearths := rfl
@[simp] theorem modBoot_dones : (modBoot f s).dones = s.dones := rfl
@[simp] theorem modBoot_jobs : (modBoot f s).jobs = s.jobs := rfl
@[simp] theorem modBoot_jobOrder : (modBoot f s).jobOrder = s.jobOrder := rfl
@[simp] theorem modBoot_cmds : (modBoot f s).cmds = s.cmds := rfl
@[simp] theorem modBoot_sems : (modBoot f s).sems = s.sems := rfl
@[simp] theorem modBoot_killStatus : (modBoot f s).killStatus = s.killStatus := rfl
@[simp] theorem modBoot_vats : (modBoot f s).vats = s.vats := rfl
@[simp] theorem modBoot_image : (modBoot f s).image = s.image := rfl
@[simp] theorem modBoot_reload : (modBoot f s).reload = s.reload := rfl
@[simp] theorem modBoot_versions : (modBoot f s).versions = s.versions := rfl
@[simp] theorem modBoot_media : (modBoot f s).media = s.media := rfl
@[simp] theorem modBoot_ether : (modBoot f s).ether = s.ether := rfl
@[simp] theorem modBoot_dram : (modBoot f s).dram = s.dram := rfl
@[simp] theorem modBoot_dramPoison : (modBoot f s).dramPoison = s.dramPoison := rfl
@[simp] theorem modBoot_channels : (modBoot f s).channels = s.channels := rfl
@[simp] theorem modBoot_drams : (modBoot f s).drams = s.drams := rfl
@[simp] theorem modBoot_elec : (modBoot f s).elec = s.elec := rfl
@[simp] theorem modBoot_boot : (modBoot f s).boot = f s.boot := rfl
end

/-! ### `modElec` -/

section
variable (f : Elec → Elec) (s : State)
@[simp] theorem modElec_pending : (modElec f s).pending = s.pending := rfl
@[simp] theorem modElec_now : (modElec f s).now = s.now := rfl
@[simp] theorem modElec_fresh : (modElec f s).fresh = s.fresh := rfl
@[simp] theorem modElec_out : (modElec f s).out = s.out := rfl
@[simp] theorem modElec_cfg : (modElec f s).cfg = s.cfg := rfl
@[simp] theorem modElec_readHold : (modElec f s).readHold = s.readHold := rfl
@[simp] theorem modElec_writeHold : (modElec f s).writeHold = s.writeHold := rfl
@[simp] theorem modElec_recorder : (modElec f s).recorder = s.recorder := rfl
@[simp] theorem modElec_power : (modElec f s).power = s.power := rfl
@[simp] theorem modElec_pcie : (modElec f s).pcie = s.pcie := rfl
@[simp] theorem modElec_qps : (modElec f s).qps = s.qps := rfl
@[simp] theorem modElec_store : (modElec f s).store = s.store := rfl
@[simp] theorem modElec_raised : (modElec f s).raised = s.raised := rfl
@[simp] theorem modElec_hearths : (modElec f s).hearths = s.hearths := rfl
@[simp] theorem modElec_dones : (modElec f s).dones = s.dones := rfl
@[simp] theorem modElec_jobs : (modElec f s).jobs = s.jobs := rfl
@[simp] theorem modElec_jobOrder : (modElec f s).jobOrder = s.jobOrder := rfl
@[simp] theorem modElec_cmds : (modElec f s).cmds = s.cmds := rfl
@[simp] theorem modElec_sems : (modElec f s).sems = s.sems := rfl
@[simp] theorem modElec_killStatus : (modElec f s).killStatus = s.killStatus := rfl
@[simp] theorem modElec_vats : (modElec f s).vats = s.vats := rfl
@[simp] theorem modElec_image : (modElec f s).image = s.image := rfl
@[simp] theorem modElec_reload : (modElec f s).reload = s.reload := rfl
@[simp] theorem modElec_versions : (modElec f s).versions = s.versions := rfl
@[simp] theorem modElec_media : (modElec f s).media = s.media := rfl
@[simp] theorem modElec_ether : (modElec f s).ether = s.ether := rfl
@[simp] theorem modElec_dram : (modElec f s).dram = s.dram := rfl
@[simp] theorem modElec_dramPoison : (modElec f s).dramPoison = s.dramPoison := rfl
@[simp] theorem modElec_channels : (modElec f s).channels = s.channels := rfl
@[simp] theorem modElec_drams : (modElec f s).drams = s.drams := rfl
@[simp] theorem modElec_boot : (modElec f s).boot = s.boot := rfl
@[simp] theorem modElec_elec : (modElec f s).elec = f s.elec := rfl
end

/-! ### `modMedia` -/

section
variable (f : Media → Media) (s : State)
@[simp] theorem modMedia_pending : (modMedia f s).pending = s.pending := rfl
@[simp] theorem modMedia_now : (modMedia f s).now = s.now := rfl
@[simp] theorem modMedia_fresh : (modMedia f s).fresh = s.fresh := rfl
@[simp] theorem modMedia_out : (modMedia f s).out = s.out := rfl
@[simp] theorem modMedia_cfg : (modMedia f s).cfg = s.cfg := rfl
@[simp] theorem modMedia_readHold : (modMedia f s).readHold = s.readHold := rfl
@[simp] theorem modMedia_writeHold : (modMedia f s).writeHold = s.writeHold := rfl
@[simp] theorem modMedia_recorder : (modMedia f s).recorder = s.recorder := rfl
@[simp] theorem modMedia_power : (modMedia f s).power = s.power := rfl
@[simp] theorem modMedia_pcie : (modMedia f s).pcie = s.pcie := rfl
@[simp] theorem modMedia_qps : (modMedia f s).qps = s.qps := rfl
@[simp] theorem modMedia_store : (modMedia f s).store = s.store := rfl
@[simp] theorem modMedia_raised : (modMedia f s).raised = s.raised := rfl
@[simp] theorem modMedia_hearths : (modMedia f s).hearths = s.hearths := rfl
@[simp] theorem modMedia_dones : (modMedia f s).dones = s.dones := rfl
@[simp] theorem modMedia_jobs : (modMedia f s).jobs = s.jobs := rfl
@[simp] theorem modMedia_jobOrder : (modMedia f s).jobOrder = s.jobOrder := rfl
@[simp] theorem modMedia_cmds : (modMedia f s).cmds = s.cmds := rfl
@[simp] theorem modMedia_sems : (modMedia f s).sems = s.sems := rfl
@[simp] theorem modMedia_killStatus : (modMedia f s).killStatus = s.killStatus := rfl
@[simp] theorem modMedia_vats : (modMedia f s).vats = s.vats := rfl
@[simp] theorem modMedia_image : (modMedia f s).image = s.image := rfl
@[simp] theorem modMedia_reload : (modMedia f s).reload = s.reload := rfl
@[simp] theorem modMedia_versions : (modMedia f s).versions = s.versions := rfl
@[simp] theorem modMedia_ether : (modMedia f s).ether = s.ether := rfl
@[simp] theorem modMedia_dram : (modMedia f s).dram = s.dram := rfl
@[simp] theorem modMedia_dramPoison : (modMedia f s).dramPoison = s.dramPoison := rfl
@[simp] theorem modMedia_channels : (modMedia f s).channels = s.channels := rfl
@[simp] theorem modMedia_drams : (modMedia f s).drams = s.drams := rfl
@[simp] theorem modMedia_boot : (modMedia f s).boot = s.boot := rfl
@[simp] theorem modMedia_elec : (modMedia f s).elec = s.elec := rfl
@[simp] theorem modMedia_media : (modMedia f s).media = f s.media := rfl
end

/-! ### `modEther` -/

section
variable (f : Ether → Ether) (s : State)
@[simp] theorem modEther_pending : (modEther f s).pending = s.pending := rfl
@[simp] theorem modEther_now : (modEther f s).now = s.now := rfl
@[simp] theorem modEther_fresh : (modEther f s).fresh = s.fresh := rfl
@[simp] theorem modEther_out : (modEther f s).out = s.out := rfl
@[simp] theorem modEther_cfg : (modEther f s).cfg = s.cfg := rfl
@[simp] theorem modEther_readHold : (modEther f s).readHold = s.readHold := rfl
@[simp] theorem modEther_writeHold : (modEther f s).writeHold = s.writeHold := rfl
@[simp] theorem modEther_recorder : (modEther f s).recorder = s.recorder := rfl
@[simp] theorem modEther_power : (modEther f s).power = s.power := rfl
@[simp] theorem modEther_pcie : (modEther f s).pcie = s.pcie := rfl
@[simp] theorem modEther_qps : (modEther f s).qps = s.qps := rfl
@[simp] theorem modEther_store : (modEther f s).store = s.store := rfl
@[simp] theorem modEther_raised : (modEther f s).raised = s.raised := rfl
@[simp] theorem modEther_hearths : (modEther f s).hearths = s.hearths := rfl
@[simp] theorem modEther_dones : (modEther f s).dones = s.dones := rfl
@[simp] theorem modEther_jobs : (modEther f s).jobs = s.jobs := rfl
@[simp] theorem modEther_jobOrder : (modEther f s).jobOrder = s.jobOrder := rfl
@[simp] theorem modEther_cmds : (modEther f s).cmds = s.cmds := rfl
@[simp] theorem modEther_sems : (modEther f s).sems = s.sems := rfl
@[simp] theorem modEther_killStatus : (modEther f s).killStatus = s.killStatus := rfl
@[simp] theorem modEther_vats : (modEther f s).vats = s.vats := rfl
@[simp] theorem modEther_image : (modEther f s).image = s.image := rfl
@[simp] theorem modEther_reload : (modEther f s).reload = s.reload := rfl
@[simp] theorem modEther_versions : (modEther f s).versions = s.versions := rfl
@[simp] theorem modEther_media : (modEther f s).media = s.media := rfl
@[simp] theorem modEther_dram : (modEther f s).dram = s.dram := rfl
@[simp] theorem modEther_dramPoison : (modEther f s).dramPoison = s.dramPoison := rfl
@[simp] theorem modEther_channels : (modEther f s).channels = s.channels := rfl
@[simp] theorem modEther_drams : (modEther f s).drams = s.drams := rfl
@[simp] theorem modEther_boot : (modEther f s).boot = s.boot := rfl
@[simp] theorem modEther_elec : (modEther f s).elec = s.elec := rfl
@[simp] theorem modEther_ether : (modEther f s).ether = f s.ether := rfl
end

/-! ### `modReload` -/

section
variable (f : Reload → Reload) (s : State)
@[simp] theorem modReload_pending : (modReload f s).pending = s.pending := rfl
@[simp] theorem modReload_now : (modReload f s).now = s.now := rfl
@[simp] theorem modReload_fresh : (modReload f s).fresh = s.fresh := rfl
@[simp] theorem modReload_out : (modReload f s).out = s.out := rfl
@[simp] theorem modReload_cfg : (modReload f s).cfg = s.cfg := rfl
@[simp] theorem modReload_readHold : (modReload f s).readHold = s.readHold := rfl
@[simp] theorem modReload_writeHold : (modReload f s).writeHold = s.writeHold := rfl
@[simp] theorem modReload_recorder : (modReload f s).recorder = s.recorder := rfl
@[simp] theorem modReload_power : (modReload f s).power = s.power := rfl
@[simp] theorem modReload_pcie : (modReload f s).pcie = s.pcie := rfl
@[simp] theorem modReload_qps : (modReload f s).qps = s.qps := rfl
@[simp] theorem modReload_store : (modReload f s).store = s.store := rfl
@[simp] theorem modReload_raised : (modReload f s).raised = s.raised := rfl
@[simp] theorem modReload_hearths : (modReload f s).hearths = s.hearths := rfl
@[simp] theorem modReload_dones : (modReload f s).dones = s.dones := rfl
@[simp] theorem modReload_jobs : (modReload f s).jobs = s.jobs := rfl
@[simp] theorem modReload_jobOrder : (modReload f s).jobOrder = s.jobOrder := rfl
@[simp] theorem modReload_cmds : (modReload f s).cmds = s.cmds := rfl
@[simp] theorem modReload_sems : (modReload f s).sems = s.sems := rfl
@[simp] theorem modReload_killStatus : (modReload f s).killStatus = s.killStatus := rfl
@[simp] theorem modReload_vats : (modReload f s).vats = s.vats := rfl
@[simp] theorem modReload_image : (modReload f s).image = s.image := rfl
@[simp] theorem modReload_versions : (modReload f s).versions = s.versions := rfl
@[simp] theorem modReload_media : (modReload f s).media = s.media := rfl
@[simp] theorem modReload_ether : (modReload f s).ether = s.ether := rfl
@[simp] theorem modReload_dram : (modReload f s).dram = s.dram := rfl
@[simp] theorem modReload_dramPoison : (modReload f s).dramPoison = s.dramPoison := rfl
@[simp] theorem modReload_channels : (modReload f s).channels = s.channels := rfl
@[simp] theorem modReload_drams : (modReload f s).drams = s.drams := rfl
@[simp] theorem modReload_boot : (modReload f s).boot = s.boot := rfl
@[simp] theorem modReload_elec : (modReload f s).elec = s.elec := rfl
@[simp] theorem modReload_reload : (modReload f s).reload = f s.reload := rfl
end

/-! ### `modChan` -/

section
variable (c : Nat) (f : Channel → Channel) (s : State)
@[simp] theorem modChan_pending : (modChan c f s).pending = s.pending := rfl
@[simp] theorem modChan_now : (modChan c f s).now = s.now := rfl
@[simp] theorem modChan_fresh : (modChan c f s).fresh = s.fresh := rfl
@[simp] theorem modChan_out : (modChan c f s).out = s.out := rfl
@[simp] theorem modChan_cfg : (modChan c f s).cfg = s.cfg := rfl
@[simp] theorem modChan_readHold : (modChan c f s).readHold = s.readHold := rfl
@[simp] theorem modChan_writeHold : (modChan c f s).writeHold = s.writeHold := rfl
@[simp] theorem modChan_recorder : (modChan c f s).recorder = s.recorder := rfl
@[simp] theorem modChan_power : (modChan c f s).power = s.power := rfl
@[simp] theorem modChan_pcie : (modChan c f s).pcie = s.pcie := rfl
@[simp] theorem modChan_qps : (modChan c f s).qps = s.qps := rfl
@[simp] theorem modChan_store : (modChan c f s).store = s.store := rfl
@[simp] theorem modChan_raised : (modChan c f s).raised = s.raised := rfl
@[simp] theorem modChan_hearths : (modChan c f s).hearths = s.hearths := rfl
@[simp] theorem modChan_dones : (modChan c f s).dones = s.dones := rfl
@[simp] theorem modChan_jobs : (modChan c f s).jobs = s.jobs := rfl
@[simp] theorem modChan_jobOrder : (modChan c f s).jobOrder = s.jobOrder := rfl
@[simp] theorem modChan_cmds : (modChan c f s).cmds = s.cmds := rfl
@[simp] theorem modChan_sems : (modChan c f s).sems = s.sems := rfl
@[simp] theorem modChan_killStatus : (modChan c f s).killStatus = s.killStatus := rfl
@[simp] theorem modChan_vats : (modChan c f s).vats = s.vats := rfl
@[simp] theorem modChan_image : (modChan c f s).image = s.image := rfl
@[simp] theorem modChan_reload : (modChan c f s).reload = s.reload := rfl
@[simp] theorem modChan_versions : (modChan c f s).versions = s.versions := rfl
@[simp] theorem modChan_media : (modChan c f s).media = s.media := rfl
@[simp] theorem modChan_ether : (modChan c f s).ether = s.ether := rfl
@[simp] theorem modChan_dram : (modChan c f s).dram = s.dram := rfl
@[simp] theorem modChan_dramPoison : (modChan c f s).dramPoison = s.dramPoison := rfl
@[simp] theorem modChan_drams : (modChan c f s).drams = s.drams := rfl
@[simp] theorem modChan_boot : (modChan c f s).boot = s.boot := rfl
@[simp] theorem modChan_elec : (modChan c f s).elec = s.elec := rfl
end

/-! ### `modDrams` -/

section
variable (f : DramShared → DramShared) (s : State)
@[simp] theorem modDrams_pending : (modDrams f s).pending = s.pending := rfl
@[simp] theorem modDrams_now : (modDrams f s).now = s.now := rfl
@[simp] theorem modDrams_fresh : (modDrams f s).fresh = s.fresh := rfl
@[simp] theorem modDrams_out : (modDrams f s).out = s.out := rfl
@[simp] theorem modDrams_cfg : (modDrams f s).cfg = s.cfg := rfl
@[simp] theorem modDrams_readHold : (modDrams f s).readHold = s.readHold := rfl
@[simp] theorem modDrams_writeHold : (modDrams f s).writeHold = s.writeHold := rfl
@[simp] theorem modDrams_recorder : (modDrams f s).recorder = s.recorder := rfl
@[simp] theorem modDrams_power : (modDrams f s).power = s.power := rfl
@[simp] theorem modDrams_pcie : (modDrams f s).pcie = s.pcie := rfl
@[simp] theorem modDrams_qps : (modDrams f s).qps = s.qps := rfl
@[simp] theorem modDrams_store : (modDrams f s).store = s.store := rfl
@[simp] theorem modDrams_raised : (modDrams f s).raised = s.raised := rfl
@[simp] theorem modDrams_hearths : (modDrams f s).hearths = s.hearths := rfl
@[simp] theorem modDrams_dones : (modDrams f s).dones = s.dones := rfl
@[simp] theorem modDrams_jobs : (modDrams f s).jobs = s.jobs := rfl
@[simp] theorem modDrams_jobOrder : (modDrams f s).jobOrder = s.jobOrder := rfl
@[simp] theorem modDrams_cmds : (modDrams f s).cmds = s.cmds := rfl
@[simp] theorem modDrams_sems : (modDrams f s).sems = s.sems := rfl
@[simp] theorem modDrams_killStatus : (modDrams f s).killStatus = s.killStatus := rfl
@[simp] theorem modDrams_vats : (modDrams f s).vats = s.vats := rfl
@[simp] theorem modDrams_image : (modDrams f s).image = s.image := rfl
@[simp] theorem modDrams_reload : (modDrams f s).reload = s.reload := rfl
@[simp] theorem modDrams_versions : (modDrams f s).versions = s.versions := rfl
@[simp] theorem modDrams_media : (modDrams f s).media = s.media := rfl
@[simp] theorem modDrams_ether : (modDrams f s).ether = s.ether := rfl
@[simp] theorem modDrams_dram : (modDrams f s).dram = s.dram := rfl
@[simp] theorem modDrams_dramPoison : (modDrams f s).dramPoison = s.dramPoison := rfl
@[simp] theorem modDrams_channels : (modDrams f s).channels = s.channels := rfl
@[simp] theorem modDrams_boot : (modDrams f s).boot = s.boot := rfl
@[simp] theorem modDrams_elec : (modDrams f s).elec = s.elec := rfl
@[simp] theorem modDrams_drams : (modDrams f s).drams = f s.drams := rfl
end

/-! ### `emit` -/

section
variable (o : Output) (s : State)
@[simp] theorem emit_pending : (emit o s).pending = s.pending := rfl
@[simp] theorem emit_now : (emit o s).now = s.now := rfl
@[simp] theorem emit_fresh : (emit o s).fresh = s.fresh := rfl
@[simp] theorem emit_cfg : (emit o s).cfg = s.cfg := rfl
@[simp] theorem emit_readHold : (emit o s).readHold = s.readHold := rfl
@[simp] theorem emit_writeHold : (emit o s).writeHold = s.writeHold := rfl
@[simp] theorem emit_recorder : (emit o s).recorder = s.recorder := rfl
@[simp] theorem emit_power : (emit o s).power = s.power := rfl
@[simp] theorem emit_pcie : (emit o s).pcie = s.pcie := rfl
@[simp] theorem emit_qps : (emit o s).qps = s.qps := rfl
@[simp] theorem emit_store : (emit o s).store = s.store := rfl
@[simp] theorem emit_raised : (emit o s).raised = s.raised := rfl
@[simp] theorem emit_hearths : (emit o s).hearths = s.hearths := rfl
@[simp] theorem emit_dones : (emit o s).dones = s.dones := rfl
@[simp] theorem emit_jobs : (emit o s).jobs = s.jobs := rfl
@[simp] theorem emit_jobOrder : (emit o s).jobOrder = s.jobOrder := rfl
@[simp] theorem emit_cmds : (emit o s).cmds = s.cmds := rfl
@[simp] theorem emit_sems : (emit o s).sems = s.sems := rfl
@[simp] theorem emit_killStatus : (emit o s).killStatus = s.killStatus := rfl
@[simp] theorem emit_vats : (emit o s).vats = s.vats := rfl
@[simp] theorem emit_image : (emit o s).image = s.image := rfl
@[simp] theorem emit_reload : (emit o s).reload = s.reload := rfl
@[simp] theorem emit_versions : (emit o s).versions = s.versions := rfl
@[simp] theorem emit_media : (emit o s).media = s.media := rfl
@[simp] theorem emit_ether : (emit o s).ether = s.ether := rfl
@[simp] theorem emit_dram : (emit o s).dram = s.dram := rfl
@[simp] theorem emit_dramPoison : (emit o s).dramPoison = s.dramPoison := rfl
@[simp] theorem emit_channels : (emit o s).channels = s.channels := rfl
@[simp] theorem emit_drams : (emit o s).drams = s.drams := rfl
@[simp] theorem emit_boot : (emit o s).boot = s.boot := rfl
@[simp] theorem emit_elec : (emit o s).elec = s.elec := rfl
@[simp] theorem emit_out : (emit o s).out = s.out ++ [o] := rfl
end

/-! ### `draw` -/

section
variable (w : Nat) (s : State)
@[simp] theorem draw_value : (draw w s).1 = Config.freeValue w s.fresh := rfl
@[simp] theorem draw_fresh : (draw w s).2.fresh = s.fresh + 1 := rfl
@[simp] theorem draw_pending : (draw w s).2.pending = s.pending := rfl
@[simp] theorem draw_now : (draw w s).2.now = s.now := rfl
@[simp] theorem draw_out : (draw w s).2.out = s.out := rfl
@[simp] theorem draw_cfg : (draw w s).2.cfg = s.cfg := rfl
@[simp] theorem draw_readHold : (draw w s).2.readHold = s.readHold := rfl
@[simp] theorem draw_writeHold : (draw w s).2.writeHold = s.writeHold := rfl
@[simp] theorem draw_recorder : (draw w s).2.recorder = s.recorder := rfl
@[simp] theorem draw_power : (draw w s).2.power = s.power := rfl
@[simp] theorem draw_pcie : (draw w s).2.pcie = s.pcie := rfl
@[simp] theorem draw_qps : (draw w s).2.qps = s.qps := rfl
@[simp] theorem draw_store : (draw w s).2.store = s.store := rfl
@[simp] theorem draw_raised : (draw w s).2.raised = s.raised := rfl
@[simp] theorem draw_hearths : (draw w s).2.hearths = s.hearths := rfl
@[simp] theorem draw_dones : (draw w s).2.dones = s.dones := rfl
@[simp] theorem draw_jobs : (draw w s).2.jobs = s.jobs := rfl
@[simp] theorem draw_jobOrder : (draw w s).2.jobOrder = s.jobOrder := rfl
@[simp] theorem draw_cmds : (draw w s).2.cmds = s.cmds := rfl
@[simp] theorem draw_sems : (draw w s).2.sems = s.sems := rfl
@[simp] theorem draw_killStatus : (draw w s).2.killStatus = s.killStatus := rfl
@[simp] theorem draw_vats : (draw w s).2.vats = s.vats := rfl
@[simp] theorem draw_image : (draw w s).2.image = s.image := rfl
@[simp] theorem draw_reload : (draw w s).2.reload = s.reload := rfl
@[simp] theorem draw_versions : (draw w s).2.versions = s.versions := rfl
@[simp] theorem draw_media : (draw w s).2.media = s.media := rfl
@[simp] theorem draw_ether : (draw w s).2.ether = s.ether := rfl
@[simp] theorem draw_dram : (draw w s).2.dram = s.dram := rfl
@[simp] theorem draw_dramPoison : (draw w s).2.dramPoison = s.dramPoison := rfl
@[simp] theorem draw_channels : (draw w s).2.channels = s.channels := rfl
@[simp] theorem draw_drams : (draw w s).2.drams = s.drams := rfl
@[simp] theorem draw_boot : (draw w s).2.boot = s.boot := rfl
@[simp] theorem draw_elec : (draw w s).2.elec = s.elec := rfl
end

/-! ### Numbered blocks -/

@[simp] theorem cfgGet_cfgSet_self (o : Nat) (v : Word) (s : State) : cfgGet (cfgSet o v s) o = v := by simp [cfgGet, cfgSet]
@[simp] theorem cfgGet_cfgSet_ne {o p : Nat} (v : Word) (s : State) (h : p ≠ o) : cfgGet (cfgSet o v s) p = cfgGet s p :=
  Table.get_set_other _ _ _ v h
@[simp] theorem hearth_modHearth_self (k : Nat) (f : Hearth → Hearth) (s : State) : (modHearth k f s).hearth k = f (s.hearth k) := Table.get_mod_self _ _ _ _
@[simp] theorem hearth_modHearth_ne {k n : Nat} (f : Hearth → Hearth) (s : State) (h : n ≠ k) : (modHearth k f s).hearth n = s.hearth n := Table.get_mod_ne _ _ _ h
@[simp] theorem qp_modQp_self (k : Nat) (f : Qp → Qp) (s : State) : (modQp k f s).qp k = f (s.qp k) := Table.get_mod_self _ _ _ _
@[simp] theorem qp_modQp_ne {k n : Nat} (f : Qp → Qp) (s : State) (h : n ≠ k) : (modQp k f s).qp n = s.qp n := Table.get_mod_ne _ _ _ h
@[simp] theorem vat_modVat_self (k : Nat) (f : Vat → Vat) (s : State) : (modVat k f s).vat k = f (s.vat k) := Table.get_mod_self _ _ _ _
@[simp] theorem vat_modVat_ne {k n : Nat} (f : Vat → Vat) (s : State) (h : n ≠ k) : (modVat k f s).vat n = s.vat n := Table.get_mod_ne _ _ _ h
@[simp] theorem chan_modChan_self (k : Nat) (f : Channel → Channel) (s : State) : (modChan k f s).chan k = f (s.chan k) := Table.get_mod_self _ _ _ _
@[simp] theorem chan_modChan_ne {k n : Nat} (f : Channel → Channel) (s : State) (h : n ≠ k) : (modChan k f s).chan n = s.chan n := Table.get_mod_ne _ _ _ h
@[simp] theorem ses_modSes_self (k : Nat) (f : Session → Session) (s : State) : (modSes k f s).ses k = f (s.ses k) := Table.get_mod_self _ _ _ _
@[simp] theorem ses_modSes_ne {k n : Nat} (f : Session → Session) (s : State) (h : n ≠ k) : (modSes k f s).ses n = s.ses n := Table.get_mod_ne _ _ _ h
@[simp] theorem dec_modDec_self (k : Nat) (f : Decoder → Decoder) (s : State) : (modDec k f s).dec k = f (s.dec k) := Table.get_mod_self _ _ _ _
@[simp] theorem dec_modDec_ne {k n : Nat} (f : Decoder → Decoder) (s : State) (h : n ≠ k) : (modDec k f s).dec n = s.dec n := Table.get_mod_ne _ _ _ h
@[simp] theorem enc_modEnc_self (k : Nat) (f : Encoder → Encoder) (s : State) : (modEnc k f s).enc k = f (s.enc k) := Table.get_mod_self _ _ _ _
@[simp] theorem enc_modEnc_ne {k n : Nat} (f : Encoder → Encoder) (s : State) (h : n ≠ k) : (modEnc k f s).enc n = s.enc n := Table.get_mod_ne _ _ _ h
@[simp] theorem scl_modScl_self (k : Nat) (f : Scaler → Scaler) (s : State) : (modScl k f s).scl k = f (s.scl k) := Table.get_mod_self _ _ _ _
@[simp] theorem scl_modScl_ne {k n : Nat} (f : Scaler → Scaler) (s : State) (h : n ≠ k) : (modScl k f s).scl n = s.scl n := Table.get_mod_ne _ _ _ h
@[simp] theorem grp_modGrp_self (k : Nat) (f : GroupIn → GroupIn) (s : State) : (modGrp k f s).grp k = f (s.grp k) := Table.get_mod_self _ _ _ _
@[simp] theorem grp_modGrp_ne {k n : Nat} (f : GroupIn → GroupIn) (s : State) (h : n ≠ k) : (modGrp k f s).grp n = s.grp n := Table.get_mod_ne _ _ _ h
@[simp] theorem sns_modSns_self (k : Nat) (f : Sensor → Sensor) (s : State) : (modSns k f s).sns k = f (s.sns k) := Table.get_mod_self _ _ _ _
@[simp] theorem sns_modSns_ne {k n : Nat} (f : Sensor → Sensor) (s : State) (h : n ≠ k) : (modSns k f s).sns n = s.sns n := Table.get_mod_ne _ _ _ h
@[simp] theorem rcv_modRcv_self (k : Nat) (f : Receiver → Receiver) (s : State) : (modRcv k f s).rcv k = f (s.rcv k) := Table.get_mod_self _ _ _ _
@[simp] theorem rcv_modRcv_ne {k n : Nat} (f : Receiver → Receiver) (s : State) (h : n ≠ k) : (modRcv k f s).rcv n = s.rcv n := Table.get_mod_ne _ _ _ h
@[simp] theorem alignSet_modSet_self (k : Nat) (f : AlignSet → AlignSet) (s : State) : (modSet k f s).alignSet k = f (s.alignSet k) := Table.get_mod_self _ _ _ _
@[simp] theorem alignSet_modSet_ne {k n : Nat} (f : AlignSet → AlignSet) (s : State) (h : n ≠ k) : (modSet k f s).alignSet n = s.alignSet n := Table.get_mod_ne _ _ _ h
@[simp] theorem bkt_modBkt_self (k : Nat) (f : Bucket → Bucket) (s : State) : (modBkt k f s).bkt k = f (s.bkt k) := Table.get_mod_self _ _ _ _
@[simp] theorem bkt_modBkt_ne {k n : Nat} (f : Bucket → Bucket) (s : State) (h : n ≠ k) : (modBkt k f s).bkt n = s.bkt n := Table.get_mod_ne _ _ _ h
@[simp] theorem asm_modAsm_self (k : Nat) (f : AsmSource → AsmSource) (s : State) : (modAsm k f s).asm k = f (s.asm k) := Table.get_mod_self _ _ _ _
@[simp] theorem asm_modAsm_ne {k n : Nat} (f : AsmSource → AsmSource) (s : State) (h : n ≠ k) : (modAsm k f s).asm n = s.asm n := Table.get_mod_ne _ _ _ h
@[simp] theorem pool_modPool_self (k : Nat) (f : Pool → Pool) (s : State) : (modPool k f s).pool k = f (s.pool k) := Table.get_mod_self _ _ _ _
@[simp] theorem pool_modPool_ne {k n : Nat} (f : Pool → Pool) (s : State) (h : n ≠ k) : (modPool k f s).pool n = s.pool n := Table.get_mod_ne _ _ _ h
@[simp] theorem port_modPort_self (k : Nat) (f : EthPort → EthPort) (s : State) : (modPort k f s).port k = f (s.port k) := Table.get_mod_self _ _ _ _
@[simp] theorem port_modPort_ne {k n : Nat} (f : EthPort → EthPort) (s : State) (h : n ≠ k) : (modPort k f s).port n = s.port n := Table.get_mod_ne _ _ _ h
@[simp] theorem link_modLink_self (k : Nat) (f : EthLink → EthLink) (s : State) : (modLink k f s).link k = f (s.link k) := Table.get_mod_self _ _ _ _
@[simp] theorem link_modLink_ne {k n : Nat} (f : EthLink → EthLink) (s : State) (h : n ≠ k) : (modLink k f s).link n = s.link n := Table.get_mod_ne _ _ _ h
@[simp] theorem dest_modDest_self (k : Nat) (f : Dest → Dest) (s : State) : (modDest k f s).dest k = f (s.dest k) := Table.get_mod_self _ _ _ _
@[simp] theorem dest_modDest_ne {k n : Nat} (f : Dest → Dest) (s : State) (h : n ≠ k) : (modDest k f s).dest n = s.dest n := Table.get_mod_ne _ _ _ h
@[simp] theorem member_modMember_self (k : Nat) (f : Member → Member) (s : State) : (modMember k f s).member k = f (s.member k) := Table.get_mod_self _ _ _ _
@[simp] theorem member_modMember_ne {k n : Nat} (f : Member → Member) (s : State) (h : n ≠ k) : (modMember k f s).member n = s.member n := Table.get_mod_ne _ _ _ h
@[simp] theorem rtp_modRtp_self (k : Nat) (f : Rtp → Rtp) (s : State) : (modRtp k f s).rtp k = f (s.rtp k) := Table.get_mod_self _ _ _ _
@[simp] theorem rtp_modRtp_ne {k n : Nat} (f : Rtp → Rtp) (s : State) (h : n ≠ k) : (modRtp k f s).rtp n = s.rtp n := Table.get_mod_ne _ _ _ h
@[simp] theorem job_setJob_self (k : Nat) (b : Option Job) (s : State) : (setJob k b s).job k = b := Table.get_set_self _ _ _ _
@[simp] theorem job_setJob_ne {k n : Nat} (b : Option Job) (s : State) (h : n ≠ k) : (setJob k b s).job n = s.job n := Table.get_set_ne _ _ _ h
@[simp] theorem job_modJob_self (k : Nat) (f : Job → Job) (s : State) : (modJob k f s).job k = (s.job k).map f := Table.get_mod_self _ _ _ _
@[simp] theorem job_modJob_ne {k n : Nat} (f : Job → Job) (s : State) (h : n ≠ k) : (modJob k f s).job n = s.job n := Table.get_mod_ne _ _ _ h

@[simp] theorem core_modCore_self (h k : Nat) (f : Core → Core) (s : State) : ((modCore h k f s).hearth h).core k = f ((s.hearth h).core k) := by
  simp [modCore, Hearth.core]
@[simp] theorem core_modCore_ne {h k n : Nat} (f : Core → Core) (s : State) (hn : n ≠ k) : ((modCore h k f s).hearth h).core n = (s.hearth h).core n := by
  simp [modCore, Hearth.core, hn]
@[simp] theorem hearth_modCore_ne {h g : Nat} (k : Nat) (f : Core → Core) (s : State) (hg : g ≠ h) : (modCore h k f s).hearth g = s.hearth g := by
  simp [modCore, hg]
@[simp] theorem ladle_modLadle_self (h k : Nat) (f : Ladle → Ladle) (s : State) : ((modLadle h k f s).hearth h).ladle k = f ((s.hearth h).ladle k) := by
  simp [modLadle, Hearth.ladle]
@[simp] theorem ladle_modLadle_ne {h k n : Nat} (f : Ladle → Ladle) (s : State) (hn : n ≠ k) : ((modLadle h k f s).hearth h).ladle n = (s.hearth h).ladle n := by
  simp [modLadle, Hearth.ladle, hn]
@[simp] theorem hearth_modLadle_ne {h g : Nat} (k : Nat) (f : Ladle → Ladle) (s : State) (hg : g ≠ h) : (modLadle h k f s).hearth g = s.hearth g := by
  simp [modLadle, hg]
@[simp] theorem bank_modBank_self (h k : Nat) (f : Bank → Bank) (s : State) : ((modBank h k f s).hearth h).bank k = f ((s.hearth h).bank k) := by
  simp [modBank, Hearth.bank]
@[simp] theorem bank_modBank_ne {h k n : Nat} (f : Bank → Bank) (s : State) (hn : n ≠ k) : ((modBank h k f s).hearth h).bank n = (s.hearth h).bank n := by
  simp [modBank, Hearth.bank, hn]
@[simp] theorem hearth_modBank_ne {h g : Nat} (k : Nat) (f : Bank → Bank) (s : State) (hg : g ≠ h) : (modBank h k f s).hearth g = s.hearth g := by
  simp [modBank, hg]
@[simp] theorem ctr_modCtr_self (h k : Nat) (f : Ctr → Ctr) (s : State) : ((modCtr h k f s).hearth h).ctr k = f ((s.hearth h).ctr k) := by
  simp [modCtr, Hearth.ctr]
@[simp] theorem ctr_modCtr_ne {h k n : Nat} (f : Ctr → Ctr) (s : State) (hn : n ≠ k) : ((modCtr h k f s).hearth h).ctr n = (s.hearth h).ctr n := by
  simp [modCtr, Hearth.ctr, hn]
@[simp] theorem hearth_modCtr_ne {h g : Nat} (k : Nat) (f : Ctr → Ctr) (s : State) (hg : g ≠ h) : (modCtr h k f s).hearth g = s.hearth g := by
  simp [modCtr, hg]
@[simp] theorem hoop_modHoop_self (h k : Nat) (f : Hoop → Hoop) (s : State) : ((modHoop h k f s).hearth h).hoop k = f ((s.hearth h).hoop k) := by
  simp [modHoop, Hearth.hoop]
@[simp] theorem hoop_modHoop_ne {h k n : Nat} (f : Hoop → Hoop) (s : State) (hn : n ≠ k) : ((modHoop h k f s).hearth h).hoop n = (s.hearth h).hoop n := by
  simp [modHoop, Hearth.hoop, hn]
@[simp] theorem hearth_modHoop_ne {h g : Nat} (k : Nat) (f : Hoop → Hoop) (s : State) (hg : g ≠ h) : (modHoop h k f s).hearth g = s.hearth g := by
  simp [modHoop, hg]
@[simp] theorem outPort_modOut_self (h k : Nat) (f : FluePort → FluePort) (s : State) : ((modOut h k f s).hearth h).outPort k = f ((s.hearth h).outPort k) := by
  simp [modOut, Hearth.outPort]
@[simp] theorem outPort_modOut_ne {h k n : Nat} (f : FluePort → FluePort) (s : State) (hn : n ≠ k) : ((modOut h k f s).hearth h).outPort n = (s.hearth h).outPort n := by
  simp [modOut, Hearth.outPort, hn]
@[simp] theorem hearth_modOut_ne {h g : Nat} (k : Nat) (f : FluePort → FluePort) (s : State) (hg : g ≠ h) : (modOut h k f s).hearth g = s.hearth g := by
  simp [modOut, hg]
@[simp] theorem inPort_modIn_self (h k : Nat) (f : FluePort → FluePort) (s : State) : ((modIn h k f s).hearth h).inPort k = f ((s.hearth h).inPort k) := by
  simp [modIn, Hearth.inPort]
@[simp] theorem inPort_modIn_ne {h k n : Nat} (f : FluePort → FluePort) (s : State) (hn : n ≠ k) : ((modIn h k f s).hearth h).inPort n = (s.hearth h).inPort n := by
  simp [modIn, Hearth.inPort, hn]
@[simp] theorem hearth_modIn_ne {h g : Nat} (k : Nat) (f : FluePort → FluePort) (s : State) (hg : g ≠ h) : (modIn h k f s).hearth g = s.hearth g := by
  simp [modIn, hg]
@[simp] theorem arr_modArr_self (h k : Nat) (f : Arr → Arr) (s : State) : ((modArr h k f s).hearth h).arr k = f ((s.hearth h).arr k) := by
  simp [modArr, Hearth.arr]
@[simp] theorem arr_modArr_ne {h k n : Nat} (f : Arr → Arr) (s : State) (hn : n ≠ k) : ((modArr h k f s).hearth h).arr n = (s.hearth h).arr n := by
  simp [modArr, Hearth.arr, hn]
@[simp] theorem hearth_modArr_ne {h g : Nat} (k : Nat) (f : Arr → Arr) (s : State) (hg : g ≠ h) : (modArr h k f s).hearth g = s.hearth g := by
  simp [modArr, hg]

end Sys2Proof.Machine
end

