-- ==== Sys2Proof/Laws/Ops.lean ====
section
/-! SUPPORT. What the shared operations can do, said once: serving, event records and messages. -/

namespace Sys2Proof.Machine
open Sys2Proof

theorem bar0Served_serving (s : State) (o : Nat) (h : Serving s) : bar0Served s o = true := by simp [bar0Served, h.1, h.2.1]

/-- Where root-derived logic is clocked, a row of it has its effect (R29). -/
theorem rooted_clocked (s t : State) (h : clocked s = true) : rooted s t = .next t := by simp [rooted, h]
/-- Where it is not, the row changes nothing. -/
theorem rooted_gated (s t : State) (h : clocked s = false) : rooted s t = .next s := by simp [rooted, h]
/-- Where the Ethernet and CSI-2 ports are powered, a row of theirs has its effect (R29, R32). -/
theorem ported_powered (s t : State) (h : portsPowered s = true) : ported s t = .next t := by simp [ported, h]
/-- Where they are not, the row changes nothing. -/
theorem ported_down (s t : State) (h : portsPowered s = false) : ported s t = .next s := by simp [ported, h]

/-- Where the device serves, a guarded write acts. -/
theorem guard_serving (o : Nat) (f : State → State) (s : State) (h : Serving s) : Machine.guard o f s = f s := by
  simp [Machine.guard, bar0Served_serving s o h, h.2.2]

theorem alignedOff_of_aligned (off : BitVec 26) (h : off.toNat % 4 = 0) : alignedOff off = off.toNat := by
  unfold alignedOff
  omega

theorem onlyRecord_refl (s : State) : OnlyRecord s s := ⟨rfl, rfl⟩

theorem onlyRecord_trans {s t u : State} (h : OnlyRecord s t) (k : OnlyRecord t u) : OnlyRecord s u := by
  obtain ⟨h1, h2⟩ := h
  obtain ⟨k1, k2⟩ := k
  refine ⟨?_, ?_⟩
  · rw [k1, h1]
  · rw [k2, h2]

/-- Everything that recording an event can change. -/
theorem recordFuel_only (fuel code kind id : Nat) (arg : DWord) (s : State) : OnlyRecord s (recordFuel fuel code kind id arg s) := by
  induction fuel generalizing code kind id arg s with
  | zero => exact onlyRecord_refl s
  | succ n ih =>
    unfold recordFuel
    dsimp only
    split
    · split
      · exact ⟨rfl, rfl⟩
      · exact onlyRecord_trans (t := _) ⟨rfl, rfl⟩ (ih _ _ _ _ _)
    · exact ⟨rfl, rfl⟩

theorem record_only (code kind id : Nat) (arg : DWord) (s : State) : OnlyRecord s (record code kind id arg s) :=
  recordFuel_only _ _ _ _ _ _

theorem onlyPost_of_record {s t : State} (h : OnlyRecord s t) : OnlyPost s t := by
  refine ⟨?_, h.2⟩
  rw [h.1]

/-- Everything that posting a message can change. -/
theorem postMsg_only (q : Nat) (c : MsgClass) (e : Entry32) (s : State) : OnlyPost s (postMsg q c e s) := by
  unfold postMsg
  split
  · exact ⟨rfl, rfl⟩
  · cases c
    · exact onlyPost_of_record (onlyRecord_trans (t := { s with pcie := { s.pcie with msgDropped := satAdd s.pcie.msgDropped 1 } }) ⟨rfl, rfl⟩ (record_only _ _ _ _ _))
    · exact ⟨rfl, rfl⟩

section
variable (c k i : Nat) (a : DWord) (s : State)
@[simp] theorem record_pending : (record c k i a s).pending = s.pending := by rw [(record_only c k i a s).1]
@[simp] theorem record_now : (record c k i a s).now = s.now := by rw [(record_only c k i a s).1]
@[simp] theorem record_fresh : (record c k i a s).fresh = s.fresh := by rw [(record_only c k i a s).1]
@[simp] theorem record_out : (record c k i a s).out = s.out := by rw [(record_only c k i a s).1]
@[simp] theorem record_cfg : (record c k i a s).cfg = s.cfg := by rw [(record_only c k i a s).1]
@[simp] theorem record_readHold : (record c k i a s).readHold = s.readHold := by rw [(record_only c k i a s).1]
@[simp] theorem record_writeHold : (record c k i a s).writeHold = s.writeHold := by rw [(record_only c k i a s).1]
@[simp] theorem record_power : (record c k i a s).power = s.power := by rw [(record_only c k i a s).1]
@[simp] theorem record_qps : (record c k i a s).qps = s.qps := by rw [(record_only c k i a s).1]
@[simp] theorem record_raised : (record c k i a s).raised = s.raised := by rw [(record_only c k i a s).1]
@[simp] theorem record_hearths : (record c k i a s).hearths = s.hearths := by rw [(record_only c k i a s).1]
@[simp] theorem record_dones : (record c k i a s).dones = s.dones := by rw [(record_only c k i a s).1]
@[simp] theorem record_jobs : (record c k i a s).jobs = s.jobs := by rw [(record_only c k i a s).1]
@[simp] theorem record_jobOrder : (record c k i a s).jobOrder = s.jobOrder := by rw [(record_only c k i a s).1]
@[simp] theorem record_cmds : (record c k i a s).cmds = s.cmds := by rw [(record_only c k i a s).1]
@[simp] theorem record_sems : (record c k i a s).sems = s.sems := by rw [(record_only c k i a s).1]
@[simp] theorem record_killStatus : (record c k i a s).killStatus = s.killStatus := by rw [(record_only c k i a s).1]
@[simp] theorem record_vats : (record c k i a s).vats = s.vats := by rw [(record_only c k i a s).1]
@[simp] theorem record_image : (record c k i a s).image = s.image := by rw [(record_only c k i a s).1]
@[simp] theorem record_reload : (record c k i a s).reload = s.reload := by rw [(record_only c k i a s).1]
@[simp] theorem record_versions : (record c k i a s).versions = s.versions := by rw [(record_only c k i a s).1]
@[simp] theorem record_media : (record c k i a s).media = s.media := by rw [(record_only c k i a s).1]
@[simp] theorem record_ether : (record c k i a s).ether = s.ether := by rw [(record_only c k i a s).1]
@[simp] theorem record_dram : (record c k i a s).dram = s.dram := by rw [(record_only c k i a s).1]
@[simp] theorem record_dramPoison : (record c k i a s).dramPoison = s.dramPoison := by rw [(record_only c k i a s).1]
@[simp] theorem record_channels : (record c k i a s).channels = s.channels := by rw [(record_only c k i a s).1]
@[simp] theorem record_drams : (record c k i a s).drams = s.drams := by rw [(record_only c k i a s).1]
@[simp] theorem record_boot : (record c k i a s).boot = s.boot := by rw [(record_only c k i a s).1]
@[simp] theorem record_elec : (record c k i a s).elec = s.elec := by rw [(record_only c k i a s).1]
@[simp] theorem record_pcie_dlActive : (record c k i a s).pcie.dlActive = s.pcie.dlActive := by rw [(record_only c k i a s).2]
@[simp] theorem record_pcie_speed : (record c k i a s).pcie.speed = s.pcie.speed := by rw [(record_only c k i a s).2]
@[simp] theorem record_pcie_width : (record c k i a s).pcie.width = s.pcie.width := by rw [(record_only c k i a s).2]
@[simp] theorem record_pcie_pm : (record c k i a s).pcie.pm = s.pcie.pm := by rw [(record_only c k i a s).2]
@[simp] theorem record_pcie_commitStatus : (record c k i a s).pcie.commitStatus = s.pcie.commitStatus := by rw [(record_only c k i a s).2]
@[simp] theorem record_pcie_cplTimeout : (record c k i a s).pcie.cplTimeout = s.pcie.cplTimeout := by rw [(record_only c k i a s).2]
@[simp] theorem record_pcie_lateCpl : (record c k i a s).pcie.lateCpl = s.pcie.lateCpl := by rw [(record_only c k i a s).2]
@[simp] theorem record_pcie_unexpCpl : (record c k i a s).pcie.unexpCpl = s.pcie.unexpCpl := by rw [(record_only c k i a s).2]
@[simp] theorem record_pcie_poisonRx : (record c k i a s).pcie.poisonRx = s.pcie.poisonRx := by rw [(record_only c k i a s).2]
@[simp] theorem record_pcie_poisonTx : (record c k i a s).pcie.poisonTx = s.pcie.poisonTx := by rw [(record_only c k i a s).2]
@[simp] theorem record_pcie_winMiss : (record c k i a s).pcie.winMiss = s.pcie.winMiss := by rw [(record_only c k i a s).2]
@[simp] theorem record_pcie_windows : (record c k i a s).pcie.windows = s.pcie.windows := by rw [(record_only c k i a s).2]
@[simp] theorem record_pcie_tags : (record c k i a s).pcie.tags = s.pcie.tags := by rw [(record_only c k i a s).2]
@[simp] theorem record_pcie_nextTag : (record c k i a s).pcie.nextTag = s.pcie.nextTag := by rw [(record_only c k i a s).2]
@[simp] theorem record_pcie_pba : (record c k i a s).pcie.pba = s.pcie.pba := by rw [(record_only c k i a s).2]
@[simp] theorem record_pcie_notReady : (record c k i a s).pcie.notReady = s.pcie.notReady := by rw [(record_only c k i a s).2]
@[simp] theorem record_pcie_flrBusy : (record c k i a s).pcie.flrBusy = s.pcie.flrBusy := by rw [(record_only c k i a s).2]
@[simp] theorem record_pcie_doorbellDiscard : (record c k i a s).pcie.doorbellDiscard = s.pcie.doorbellDiscard := by rw [(record_only c k i a s).2]
@[simp] theorem record_pcie_mps : (record c k i a s).pcie.mps = s.pcie.mps := by rw [(record_only c k i a s).2]
@[simp] theorem record_pcie_mrrs : (record c k i a s).pcie.mrrs = s.pcie.mrrs := by rw [(record_only c k i a s).2]
@[simp] theorem record_pcie_msixOn : (record c k i a s).pcie.msixOn = s.pcie.msixOn := by rw [(record_only c k i a s).2]
@[simp] theorem record_pcie_msixMask : (record c k i a s).pcie.msixMask = s.pcie.msixMask := by rw [(record_only c k i a s).2]
@[simp] theorem record_pcie_bars : (record c k i a s).pcie.bars = s.pcie.bars := by rw [(record_only c k i a s).2]
@[simp] theorem record_pcie_subsystem : (record c k i a s).pcie.subsystem = s.pcie.subsystem := by rw [(record_only c k i a s).2]
end

section
variable (q : Nat) (c : MsgClass) (e : Entry32) (s : State)
@[simp] theorem postMsg_pending : (postMsg q c e s).pending = s.pending := by rw [(postMsg_only q c e s).1]
@[simp] theorem postMsg_now : (postMsg q c e s).now = s.now := by rw [(postMsg_only q c e s).1]
@[simp] theorem postMsg_fresh : (postMsg q c e s).fresh = s.fresh := by rw [(postMsg_only q c e s).1]
@[simp] theorem postMsg_out : (postMsg q c e s).out = s.out := by rw [(postMsg_only q c e s).1]
@[simp] theorem postMsg_cfg : (postMsg q c e s).cfg = s.cfg := by rw [(postMsg_only q c e s).1]
@[simp] theorem postMsg_readHold : (postMsg q c e s).readHold = s.readHold := by rw [(postMsg_only q c e s).1]
@[simp] theorem postMsg_writeHold : (postMsg q c e s).writeHold = s.writeHold := by rw [(postMsg_only q c e s).1]
@[simp] theorem postMsg_power : (postMsg q c e s).power = s.power := by rw [(postMsg_only q c e s).1]
@[simp] theorem postMsg_qps : (postMsg q c e s).qps = s.qps := by rw [(postMsg_only q c e s).1]
@[simp] theorem postMsg_hearths : (postMsg q c e s).hearths = s.hearths := by rw [(postMsg_only q c e s).1]
@[simp] theorem postMsg_dones : (postMsg q c e s).dones = s.dones := by rw [(postMsg_only q c e s).1]
@[simp] theorem postMsg_jobs : (postMsg q c e s).jobs = s.jobs := by rw [(postMsg_only q c e s).1]
@[simp] theorem postMsg_jobOrder : (postMsg q c e s).jobOrder = s.jobOrder := by rw [(postMsg_only q c e s).1]
@[simp] theorem postMsg_cmds : (postMsg q c e s).cmds = s.cmds := by rw [(postMsg_only q c e s).1]
@[simp] theorem postMsg_sems : (postMsg q c e s).sems = s.sems := by rw [(postMsg_only q c e s).1]
@[simp] theorem postMsg_killStatus : (postMsg q c e s).killStatus = s.killStatus := by rw [(postMsg_only q c e s).1]
@[simp] theorem postMsg_vats : (postMsg q c e s).vats = s.vats := by rw [(postMsg_only q c e s).1]
@[simp] theorem postMsg_image : (postMsg q c e s).image = s.image := by rw [(postMsg_only q c e s).1]
@[simp] theorem postMsg_reload : (postMsg q c e s).reload = s.reload := by rw [(postMsg_only q c e s).1]
@[simp] theorem postMsg_versions : (postMsg q c e s).versions = s.versions := by rw [(postMsg_only q c e s).1]
@[simp] theorem postMsg_media : (postMsg q c e s).media = s.media := by rw [(postMsg_only q c e s).1]
@[simp] theorem postMsg_ether : (postMsg q c e s).ether = s.ether := by rw [(postMsg_only q c e s).1]
@[simp] theorem postMsg_dram : (postMsg q c e s).dram = s.dram := by rw [(postMsg_only q c e s).1]
@[simp] theorem postMsg_dramPoison : (postMsg q c e s).dramPoison = s.dramPoison := by rw [(postMsg_only q c e s).1]
@[simp] theorem postMsg_channels : (postMsg q c e s).channels = s.channels := by rw [(postMsg_only q c e s).1]
@[simp] theorem postMsg_drams : (postMsg q c e s).drams = s.drams := by rw [(postMsg_only q c e s).1]
@[simp] theorem postMsg_boot : (postMsg q c e s).boot = s.boot := by rw [(postMsg_only q c e s).1]
@[simp] theorem postMsg_elec : (postMsg q c e s).elec = s.elec := by rw [(postMsg_only q c e s).1]
@[simp] theorem postMsg_pcie_dlActive : (postMsg q c e s).pcie.dlActive = s.pcie.dlActive := by rw [(postMsg_only q c e s).2]
@[simp] theorem postMsg_pcie_speed : (postMsg q c e s).pcie.speed = s.pcie.speed := by rw [(postMsg_only q c e s).2]
@[simp] theorem postMsg_pcie_width : (postMsg q c e s).pcie.width = s.pcie.width := by rw [(postMsg_only q c e s).2]
@[simp] theorem postMsg_pcie_pm : (postMsg q c e s).pcie.pm = s.pcie.pm := by rw [(postMsg_only q c e s).2]
@[simp] theorem postMsg_pcie_commitStatus : (postMsg q c e s).pcie.commitStatus = s.pcie.commitStatus := by rw [(postMsg_only q c e s).2]
@[simp] theorem postMsg_pcie_cplTimeout : (postMsg q c e s).pcie.cplTimeout = s.pcie.cplTimeout := by rw [(postMsg_only q c e s).2]
@[simp] theorem postMsg_pcie_lateCpl : (postMsg q c e s).pcie.lateCpl = s.pcie.lateCpl := by rw [(postMsg_only q c e s).2]
@[simp] theorem postMsg_pcie_unexpCpl : (postMsg q c e s).pcie.unexpCpl = s.pcie.unexpCpl := by rw [(postMsg_only q c e s).2]
@[simp] theorem postMsg_pcie_poisonRx : (postMsg q c e s).pcie.poisonRx = s.pcie.poisonRx := by rw [(postMsg_only q c e s).2]
@[simp] theorem postMsg_pcie_poisonTx : (postMsg q c e s).pcie.poisonTx = s.pcie.poisonTx := by rw [(postMsg_only q c e s).2]
@[simp] theorem postMsg_pcie_winMiss : (postMsg q c e s).pcie.winMiss = s.pcie.winMiss := by rw [(postMsg_only q c e s).2]
@[simp] theorem postMsg_pcie_windows : (postMsg q c e s).pcie.windows = s.pcie.windows := by rw [(postMsg_only q c e s).2]
@[simp] theorem postMsg_pcie_tags : (postMsg q c e s).pcie.tags = s.pcie.tags := by rw [(postMsg_only q c e s).2]
@[simp] theorem postMsg_pcie_nextTag : (postMsg q c e s).pcie.nextTag = s.pcie.nextTag := by rw [(postMsg_only q c e s).2]
@[simp] theorem postMsg_pcie_pba : (postMsg q c e s).pcie.pba = s.pcie.pba := by rw [(postMsg_only q c e s).2]
@[simp] theorem postMsg_pcie_notReady : (postMsg q c e s).pcie.notReady = s.pcie.notReady := by rw [(postMsg_only q c e s).2]
@[simp] theorem postMsg_pcie_flrBusy : (postMsg q c e s).pcie.flrBusy = s.pcie.flrBusy := by rw [(postMsg_only q c e s).2]
@[simp] theorem postMsg_pcie_doorbellDiscard : (postMsg q c e s).pcie.doorbellDiscard = s.pcie.doorbellDiscard := by rw [(postMsg_only q c e s).2]
@[simp] theorem postMsg_pcie_mps : (postMsg q c e s).pcie.mps = s.pcie.mps := by rw [(postMsg_only q c e s).2]
@[simp] theorem postMsg_pcie_mrrs : (postMsg q c e s).pcie.mrrs = s.pcie.mrrs := by rw [(postMsg_only q c e s).2]
@[simp] theorem postMsg_pcie_msixOn : (postMsg q c e s).pcie.msixOn = s.pcie.msixOn := by rw [(postMsg_only q c e s).2]
@[simp] theorem postMsg_pcie_msixMask : (postMsg q c e s).pcie.msixMask = s.pcie.msixMask := by rw [(postMsg_only q c e s).2]
@[simp] theorem postMsg_pcie_bars : (postMsg q c e s).pcie.bars = s.pcie.bars := by rw [(postMsg_only q c e s).2]
@[simp] theorem postMsg_pcie_subsystem : (postMsg q c e s).pcie.subsystem = s.pcie.subsystem := by rw [(postMsg_only q c e s).2]
end

section
variable (s : State)
@[simp] theorem pcieLinkDrop_pending : (pcieLinkDrop s).pending = s.pending := by unfold pcieLinkDrop; split <;> simp
@[simp] theorem pcieLinkDrop_now : (pcieLinkDrop s).now = s.now := by unfold pcieLinkDrop; split <;> simp
@[simp] theorem pcieLinkDrop_fresh : (pcieLinkDrop s).fresh = s.fresh := by unfold pcieLinkDrop; split <;> simp
@[simp] theorem pcieLinkDrop_out : (pcieLinkDrop s).out = s.out := by unfold pcieLinkDrop; split <;> simp
@[simp] theorem pcieLinkDrop_cfg : (pcieLinkDrop s).cfg = s.cfg := by unfold pcieLinkDrop; split <;> simp
@[simp] theorem pcieLinkDrop_readHold : (pcieLinkDrop s).readHold = s.readHold := by unfold pcieLinkDrop; split <;> simp
@[simp] theorem pcieLinkDrop_writeHold : (pcieLinkDrop s).writeHold = s.writeHold := by unfold pcieLinkDrop; split <;> simp
@[simp] theorem pcieLinkDrop_power : (pcieLinkDrop s).power = s.power := by unfold pcieLinkDrop; split <;> simp
@[simp] theorem pcieLinkDrop_qps : (pcieLinkDrop s).qps = s.qps := by unfold pcieLinkDrop; split <;> simp
@[simp] theorem pcieLinkDrop_store : (pcieLinkDrop s).store = s.store := by unfold pcieLinkDrop; split <;> simp
@[simp] theorem pcieLinkDrop_raised : (pcieLinkDrop s).raised = s.raised := by unfold pcieLinkDrop; split <;> simp
@[simp] theorem pcieLinkDrop_hearths : (pcieLinkDrop s).hearths = s.hearths := by unfold pcieLinkDrop; split <;> simp
@[simp] theorem pcieLinkDrop_dones : (pcieLinkDrop s).dones = s.dones := by unfold pcieLinkDrop; split <;> simp
@[simp] theorem pcieLinkDrop_jobs : (pcieLinkDrop s).jobs = s.jobs := by unfold pcieLinkDrop; split <;> simp
@[simp] theorem pcieLinkDrop_jobOrder : (pcieLinkDrop s).jobOrder = s.jobOrder := by unfold pcieLinkDrop; split <;> simp
@[simp] theorem pcieLinkDrop_cmds : (pcieLinkDrop s).cmds = s.cmds := by unfold pcieLinkDrop; split <;> simp
@[simp] theorem pcieLinkDrop_sems : (pcieLinkDrop s).sems = s.sems := by unfold pcieLinkDrop; split <;> simp
@[simp] theorem pcieLinkDrop_killStatus : (pcieLinkDrop s).killStatus = s.killStatus := by unfold pcieLinkDrop; split <;> simp
@[simp] theorem pcieLinkDrop_vats : (pcieLinkDrop s).vats = s.vats := by unfold pcieLinkDrop; split <;> simp
@[simp] theorem pcieLinkDrop_image : (pcieLinkDrop s).image = s.image := by unfold pcieLinkDrop; split <;> simp
@[simp] theorem pcieLinkDrop_reload : (pcieLinkDrop s).reload = s.reload := by unfold pcieLinkDrop; split <;> simp
@[simp] theorem pcieLinkDrop_versions : (pcieLinkDrop s).versions = s.versions := by unfold pcieLinkDrop; split <;> simp
@[simp] theorem pcieLinkDrop_media : (pcieLinkDrop s).media = s.media := by unfold pcieLinkDrop; split <;> simp
@[simp] theorem pcieLinkDrop_ether : (pcieLinkDrop s).ether = s.ether := by unfold pcieLinkDrop; split <;> simp
@[simp] theorem pcieLinkDrop_dram : (pcieLinkDrop s).dram = s.dram := by unfold pcieLinkDrop; split <;> simp
@[simp] theorem pcieLinkDrop_dramPoison : (pcieLinkDrop s).dramPoison = s.dramPoison := by unfold pcieLinkDrop; split <;> simp
@[simp] theorem pcieLinkDrop_channels : (pcieLinkDrop s).channels = s.channels := by unfold pcieLinkDrop; split <;> simp
@[simp] theorem pcieLinkDrop_drams : (pcieLinkDrop s).drams = s.drams := by unfold pcieLinkDrop; split <;> simp
@[simp] theorem pcieLinkDrop_boot : (pcieLinkDrop s).boot = s.boot := by unfold pcieLinkDrop; split <;> simp
@[simp] theorem pcieLinkDrop_elec : (pcieLinkDrop s).elec = s.elec := by unfold pcieLinkDrop; split <;> simp
end

section
variable (p : PState) (s : State)
@[simp] theorem changePower_pending : (changePower p s).pending = s.pending := by simp [changePower, postPower]
@[simp] theorem changePower_now : (changePower p s).now = s.now := by simp [changePower, postPower]
@[simp] theorem changePower_fresh : (changePower p s).fresh = s.fresh := by simp [changePower, postPower]
@[simp] theorem changePower_out : (changePower p s).out = s.out := by simp [changePower, postPower]
@[simp] theorem changePower_cfg : (changePower p s).cfg = s.cfg := by simp [changePower, postPower]
@[simp] theorem changePower_readHold : (changePower p s).readHold = s.readHold := by simp [changePower, postPower]
@[simp] theorem changePower_writeHold : (changePower p s).writeHold = s.writeHold := by simp [changePower, postPower]
@[simp] theorem changePower_qps : (changePower p s).qps = s.qps := by simp [changePower, postPower]
@[simp] theorem changePower_hearths : (changePower p s).hearths = s.hearths := by simp [changePower, postPower]
@[simp] theorem changePower_dones : (changePower p s).dones = s.dones := by simp [changePower, postPower]
@[simp] theorem changePower_jobs : (changePower p s).jobs = s.jobs := by simp [changePower, postPower]
@[simp] theorem changePower_jobOrder : (changePower p s).jobOrder = s.jobOrder := by simp [changePower, postPower]
@[simp] theorem changePower_cmds : (changePower p s).cmds = s.cmds := by simp [changePower, postPower]
@[simp] theorem changePower_sems : (changePower p s).sems = s.sems := by simp [changePower, postPower]
@[simp] theorem changePower_killStatus : (changePower p s).killStatus = s.killStatus := by simp [changePower, postPower]
@[simp] theorem changePower_vats : (changePower p s).vats = s.vats := by simp [changePower, postPower]
@[simp] theorem changePower_image : (changePower p s).image = s.image := by simp [changePower, postPower]
@[simp] theorem changePower_reload : (changePower p s).reload = s.reload := by simp [changePower, postPower]
@[simp] theorem changePower_versions : (changePower p s).versions = s.versions := by simp [changePower, postPower]
@[simp] theorem changePower_media : (changePower p s).media = s.media := by simp [changePower, postPower]
@[simp] theorem changePower_ether : (changePower p s).ether = s.ether := by simp [changePower, postPower]
@[simp] theorem changePower_dram : (changePower p s).dram = s.dram := by simp [changePower, postPower]
@[simp] theorem changePower_dramPoison : (changePower p s).dramPoison = s.dramPoison := by simp [changePower, postPower]
@[simp] theorem changePower_channels : (changePower p s).channels = s.channels := by simp [changePower, postPower]
@[simp] theorem changePower_drams : (changePower p s).drams = s.drams := by simp [changePower, postPower]
@[simp] theorem changePower_boot : (changePower p s).boot = s.boot := by simp [changePower, postPower]
@[simp] theorem changePower_elec : (changePower p s).elec = s.elec := by simp [changePower, postPower]
end

@[simp] theorem changePower_state (p : PState) (s : State) : (changePower p s).power = { s.power with state := p } := by simp [changePower, postPower]
@[simp] theorem pcieLinkDrop_down (s : State) : (pcieLinkDrop s).pcie.dlActive = false := by
  unfold pcieLinkDrop
  split <;> simp_all

/-! ### What recording keeps of the recorder -/

@[simp] theorem ringWrite_flash (c k i : Nat) (a : DWord) (n : Nat) (r : Recorder) : (ringWrite c k i a n r).flash = r.flash := rfl
@[simp] theorem startFlush_flash (n : Nat) (r : Recorder) : (startFlush n r).flash = r.flash := by
  unfold startFlush
  split
  · rfl
  · split
    · rfl
    · dsimp only
      split <;> rfl
@[simp] theorem recordCore_flash (c k i : Nat) (a : DWord) (n : Nat) (r : Recorder) : (recordCore c k i a n r).1.flash = r.flash := by
  unfold recordCore
  dsimp only
  split
  · rfl
  · split <;> split <;> simp
theorem recordFuel_flash (fuel c k i : Nat) (a : DWord) (s : State) : (recordFuel fuel c k i a s).recorder.flash = s.recorder.flash := by
  induction fuel generalizing c k i a s with
  | zero => rfl
  | succ n ih =>
    unfold recordFuel
    dsimp only
    split
    · split
      · simp
      · rw [ih]; simp
    · simp
@[simp] theorem record_recorder_flash (c k i : Nat) (a : DWord) (s : State) : (record c k i a s).recorder.flash = s.recorder.flash := recordFuel_flash _ _ _ _ _ _
@[simp] theorem ringWrite_opSeconds (c k i : Nat) (a : DWord) (n : Nat) (r : Recorder) : (ringWrite c k i a n r).opSeconds = r.opSeconds := rfl
@[simp] theorem startFlush_opSeconds (n : Nat) (r : Recorder) : (startFlush n r).opSeconds = r.opSeconds := by
  unfold startFlush
  split
  · rfl
  · split
    · rfl
    · dsimp only
      split <;> rfl
@[simp] theorem recordCore_opSeconds (c k i : Nat) (a : DWord) (n : Nat) (r : Recorder) : (recordCore c k i a n r).1.opSeconds = r.opSeconds := by
  unfold recordCore
  dsimp only
  split
  · rfl
  · split <;> split <;> simp
theorem recordFuel_opSeconds (fuel c k i : Nat) (a : DWord) (s : State) : (recordFuel fuel c k i a s).recorder.opSeconds = s.recorder.opSeconds := by
  induction fuel generalizing c k i a s with
  | zero => rfl
  | succ n ih =>
    unfold recordFuel
    dsimp only
    split
    · split
      · simp
      · rw [ih]; simp
    · simp
@[simp] theorem record_recorder_opSeconds (c k i : Nat) (a : DWord) (s : State) : (record c k i a s).recorder.opSeconds = s.recorder.opSeconds := recordFuel_opSeconds _ _ _ _ _ _
@[simp] theorem ringWrite_powerCycles (c k i : Nat) (a : DWord) (n : Nat) (r : Recorder) : (ringWrite c k i a n r).powerCycles = r.powerCycles := rfl
@[simp] theorem startFlush_powerCycles (n : Nat) (r : Recorder) : (startFlush n r).powerCycles = r.powerCycles := by
  unfold startFlush
  split
  · rfl
  · split
    · rfl
    · dsimp only
      split <;> rfl
@[simp] theorem recordCore_powerCycles (c k i : Nat) (a : DWord) (n : Nat) (r : Recorder) : (recordCore c k i a n r).1.powerCycles = r.powerCycles := by
  unfold recordCore
  dsimp only
  split
  · rfl
  · split <;> split <;> simp
theorem recordFuel_powerCycles (fuel c k i : Nat) (a : DWord) (s : State) : (recordFuel fuel c k i a s).recorder.powerCycles = s.recorder.powerCycles := by
  induction fuel generalizing c k i a s with
  | zero => rfl
  | succ n ih =>
    unfold recordFuel
    dsimp only
    split
    · split
      · simp
      · rw [ih]; simp
    · simp
@[simp] theorem record_recorder_powerCycles (c k i : Nat) (a : DWord) (s : State) : (record c k i a s).recorder.powerCycles = s.recorder.powerCycles := recordFuel_powerCycles _ _ _ _ _ _
@[simp] theorem ringWrite_erasing (c k i : Nat) (a : DWord) (n : Nat) (r : Recorder) : (ringWrite c k i a n r).erasing = r.erasing := rfl
@[simp] theorem startFlush_erasing (n : Nat) (r : Recorder) : (startFlush n r).erasing = r.erasing := by
  unfold startFlush
  split
  · rfl
  · split
    · rfl
    · dsimp only
      split <;> rfl
@[simp] theorem recordCore_erasing (c k i : Nat) (a : DWord) (n : Nat) (r : Recorder) : (recordCore c k i a n r).1.erasing = r.erasing := by
  unfold recordCore
  dsimp only
  split
  · rfl
  · split <;> split <;> simp
theorem recordFuel_erasing (fuel c k i : Nat) (a : DWord) (s : State) : (recordFuel fuel c k i a s).recorder.erasing = s.recorder.erasing := by
  induction fuel generalizing c k i a s with
  | zero => rfl
  | succ n ih =>
    unfold recordFuel
    dsimp only
    split
    · split
      · simp
      · rw [ih]; simp
    · simp
@[simp] theorem record_recorder_erasing (c k i : Nat) (a : DWord) (s : State) : (record c k i a s).recorder.erasing = s.recorder.erasing := recordFuel_erasing _ _ _ _ _ _
@[simp] theorem ringWrite_eraseAgain (c k i : Nat) (a : DWord) (n : Nat) (r : Recorder) : (ringWrite c k i a n r).eraseAgain = r.eraseAgain := rfl
@[simp] theorem startFlush_eraseAgain (n : Nat) (r : Recorder) : (startFlush n r).eraseAgain = r.eraseAgain := by
  unfold startFlush
  split
  · rfl
  · split
    · rfl
    · dsimp only
      split <;> rfl
@[simp] theorem recordCore_eraseAgain (c k i : Nat) (a : DWord) (n : Nat) (r : Recorder) : (recordCore c k i a n r).1.eraseAgain = r.eraseAgain := by
  unfold recordCore
  dsimp only
  split
  · rfl
  · split <;> split <;> simp
theorem recordFuel_eraseAgain (fuel c k i : Nat) (a : DWord) (s : State) : (recordFuel fuel c k i a s).recorder.eraseAgain = s.recorder.eraseAgain := by
  induction fuel generalizing c k i a s with
  | zero => rfl
  | succ n ih =>
    unfold recordFuel
    dsimp only
    split
    · split
      · simp
      · rw [ih]; simp
    · simp
@[simp] theorem record_recorder_eraseAgain (c k i : Nat) (a : DWord) (s : State) : (record c k i a s).recorder.eraseAgain = s.recorder.eraseAgain := recordFuel_eraseAgain _ _ _ _ _ _
@[simp] theorem ringWrite_checkpoint (c k i : Nat) (a : DWord) (n : Nat) (r : Recorder) : (ringWrite c k i a n r).checkpoint = r.checkpoint := rfl
@[simp] theorem startFlush_checkpoint (n : Nat) (r : Recorder) : (startFlush n r).checkpoint = r.checkpoint := by
  unfold startFlush
  split
  · rfl
  · split
    · rfl
    · dsimp only
      split <;> rfl
@[simp] theorem recordCore_checkpoint (c k i : Nat) (a : DWord) (n : Nat) (r : Recorder) : (recordCore c k i a n r).1.checkpoint = r.checkpoint := by
  unfold recordCore
  dsimp only
  split
  · rfl
  · split <;> split <;> simp
theorem recordFuel_checkpoint (fuel c k i : Nat) (a : DWord) (s : State) : (recordFuel fuel c k i a s).recorder.checkpoint = s.recorder.checkpoint := by
  induction fuel generalizing c k i a s with
  | zero => rfl
  | succ n ih =>
    unfold recordFuel
    dsimp only
    split
    · split
      · simp
      · rw [ih]; simp
    · simp
@[simp] theorem record_recorder_checkpoint (c k i : Nat) (a : DWord) (s : State) : (record c k i a s).recorder.checkpoint = s.recorder.checkpoint := recordFuel_checkpoint _ _ _ _ _ _
@[simp] theorem ringWrite_ckptDue (c k i : Nat) (a : DWord) (n : Nat) (r : Recorder) : (ringWrite c k i a n r).ckptDue = r.ckptDue := rfl
@[simp] theorem startFlush_ckptDue (n : Nat) (r : Recorder) : (startFlush n r).ckptDue = r.ckptDue := by
  unfold startFlush
  split
  · rfl
  · split
    · rfl
    · dsimp only
      split <;> rfl
@[simp] theorem recordCore_ckptDue (c k i : Nat) (a : DWord) (n : Nat) (r : Recorder) : (recordCore c k i a n r).1.ckptDue = r.ckptDue := by
  unfold recordCore
  dsimp only
  split
  · rfl
  · split <;> split <;> simp
theorem recordFuel_ckptDue (fuel c k i : Nat) (a : DWord) (s : State) : (recordFuel fuel c k i a s).recorder.ckptDue = s.recorder.ckptDue := by
  induction fuel generalizing c k i a s with
  | zero => rfl
  | succ n ih =>
    unfold recordFuel
    dsimp only
    split
    · split
      · simp
      · rw [ih]; simp
    · simp
@[simp] theorem record_recorder_ckptDue (c k i : Nat) (a : DWord) (s : State) : (record c k i a s).recorder.ckptDue = s.recorder.ckptDue := recordFuel_ckptDue _ _ _ _ _ _
@[simp] theorem ringWrite_copies (c k i : Nat) (a : DWord) (n : Nat) (r : Recorder) : (ringWrite c k i a n r).copies = r.copies := rfl
@[simp] theorem startFlush_copies (n : Nat) (r : Recorder) : (startFlush n r).copies = r.copies := by
  unfold startFlush
  split
  · rfl
  · split
    · rfl
    · dsimp only
      split <;> rfl
@[simp] theorem recordCore_copies (c k i : Nat) (a : DWord) (n : Nat) (r : Recorder) : (recordCore c k i a n r).1.copies = r.copies := by
  unfold recordCore
  dsimp only
  split
  · rfl
  · split <;> split <;> simp
theorem recordFuel_copies (fuel c k i : Nat) (a : DWord) (s : State) : (recordFuel fuel c k i a s).recorder.copies = s.recorder.copies := by
  induction fuel generalizing c k i a s with
  | zero => rfl
  | succ n ih =>
    unfold recordFuel
    dsimp only
    split
    · split
      · simp
      · rw [ih]; simp
    · simp
@[simp] theorem record_recorder_copies (c k i : Nat) (a : DWord) (s : State) : (record c k i a s).recorder.copies = s.recorder.copies := recordFuel_copies _ _ _ _ _ _
@[simp] theorem ringWrite_sootAge (c k i : Nat) (a : DWord) (n : Nat) (r : Recorder) : (ringWrite c k i a n r).sootAge = r.sootAge := rfl
@[simp] theorem startFlush_sootAge (n : Nat) (r : Recorder) : (startFlush n r).sootAge = r.sootAge := by
  unfold startFlush
  split
  · rfl
  · split
    · rfl
    · dsimp only
      split <;> rfl
@[simp] theorem recordCore_sootAge (c k i : Nat) (a : DWord) (n : Nat) (r : Recorder) : (recordCore c k i a n r).1.sootAge = r.sootAge := by
  unfold recordCore
  dsimp only
  split
  · rfl
  · split <;> split <;> simp
theorem recordFuel_sootAge (fuel c k i : Nat) (a : DWord) (s : State) : (recordFuel fuel c k i a s).recorder.sootAge = s.recorder.sootAge := by
  induction fuel generalizing c k i a s with
  | zero => rfl
  | succ n ih =>
    unfold recordFuel
    dsimp only
    split
    · split
      · simp
      · rw [ih]; simp
    · simp
@[simp] theorem record_recorder_sootAge (c k i : Nat) (a : DWord) (s : State) : (record c k i a s).recorder.sootAge = s.recorder.sootAge := recordFuel_sootAge _ _ _ _ _ _
@[simp] theorem ringWrite_soot (c k i : Nat) (a : DWord) (n : Nat) (r : Recorder) : (ringWrite c k i a n r).soot = r.soot := rfl
@[simp] theorem startFlush_soot (n : Nat) (r : Recorder) : (startFlush n r).soot = r.soot := by
  unfold startFlush
  split
  · rfl
  · split
    · rfl
    · dsimp only
      split <;> rfl
@[simp] theorem recordCore_soot (c k i : Nat) (a : DWord) (n : Nat) (r : Recorder) : (recordCore c k i a n r).1.soot = r.soot := by
  unfold recordCore
  dsimp only
  split
  · rfl
  · split <;> split <;> simp
theorem recordFuel_soot (fuel c k i : Nat) (a : DWord) (s : State) : (recordFuel fuel c k i a s).recorder.soot = s.recorder.soot := by
  induction fuel generalizing c k i a s with
  | zero => rfl
  | succ n ih =>
    unfold recordFuel
    dsimp only
    split
    · split
      · simp
      · rw [ih]; simp
    · simp
@[simp] theorem record_recorder_soot (c k i : Nat) (a : DWord) (s : State) : (record c k i a s).recorder.soot = s.recorder.soot := recordFuel_soot _ _ _ _ _ _
@[simp] theorem ringWrite_sootWin (c k i : Nat) (a : DWord) (n : Nat) (r : Recorder) : (ringWrite c k i a n r).sootWin = r.sootWin := rfl
@[simp] theorem startFlush_sootWin (n : Nat) (r : Recorder) : (startFlush n r).sootWin = r.sootWin := by
  unfold startFlush
  split
  · rfl
  · split
    · rfl
    · dsimp only
      split <;> rfl
@[simp] theorem recordCore_sootWin (c k i : Nat) (a : DWord) (n : Nat) (r : Recorder) : (recordCore c k i a n r).1.sootWin = r.sootWin := by
  unfold recordCore
  dsimp only
  split
  · rfl
  · split <;> split <;> simp
theorem recordFuel_sootWin (fuel c k i : Nat) (a : DWord) (s : State) : (recordFuel fuel c k i a s).recorder.sootWin = s.recorder.sootWin := by
  induction fuel generalizing c k i a s with
  | zero => rfl
  | succ n ih =>
    unfold recordFuel
    dsimp only
    split
    · split
      · simp
      · rw [ih]; simp
    · simp
@[simp] theorem record_recorder_sootWin (c k i : Nat) (a : DWord) (s : State) : (record c k i a s).recorder.sootWin = s.recorder.sootWin := recordFuel_sootWin _ _ _ _ _ _
@[simp] theorem ringWrite_loading (c k i : Nat) (a : DWord) (n : Nat) (r : Recorder) : (ringWrite c k i a n r).loading = r.loading := rfl
@[simp] theorem startFlush_loading (n : Nat) (r : Recorder) : (startFlush n r).loading = r.loading := by
  unfold startFlush
  split
  · rfl
  · split
    · rfl
    · dsimp only
      split <;> rfl
@[simp] theorem recordCore_loading (c k i : Nat) (a : DWord) (n : Nat) (r : Recorder) : (recordCore c k i a n r).1.loading = r.loading := by
  unfold recordCore
  dsimp only
  split
  · rfl
  · split <;> split <;> simp
theorem recordFuel_loading (fuel c k i : Nat) (a : DWord) (s : State) : (recordFuel fuel c k i a s).recorder.loading = s.recorder.loading := by
  induction fuel generalizing c k i a s with
  | zero => rfl
  | succ n ih =>
    unfold recordFuel
    dsimp only
    split
    · split
      · simp
      · rw [ih]; simp
    · simp
@[simp] theorem record_recorder_loading (c k i : Nat) (a : DWord) (s : State) : (record c k i a s).recorder.loading = s.recorder.loading := recordFuel_loading _ _ _ _ _ _
@[simp] theorem ringWrite_flashWin (c k i : Nat) (a : DWord) (n : Nat) (r : Recorder) : (ringWrite c k i a n r).flashWin = r.flashWin := rfl
@[simp] theorem startFlush_flashWin (n : Nat) (r : Recorder) : (startFlush n r).flashWin = r.flashWin := by
  unfold startFlush
  split
  · rfl
  · split
    · rfl
    · dsimp only
      split <;> rfl
@[simp] theorem recordCore_flashWin (c k i : Nat) (a : DWord) (n : Nat) (r : Recorder) : (recordCore c k i a n r).1.flashWin = r.flashWin := by
  unfold recordCore
  dsimp only
  split
  · rfl
  · split <;> split <;> simp
theorem recordFuel_flashWin (fuel c k i : Nat) (a : DWord) (s : State) : (recordFuel fuel c k i a s).recorder.flashWin = s.recorder.flashWin := by
  induction fuel generalizing c k i a s with
  | zero => rfl
  | succ n ih =>
    unfold recordFuel
    dsimp only
    split
    · split
      · simp
      · rw [ih]; simp
    · simp
@[simp] theorem record_recorder_flashWin (c k i : Nat) (a : DWord) (s : State) : (record c k i a s).recorder.flashWin = s.recorder.flashWin := recordFuel_flashWin _ _ _ _ _ _
@[simp] theorem ringWrite_pfail (c k i : Nat) (a : DWord) (n : Nat) (r : Recorder) : (ringWrite c k i a n r).pfail = r.pfail := rfl
@[simp] theorem startFlush_pfail (n : Nat) (r : Recorder) : (startFlush n r).pfail = r.pfail := by
  unfold startFlush
  split
  · rfl
  · split
    · rfl
    · dsimp only
      split <;> rfl
@[simp] theorem recordCore_pfail (c k i : Nat) (a : DWord) (n : Nat) (r : Recorder) : (recordCore c k i a n r).1.pfail = r.pfail := by
  unfold recordCore
  dsimp only
  split
  · rfl
  · split <;> split <;> simp
theorem recordFuel_pfail (fuel c k i : Nat) (a : DWord) (s : State) : (recordFuel fuel c k i a s).recorder.pfail = s.recorder.pfail := by
  induction fuel generalizing c k i a s with
  | zero => rfl
  | succ n ih =>
    unfold recordFuel
    dsimp only
    split
    · split
      · simp
      · rw [ih]; simp
    · simp
@[simp] theorem record_recorder_pfail (c k i : Nat) (a : DWord) (s : State) : (record c k i a s).recorder.pfail = s.recorder.pfail := recordFuel_pfail _ _ _ _ _ _

end Sys2Proof.Machine
end

