-- ==== Sys2Proof/Laws/Cores.lean ====
section
/-! SUPPORT. Lanes of a register built from lanes, and what a change of one ember core changes. -/

namespace Sys2Proof.Machine
open Sys2Proof

theorem lane_ofLanes (w : Nat) (ls : List Nat) (i : Nat) (hi : i < ls.length) (h : w * ls.length ≤ 128) : lane w (ofLanes w ls) i = ls.getD i 0 % 2 ^ w := by
  have key : ∀ (ls : List Nat), ls.foldr (fun x a => x % 2 ^ w + 2 ^ w * a) 0 < 2 ^ (w * ls.length) ∧ ∀ i, i < ls.length → ls.foldr (fun x a => x % 2 ^ w + 2 ^ w * a) 0 / 2 ^ (w * i) % 2 ^ w = ls.getD i 0 % 2 ^ w := by
    intro ls
    induction ls with
    | nil => simp
    | cons x xs ih =>
      have p : 0 < 2 ^ w := Nat.pos_of_ne_zero (by simp)
      refine ⟨?_, ?_⟩
      · simp only [List.foldr_cons, List.length_cons]
        have := ih.1
        rw [Nat.mul_add, Nat.mul_one, Nat.pow_add]
        have h1 : x % 2 ^ w < 2 ^ w := Nat.mod_lt _ p
        calc _ < 2 ^ w + 2 ^ w * List.foldr (fun x a => x % 2 ^ w + 2 ^ w * a) 0 xs := by omega
          _ = 2 ^ w * (List.foldr (fun x a => x % 2 ^ w + 2 ^ w * a) 0 xs + 1) := by rw [Nat.mul_add, Nat.mul_one, Nat.add_comm]
          _ ≤ 2 ^ w * 2 ^ (w * xs.length) := Nat.mul_le_mul_left _ (by omega)
          _ = _ := Nat.mul_comm _ _
      · intro i hi
        cases i with
        | zero => simp [Nat.add_mul_mod_self_left]
        | succ i =>
          have := ih.2 i (by simpa using hi)
          simp only [List.foldr_cons, List.getD_cons_succ]
          rw [← this, Nat.mul_add, Nat.mul_one, Nat.add_comm (w * i) w, Nat.pow_add, ← Nat.div_div_eq_div_mul]
          congr 2
          rw [Nat.add_comm, Nat.mul_add_div p, Nat.div_eq_of_lt (Nat.mod_lt _ p), Nat.add_zero]
  unfold lane ofLanes
  have hlt : ls.foldr (fun x a => x % 2 ^ w + 2 ^ w * a) 0 < 2 ^ 128 := Nat.lt_of_lt_of_le (key ls).1 (Nat.pow_le_pow_right (by omega) h)
  rw [BitVec.toNat_ofNat, Nat.mod_eq_of_lt hlt, (key ls).2 i hi]

theorem lane_ofLanes_map (e : Elem) (f : Nat → Nat) (i : Nat) (hi : i < e.lanes) : lane e.width (ofLanes e.width ((upTo e.lanes).map f)) i = f i % 2 ^ e.width := by
  rw [lane_ofLanes]
  · simp [upTo, hi]
  · simpa [upTo] using hi
  · simp [upTo]; cases e <;> decide

theorem lane_lt (w : Nat) (v : Granule) (i : Nat) : lane w v i < 2 ^ w := Nat.mod_lt _ (Nat.pos_of_ne_zero (by simp))

/-- A running core acts; the instruction sees the core as it is. -/
theorem withCore_runs (h c : Nat) (f : Core → State → State) (s : State) (hr : CoreRuns s h c) : withCore h c f s = f (s.core h c) s := by
  simp [withCore, hr.1, hr.2.1]

/-- A change of one core is that and nothing else. -/
theorem modCore_becomes (h c : Nat) (f : Core → Core) (s : State) : CoreBecomes h c (f (s.core h c)) s (modCore h c f s) := by
  refine ⟨by simp [State.core], ⟨⟨rfl, fun g hg => by simp [hg]⟩, ?_, fun d hd => by simp [hd]⟩⟩
  simp [modCore]

end Sys2Proof.Machine
end

