-- ==== Sys2Proof/Laws/Memory.lean ====
section
/-! SUPPORT. Every operation that writes DRAM, a scratchpad or a poison mark keeps the canonical form. -/

namespace Sys2Proof.Machine
open Sys2Proof

/-! ### Folds over writes -/

theorem foldl_keeps {α β : Type} {P : β → Prop} (f : β → α → β) (hf : ∀ b a, P b → P (f b a)) :
    ∀ (l : List α) (b : β), P b → P (l.foldl f b)
  | [], _, h => h
  | a :: l, b, h => foldl_keeps f hf l (f b a) (hf b a h)

theorem foldr_keeps {α β : Type} {P : β → Prop} (f : α → β → β) (hf : ∀ b a, P b → P (f a b)) :
    ∀ (l : List α) (b : β), P b → P (l.foldr f b)
  | [], _, h => h
  | a :: l, b, h => hf _ a (foldr_keeps f hf l b h)

theorem forEach_keeps {α : Type} {P : State → Prop} (l : List α) (f : α → State → State) (hf : ∀ a s, P s → P (f a s))
    (s : State) (h : P s) : P (forEach l f s) :=
  foldl_keeps (fun s a => f a s) (fun s a hs => hf a s hs) l s h

theorem if_pos_or_neg {β : Type} {P : β → Prop} {c : Prop} [Decidable c] {a b : β} (ha : P a) (hb : P b) : P (if c then a else b) := by
  split
  · exact ha
  · exact hb

/-! ### One hearth's memory -/

/-- A hearth's scratchpad and its poison marks are in canonical form. -/
def HearthLegal (x : Hearth) : Prop := Memory.wf x.mem ∧ Memory.marksWf x.poison

theorem hearthLegal_dflt : HearthLegal Hearth.dflt := ⟨rfl, rfl⟩

/-- A record update that keeps both memories keeps the form. -/
theorem hearthLegal_congr {x y : Hearth} (hm : y.mem = x.mem) (hp : y.poison = x.poison) (h : HearthLegal x) : HearthLegal y := by
  unfold HearthLegal at *
  rw [hm, hp]
  exact h

theorem forall_get {β : Type} {P : β → Prop} {d : β} (hd : P d) (k : Nat) : ∀ {t : Table β}, (∀ p ∈ t, P p.2) → P (Table.get d t k)
  | [], _ => hd
  | (j, v) :: t, h => by
    rw [Table.get_cons]
    split
    · exact h (j, v) (by simp)
    · exact forall_get hd k (fun p hp => h p (by simp [hp]))

theorem forall_erase {β : Type} {P : β → Prop} (k : Nat) : ∀ {t : Table β}, (∀ p ∈ t, P p.2) → ∀ p ∈ Table.erase t k, P p.2
  | [], _ => by simp [Table.erase]
  | (j, v) :: t, h => by
    have ht := forall_erase k (t := t) (fun p hp => h p (by simp [hp]))
    unfold Table.erase
    split
    · exact ht
    · intro p hp
      rcases List.mem_cons.1 hp with rfl | hp
      · exact h _ (by simp)
      · exact ht p hp

theorem forall_insert {β : Type} {P : β → Prop} (k : Nat) {v : β} (hv : P v) : ∀ {t : Table β}, (∀ p ∈ t, P p.2) → ∀ p ∈ Table.insert t k v, P p.2
  | [], _ => by simp [Table.insert, hv]
  | (j, w) :: t, h => by
    have ht := forall_insert k hv (t := t) (fun p hp => h p (by simp [hp]))
    unfold Table.insert
    split
    · intro p hp
      rcases List.mem_cons.1 hp with rfl | hp
      · exact hv
      · exact h p hp
    · intro p hp
      rcases List.mem_cons.1 hp with rfl | hp
      · exact h _ (by simp)
      · exact ht p hp

theorem forall_set {β : Type} [DecidableEq β] {P : β → Prop} (d : β) (k : Nat) {v : β} (hv : P v) {t : Table β} (h : ∀ p ∈ t, P p.2) :
    ∀ p ∈ Table.set d t k v, P p.2 := by
  unfold Table.set
  split
  · exact forall_erase k h
  · exact forall_insert k hv (forall_erase k h)

theorem clearBank_legal (b : Nat) (x : Hearth) (h : HearthLegal x) : HearthLegal (clearBank b x) :=
  ⟨Table.wf_drop 0 _ h.1, Table.wf_drop false _ h.2⟩

theorem failBank_legal (b : Nat) (x : Hearth) (h : HearthLegal x) : HearthLegal (failBank b x) := by
  unfold failBank
  generalize upTo 8192 = l
  exact ⟨h.1, foldr_keeps (P := Memory.marksWf) _ (fun p i hp => Table.wf_set false p _ _ hp) l _ (Table.wf_drop false _ h.2)⟩

/-! ### The device's memories -/

theorem memoriesLegal_reset : MemoriesLegal State.reset := ⟨rfl, rfl, by simp [State.reset]⟩

/-- An effect that reaches no memory keeps the form. -/
theorem memoriesLegal_congr {s t : State} (hd : t.dram = s.dram) (hp : t.dramPoison = s.dramPoison) (hh : t.hearths = s.hearths)
    (h : MemoriesLegal s) : MemoriesLegal t := by
  unfold MemoriesLegal at *
  rw [hd, hp, hh]
  exact h

/-- What an event record or a message changes is no memory. -/
theorem memoriesLegal_post {s t : State} (o : OnlyPost s t) (h : MemoriesLegal s) : MemoriesLegal t := by
  refine memoriesLegal_congr ?_ ?_ ?_ h <;> rw [o.1]

theorem memoriesLegal_record (c k i : Nat) (a : DWord) (s : State) (h : MemoriesLegal s) : MemoriesLegal (record c k i a s) :=
  memoriesLegal_post (onlyPost_of_record (record_only c k i a s)) h

theorem memoriesLegal_postMsg (q : Nat) (c : MsgClass) (e : Entry32) (s : State) (h : MemoriesLegal s) : MemoriesLegal (postMsg q c e s) :=
  memoriesLegal_post (postMsg_only q c e s) h

/-- A change of one hearth that keeps its own memories in form keeps the device's. -/
theorem modHearth_legal (g : Nat) (f : Hearth → Hearth) (hf : ∀ x, HearthLegal x → HearthLegal (f x)) (s : State) (h : MemoriesLegal s) :
    MemoriesLegal (modHearth g f s) := by
  refine ⟨h.1, h.2.1, ?_⟩
  exact forall_set (P := HearthLegal) Hearth.dflt g (hf _ (forall_get hearthLegal_dflt g h.2.2)) h.2.2

/-- A change of one hearth that reaches neither its scratchpad nor its marks. -/
theorem modHearth_other (g : Nat) (f : Hearth → Hearth) (hm : ∀ x, (f x).mem = x.mem) (hp : ∀ x, (f x).poison = x.poison) (s : State)
    (h : MemoriesLegal s) : MemoriesLegal (modHearth g f s) :=
  modHearth_legal g f (fun x hx => hearthLegal_congr (hm x) (hp x) hx) s h

theorem modCore_legal (g c : Nat) (f : Core → Core) (s : State) (h : MemoriesLegal s) : MemoriesLegal (modCore g c f s) :=
  modHearth_other g _ (by intros; rfl) (by intros; rfl) s h
theorem modLadle_legal (g l : Nat) (f : Ladle → Ladle) (s : State) (h : MemoriesLegal s) : MemoriesLegal (modLadle g l f s) :=
  modHearth_other g _ (by intros; rfl) (by intros; rfl) s h
theorem modBank_legal (g b : Nat) (f : Bank → Bank) (s : State) (h : MemoriesLegal s) : MemoriesLegal (modBank g b f s) :=
  modHearth_other g _ (by intros; rfl) (by intros; rfl) s h
theorem modCtr_legal (g c : Nat) (f : Ctr → Ctr) (s : State) (h : MemoriesLegal s) : MemoriesLegal (modCtr g c f s) :=
  modHearth_other g _ (by intros; rfl) (by intros; rfl) s h
theorem modHoop_legal (g j : Nat) (f : Hoop → Hoop) (s : State) (h : MemoriesLegal s) : MemoriesLegal (modHoop g j f s) :=
  modHearth_other g _ (by intros; rfl) (by intros; rfl) s h
theorem modOut_legal (g p : Nat) (f : FluePort → FluePort) (s : State) (h : MemoriesLegal s) : MemoriesLegal (modOut g p f s) :=
  modHearth_other g _ (by intros; rfl) (by intros; rfl) s h
theorem modIn_legal (g p : Nat) (f : FluePort → FluePort) (s : State) (h : MemoriesLegal s) : MemoriesLegal (modIn g p f s) :=
  modHearth_other g _ (by intros; rfl) (by intros; rfl) s h
theorem modCounts_legal (g : Nat) (f : HearthCounts → HearthCounts) (s : State) (h : MemoriesLegal s) : MemoriesLegal (modCounts g f s) :=
  modHearth_other g _ (by intros; rfl) (by intros; rfl) s h

theorem modChan_legal (c : Nat) (f : Channel → Channel) (s : State) (h : MemoriesLegal s) : MemoriesLegal (modChan c f s) := h

theorem modSoot_legal (f : Soot → Soot) (s : State) (h : MemoriesLegal s) : MemoriesLegal (modSoot f s) := h

/-! ### DRAM -/

theorem dramWrite_legal (a : Nat) (data : List (Byte × Bool)) (s : State) (h : MemoriesLegal s) : MemoriesLegal (dramWrite a data s) := by
  have h1 : ∀ l s, MemoriesLegal s → MemoriesLegal (forEach l (fun l s =>
      if chanFailed s (l * 128 % dramBytes) then
        modChan (chanOf (l * 128 % dramBytes)) (fun c => { c with eccUncorr := satAdd c.eccUncorr 1 }) s else s) s) := by
    refine fun l s => forEach_keeps l _ (fun a s hs => ?_) s
    split
    · exact modChan_legal _ _ _ hs
    · exact hs
  unfold dramWrite
  refine ⟨?_, ?_, (h1 _ s h).2.2⟩
  · refine foldl_keeps (P := Memory.wf) _ (fun t i ht => ?_) _ _ h.1
    dsimp only
    split
    · exact Table.wf_set 0 t _ _ ht
    · exact ht
  · refine foldl_keeps (P := Memory.marksWf) _ (fun t i ht => ?_) _ _ h.2.1
    dsimp only
    split
    · exact Table.wf_set false t _ _ ht
    · exact ht

theorem dramPut_legal (a : Nat) (data : List Byte) (s : State) (h : MemoriesLegal s) : MemoriesLegal (dramPut a data s) :=
  dramWrite_legal a _ s h

theorem dramZero_legal (a len : Nat) (s : State) (h : MemoriesLegal s) : MemoriesLegal (dramZero a len s) := by
  have h1 : ∀ l s, MemoriesLegal s → MemoriesLegal (forEach l (fun l s =>
      if chanFailed s (l * 128 % dramBytes) then
        modChan (chanOf (l * 128 % dramBytes)) (fun c => { c with eccUncorr := satAdd c.eccUncorr 1 }) s else s) s) := by
    refine fun l s => forEach_keeps l _ (fun a s hs => ?_) s
    split
    · exact modChan_legal _ _ _ hs
    · exact hs
  unfold dramZero
  dsimp only
  split
  · have := h1 (linesOf a len) s h
    exact ⟨Table.wf_drop 0 _ this.1, Table.wf_drop false _ this.2.1, this.2.2⟩
  · exact ⟨Table.wf_drop 0 _ h.1, Table.wf_drop false _ h.2.1, h.2.2⟩

/-! ### Scratchpads -/

theorem countAccess_legal (g : Nat) (a : Access) (s : State) (h : MemoriesLegal s) : MemoriesLegal (countAccess g a s) := by
  cases a
  · exact h
  · exact modCounts_legal _ _ _ h
  · exact modCounts_legal _ _ _ h

theorem eccCorrected_legal (g k : Nat) (s : State) (h : MemoriesLegal s) : MemoriesLegal (eccCorrected g k s) := by
  unfold eccCorrected
  apply modSoot_legal
  apply modHearth_other
  · intro x; rfl
  · intro x; rfl
  exact modCounts_legal _ _ _ h

theorem setMark_legal (g k : Nat) (v : Bool) (f : Hearth → Hearth) (hm : ∀ x, (f x).mem = x.mem)
    (hp : ∀ x, (f x).poison = Table.set false x.poison k v) (s : State) (h : MemoriesLegal s) : MemoriesLegal (modHearth g f s) := by
  refine modHearth_legal g f ?_ s h
  intro x hx
  unfold HearthLegal
  rw [hm, hp]
  exact ⟨hx.1, Table.wf_set false _ _ _ hx.2⟩

theorem setBytes_legal (g : Nat) (l : List Nat) (k : Nat → Nat) (v : Nat → Byte) (f : Hearth → Hearth)
    (hm : ∀ x, (f x).mem = l.foldl (fun t i => Table.set 0 t (k i) (v i)) x.mem) (hp : ∀ x, (f x).poison = x.poison) (s : State)
    (h : MemoriesLegal s) : MemoriesLegal (modHearth g f s) := by
  refine modHearth_legal g f ?_ s h
  intro x hx
  unfold HearthLegal
  rw [hm, hp]
  exact ⟨foldl_keeps (P := Memory.wf) _ (fun t i ht => Table.wf_set 0 t _ _ ht) l _ hx.1, hx.2⟩

theorem eccUncorrectable_legal (g m k : Nat) (s : State) (h : MemoriesLegal s) : MemoriesLegal (eccUncorrectable g m k s) := by
  unfold eccUncorrectable
  generalize hd : draw 128 s = p
  have hs : MemoriesLegal p.2 := by rw [← hd]; exact h
  obtain ⟨d, s1⟩ := p
  dsimp only
  apply memoriesLegal_postMsg
  apply memoriesLegal_record
  apply modSoot_legal
  apply setMark_legal (k := k) (v := true)
  · intro x; rfl
  · intro x; rfl
  apply modCounts_legal
  apply setBytes_legal g (upTo 16) (fun i => k * 16 + i) (fun i => byteAt (toBytes d 16) i)
  · intro x; rfl
  · intro x; rfl
  exact hs

theorem keepWord_legal (g m a len : Nat) (s : State) (h : MemoriesLegal s) : MemoriesLegal (keepWord g m a len s) := by
  unfold keepWord
  split
  · exact h
  · split
    · exact modHearth_other _ _ (by intros; rfl) (by intros; rfl) _ h
    · exact h

theorem spmRead_legal (g m a len : Nat) (who : Agent) (errs : List SpmErr) (s : State) (h : MemoriesLegal s) :
    MemoriesLegal (spmRead g m a len who errs s).2 := by
  unfold spmRead
  refine keepWord_legal _ _ _ _ _ (forEach_keeps _ _ (fun e s hs => ?_) _ (forEach_keeps _ _ (fun a s hs => countAccess_legal _ _ _ hs) _ h))
  unfold applyErr
  split
  · exact eccUncorrectable_legal _ _ _ _ hs
  · exact eccCorrected_legal _ _ _ hs

theorem spmWrite_legal (g a : Nat) (who : Agent) (data : List (Byte × Bool)) (s : State) (h : MemoriesLegal s) :
    MemoriesLegal (spmWrite g a who data s) := by
  unfold spmWrite
  dsimp only
  apply modHearth_legal
  · intro x hx
    constructor
    · apply foldl_keeps (P := Memory.wf)
      · intro t i ht
        exact if_pos_or_neg (P := Memory.wf) (Table.wf_set 0 t _ _ ht) ht
      · exact hx.1
    · apply foldl_keeps (P := Memory.marksWf)
      · intro t i ht
        exact if_pos_or_neg (P := Memory.marksWf) (Table.wf_set false t _ _ ht) ht
      · exact hx.2
  · apply forEach_keeps
    · intro a s hs
      exact countAccess_legal _ _ _ hs
    · exact h

theorem loadLadles_legal (hs : List Nat) (home l j : Nat) (seq : Word) (lo hi bm sm : Nat) (en : Bool) (s : State) (h : MemoriesLegal s) :
    MemoriesLegal (loadLadles hs home l j seq lo hi bm sm en s) := by
  have h1 := spmWrite_legal home bm (.job (some j)) (List.replicate (cdiv (hi - lo) 64 * 8) (0, false)) s h
  unfold loadLadles
  refine forEach_keeps _ _ (fun k s hs => modLadle_legal _ _ _ _ hs) _ ?_
  exact if_pos_or_neg (P := MemoriesLegal) h1 (modLadle_legal _ _ _ _ h1)

theorem modCmd_legal (j : Nat) (q : Word) (f : Cmd → Cmd) (s : State) (h : MemoriesLegal s) : MemoriesLegal (modCmd j q f s) := h

theorem groupComplete_legal (home l : Nat) (s : State) (h : MemoriesLegal s) : MemoriesLegal (groupComplete home l s) := by
  unfold groupComplete
  dsimp only
  split
  · exact h
  · split
    · exact if_pos_or_neg (P := MemoriesLegal) (loadLadles_legal _ _ _ _ _ _ _ _ _ _ _ (modCmd_legal _ _ _ _ h)) (modCmd_legal _ _ _ _ h)
    · exact h

theorem reportDone_legal (home l i : Nat) (s : State) (h : MemoriesLegal s) : MemoriesLegal (reportDone home l i s) := by
  unfold reportDone
  dsimp only
  have hr := fun a who => spmRead_legal home 10 a 1 who [] s h
  have hw := fun a who d => spmWrite_legal home a who d _ (hr a who)
  refine if_pos_or_neg (P := MemoriesLegal) (modCounts_legal _ _ _ h) (if_pos_or_neg (P := MemoriesLegal) (modCounts_legal _ _ _ (hr _ _)) ?_)
  exact if_pos_or_neg (P := MemoriesLegal) (groupComplete_legal _ _ _ (modLadle_legal _ _ _ _ (hw _ _ _))) (modLadle_legal _ _ _ _ (hw _ _ _))

/-! ### Job switches -/

theorem clearSaved_legal (g : Nat) (s : State) (h : MemoriesLegal s) : MemoriesLegal (clearSaved g s) := by
  unfold clearSaved
  apply modHearth_legal
  · intro x hx
    apply hearthLegal_congr (x := (upTo 32).foldl (fun y b => if bit y.written b then clearBank b y else y) x)
    · rfl
    · rfl
    apply foldl_keeps (P := HearthLegal)
    · intro y b hy
      exact if_pos_or_neg (P := HearthLegal) (clearBank_legal _ _ hy) hy
    · exact hx
  · exact h

theorem restoreHearth_legal (x : SavedHearth) (s : State) (h : MemoriesLegal s) : MemoriesLegal (restoreHearth x s) := by
  unfold restoreHearth
  apply modHearth_legal
  · intro y hy
    constructor
    · apply foldl_keeps (P := Memory.wf)
      · intro t p ht
        exact Table.wf_set 0 t _ _ ht
      · exact Table.wf_drop 0 _ hy.1
    · apply foldl_keeps (P := Memory.marksWf)
      · intro t p ht
        exact Table.wf_set false t _ _ ht
      · exact Table.wf_drop false _ hy.2
  · exact h

end Sys2Proof.Machine
end

