-- ==== Sys2Proof/WellFormed.lean ====
section
/-! DEFINITION. Which commands a sender can send: checks on the operands that their types do not make. Meanings are total and
do not rest on them. -/

namespace Sys2Proof.Instr
open Sys2Proof

/-- A DRAM request lies within one 128-byte line (Table 8.1). -/
def inLine (addr len : Nat) : Bool := decide (0 < len ∧ addr % 128 + len ≤ 128)

/-- Each beat of a line is reported at most once. -/
def distinctBeats (errs : List (Fin 4 × Fin 36 × Bool)) : Bool := decide (errs.map (·.1)).Nodup

/-- A picture has at least one unit, and a parameter set a size. -/
def picOk (p : PicParse) : Bool :=
  !p.units.isEmpty && (p.sps.map (fun x => decide (0 < x.width ∧ 0 < x.height))).getD true

/-- Addresses of a datagram: both IPv4 or both IPv6. -/
def netAddrs (src dst : List Byte) : Bool := decide (src.length = dst.length ∧ (src.length = 4 ∨ src.length = 16))

/-- The command is well formed. -/
def wellFormed : Instr → Bool
  | .registerWrite off _ _ hi _ => decide (off.toNat % 4 = 0) && (hi.isNone || decide (off.toNat % 8 = 0))
  | .lowHalfRead x => decide (0 < x.len.toNat ∧ x.len.toNat ≤ 4096 ∧ x.off.toNat + x.len.toNat ≤ 2 ^ 26)
  | .lowHalfWrite off _ => decide (off.toNat % 8 = 0)
  | .highHalfWrite off _ => decide (off.toNat % 8 = 4)
  | .dramRequest _ addr len _ write _ => inLine addr.toNat len.val && (write.map (fun d => decide (d.length = len.val))).getD true
  | .dramReadDeliver _ errs => distinctBeats errs
  | .patrolRead _ errs => distinctBeats errs
  | .decodeClaim _ parse => picOk parse
  | .commandReadComplete _ entries => decide (entries ≠ [])
  | .udpDatagram _ _ src _ dst _ _ _ _ => netAddrs src dst
  | .thermalSensorRead readings => decide (readings.length = 20)
  | .jtagSamplePreload captured update => decide (captured.length = update.length)
  | .jtagExtest captured update => decide (captured.length = update.length)
  | .jtagExtestPulse captured update => decide (captured.length = update.length)
  | .jtagExtestTrain captured update => decide (captured.length = update.length)
  | .pcieLinkUp speed width => decide (1 ≤ speed.val) && decide (width.val ∈ [1, 2, 4, 8])
  -- the types of the other commands' operands hold every check
  | _ => true

end Sys2Proof.Instr
end

