-- ==== Sys2Proof/Tests/Slice0.lean ====
section
/-! SUPPORT. The author's own tests: operands that the check refuses, one witness per statement for the hypotheses of its
clauses, and small steps with the results that the manual's tables give. -/

namespace Sys2Proof.Tests
open Sys2Proof Sys2Proof.Machine

-- One theorem at a time: elaborated together, they wait for the kernel on a thread and a stack each.
set_option Elab.async false

/-! ### Small states -/

/-- The state after reset, in Lit and served. -/
def lit : State := { State.reset with power := { Power.reset with state := .lit }, elec := { Elec.reset with pllLocked := true }, pcie := { Pcie.reset with notReady := false } }
/-- The same in another power state. -/
def inPower (p : PState) : State := { lit with power := { Power.reset with state := p } }
/-- Lit, with one hearth ACTIVE and changed by `f`. -/
def withHearth (h : Nat) (f : Hearth → Hearth) : State := modHearth h (fun x => f { x with state := .active }) lit
/-- Lit, with core 2 of hearth 3 changed by `f`. -/
def withCore (f : Core → Core) : State := withHearth 3 (fun x => { x with cores := Table.mod Core.dflt x.cores 2 f })

/-! ### Operands that the check refuses -/

theorem test_wellFormed_refuses : ∀ i ∈ [Instr.registerWrite 2 0 15 none false, .registerWrite 4 0 15 (some (0, 15)) false, .lowHalfRead ⟨0, 0⟩,
    .lowHalfWrite 4 0, .highHalfWrite 8 0, .commandReadComplete 0 [], .thermalSensorRead [0], .jtagSamplePreload [true] [],
    .jtagExtest [true] [], .jtagExtestPulse [true] [], .jtagExtestTrain [true] [], .pcieLinkUp 0 1, .pcieLinkUp 1 3],
    i.wellFormed = false := by decide

theorem test_decode_none : ∀ n ∈ [8, 16, 32], ∀ w ∈ [0, 1, 255], decodeTableWord n w = none := by decide

def noPicture : PicParse := { sps := none, sliceGroups := false, redundant := false, name := 0, nonRef := false, temporal := 0, irap := false, intra := false, recovery := none, refs := [], keep := [], outs := [], holdOut := false, units := [] }

theorem test_wellFormed_refuses_lists : ∀ i ∈ [Instr.dramReadDeliver 0 [(0, 0, false), (0, 1, true)], .patrolRead 0 [(1, 0, false), (1, 2, false)],
    .decodeClaim 0 noPicture, .udpDatagram 0 true [1, 2] 0 [1, 2] 0 false [] (0, 0)], i.wellFormed = false := by decide

def readyBank : Bank := { Bank.dflt with cls := .working, state := .ready }
/-- Hearth `h` ACTIVE with bank 0 READY and working, changed by `f`. -/
def on (h : Nat) (f : Hearth → Hearth) (s : State) : State := modHearth h (fun x => f { x with state := .active, banks := [(0, readyBank)] }) s
def vat0 : Region := { region := 0, size := 2, dramTarget := 0, dramBase := 0, dramUnits := 0, hearths := [3, 4], banks := [], flues := [], groups := [] }
/-- Lit, with vat 0 of hearths 3 and 4, both ACTIVE. -/
def twoHearths : State := { on 3 id (on 4 id lit) with image := { Image.empty with regions := [vat0] } }
/-- The same with core 2 of hearth 3 RUNNING and changed by `f`. -/
def coreAt (f : Core → Core) : State := modCore 3 2 (fun k => f { k with run := .running }) twoHearths
/-- Its register x1 holds `v`, poisoned or not. -/
def x1 (v : Word) (p : Bool) : State := coreAt (fun k => { k with x := [(1, { v := v, p := p })] })

/-- A 64-byte entry from (byte offset, value) fields. -/
def entry (fs : List (Nat × Nat)) : Entry64 := BitVec.ofNat 512 (fs.map (fun p => p.2 * 2 ^ (8 * p.1))).sum
def job (st : JobState) : Job :=
  { qp := 0, vat := 0, state := st, kind := 0, prio := 0, fwBanks := 1, semMask := 0, bind := [], bound := [], paramAddr := 0, counterMask := 0,
    hoopMask := 0, order := 0, beginSeq := 1, lastSeq := 1, begun := true, ended := false, killLatched := false, cause := none, saveSlot := none,
    saved := [], passive := false, cleared := false, adapt := none }
/-- A command of job 7 with SEQ 1 whose part of hearth 3 is left. -/
def cmd (st : CmdState) (e : Entry64) : Cmd :=
  { qp := 0, job := 7, seq := 1, entry := e, state := st, hearths := [3], partsLeft := [3], ladle := none, plan := none, moved := 0, cores := [],
    deferred07 := none, queues := [3], execOrder := 0, prefetch := [], resident := [], served := none, landed := [], desc := [], stages := [], posted := [] }
/-- Job 7 of vat 0 with its commands. -/
def jobState (b : Job) (cs : List Cmd) : State := { twoHearths with jobs := [(7, some b)], cmds := cs }
/-- Job 7 RUNNING, with one command in EXECUTING. -/
def execState (fs : List (Nat × Nat)) : State := jobState (job .running) [cmd .executing (entry fs)]

/-! ### A structure image and an update package under a key of the author's own -/

/-- `n` bytes from (byte offset, value) fields. -/
def bytesOf (n : Nat) (fs : List (Nat × Nat)) : List Byte := toBytes (BitVec.ofNat (8 * n) ((fs.map (fun p => p.2 * 2 ^ (8 * p.1))).sum)) n
/-- 384 bytes, the first highest. -/
def bigEndian (x : Nat) : List Byte := i2osp384 x
def keyModulus : List Byte := bigEndian 0xc5ba8b3e1112243500629e08ecae8a2ab0f9622a09b28a778a271bb294377c330f3a7f33ff9cd7503cced6ab7c24501b09b8ffd4d3050a202d3c105dc0e8f39d807b706610040d8cabca0019f33318058069be7a826cb602ba452453adbbe7ab6121d93c936643bfb3c05d54eda1c6b35c59c687f71e9703033fa71ed1ca36087fec76af2a1ebded29060ef66a03de90c81161e5bd932b3bc3dc7189f62c7509626e8a7f999d9581a3973a370f7dbb7fdeaa1587e4e0b525d2bec443acf0856112e3ed6317c69853c7170ed2abfaee7aa05628322d86e49086e47b4e0652c7c1fbc2048eab0d47beab92edd213d1884af7f7242c0d08745d1dbe7ee41ff1a66c00c93d6901e422547faf47982f631a8a20e6f0a3a4f7e0380a32c9a51e133253b32125e7f22e4c49190814a201320a53983a4b1b8d3f3b2714a8808581a25e66c466229c9983aa52db0e11dc0f59dd6abe296f7f7b850baf13934fc33e1e7ab9be37361b5fa7f282399aa3c43ff5a28b628a443da4642dfb8a0036c8ce6ff023
def signature (x : Nat) : List Byte := [0, 0, 32, 0] ++ bigEndian x ++ List.replicate 124 0

/-- An image of one stream class and no region, signed with OpenSSL. -/
def signedPart : List Byte := bytesOf 192 ([(0, 0x41544749), (4, 1), (6, 2), (8, 704), (20, 192), (64, 1), (65, 0xFF), (66, 1), (68, 96), (72, 64), (80, 2), (81, 0xFF),
  (82, 1), (84, 160), (88, 32), (96, 16), (98, 1), (161, 1), (162, 8), (163, 1), (164, 16), (166, 16), (168, 256), (172, 1), (176, 1)] ++
  (List.range 8).map (fun p => (100 + 2 * p, 50)))
def imageSig : Nat := 0x6166e7ebd900f5cbdaa03a40cedf57fb773033a6150cef7e01fdefbcacbd4891dcc3f7c705f13799b757f3b76c9b57b037f68d524ad352c4ebcf1e93bb382894367b4d6aa81a0dabc9b94201d4b2bac2b5cd975fc4743bbdb58bbf393576c2d9120b86ae0f199e5d68478ed9fcb742a8f172d0ddecb295e3238d100cd87f3352a8bd30401765da1a62d735929bcd76b55c4d68ffe4acbc27065623bb9c79e1378a886138da4d10e5183fe1f1115cf98f49ebf56d7b43cb79938feca608ab9a6010590651317a88304ac2ac5e8e8daa74c94a74c59e3283c0b0f8613eac9e7d6653348116a84c25ab309dda93db33ebdbaf4620c699b79d8478545f52d1a86fe6aba2c69abaf04d4529efc988de81e631a6e5b4653757eb343d253dbe77c10dcf3057e3ce25a67d8d46d32af5d746a52aa62d6f1ea2e72246a466f6123f1030b9b6ce3ca6756d3f4bc679ec9cff331514ce7ccc033579adad39c7f08e456ff2360e1e0d128693affaf8f7015f0e495323510a4cb0955675f9dc6f758ba704b797
def goodImage : List Byte := signedPart ++ signature imageSig

/-- A package of 4,096 zero bytes of firmware and, at byte 8,192, that image. -/
def packageHead : List Byte := bytesOf 64 [(0, 0x50555A4F), (4, 1), (8, 8896), (20, 4096), (24, 8192), (28, 704)]
def packageSig : Nat := 0x5ead4086c2c8fdca89a804fb7b99b1c3cdf089f449581bcac76f838bef3ff21229c403305f8b450afafe484adfa8fe30232999d0ef487050e76e6f8012d16cf53abc76d4d15fe08fbc0697752e5cbafef9c8c8446d3d054823c2d337804f1f2277939c74589e8dddb392d0b40f054fc3176a7ace1e6e3beeea53ac2f6dc6a52e5dfaaeb72889eb1e17c8a1187c9d1ab6dfc2c92564a0d968f1fbd11b412a50f7ab731d515ad22e4cb70944a294f933bd4dc0f647e72c005dd9950cd8d090268521991d3845cec94528c425a8677e62631faacebf27757ae15922a01c2457452d5b6a7047c02357a110b2664edc925221f689e3e941a5a214291bc93fb3e4c2309afde8e0078427d9eea1078637f36eda95931eeec15747d815c1a0d6885d79e75d30f2371bd3ed8811d3e754cb66ad203a634fd00b24b263a8290f85aaa7600d9f2b0018d98620fc6686ff5fad968f008bfdca6809ea0143fd9a81c29bf42b2a018a4abc2db447874f2d2f8776347dbfac37173c2e772d368bd5305459b2734d
def goodPackage : List Byte := packageHead ++ signature packageSig ++ List.replicate 7616 0 ++ goodImage

/-- A device that holds the key in slot 0. -/
def keyed : Boot :=
  { Boot.reset with
    identity := { Boot.reset.identity with moduli := [(0, keyModulus)] }
    fuses := { Fuses.shipped with keyHash := [(0, some (sha256 keyModulus))] } }

theorem test_sha256_abc : sha256Bytes [0x61, 0x62, 0x63] = toBytes (0xAD1500F261FF10B49C7A1796A36103B02322AE5DDE404141EACF018FBF1678BA : BitVec 256) 32 := by decide +kernel

theorem goodImage_signed :
    sigValid keyed (goodImage.take (imgSigOffset goodImage)) ((goodImage.drop (imgSigOffset goodImage)).take 512) = true := by decide +kernel

theorem goodImage_passes : imageCheck keyed [] goodImage (some 0) = 0 ∧ imageCheck keyed [] goodImage none = 0 := by
  simp only [imageCheck, goodImage_signed]
  decide +kernel

/-- `n` blocks of a padded message from block `a` on: a hash of many blocks is evaluated in runs of a few. -/
def shaRun (p : List Byte) (a n : Nat) (h : List Word) : List Word := (upTo n).foldl (fun h i => shaBlock h ((p.drop (64 * (a + i))).take 64)) h

theorem shaRun_add (p : List Byte) (a m n : Nat) (h : List Word) : shaRun p a (m + n) h = shaRun p (a + m) n (shaRun p a m h) := by
  simp [shaRun, upTo, List.range_add, List.foldl_append, List.foldl_map, Nat.add_assoc]

theorem sha256Bytes_run (m : List Byte) (n : Nat) (e : (shaPad m).length / 64 = n) :
    sha256Bytes m = (shaRun (shaPad m) 0 n shaInit).flatMap (fun x => (toBytes x 4).reverse) := by
  subst e; simp [sha256Bytes, shaRun]

/-- What the package signature covers. -/
def packageMsg : List Byte := goodPackage.take 64 ++ pkgFirmware goodPackage
theorem packageMsg_run0 : shaRun (shaPad packageMsg) 0 17 shaInit = [0xFAF6C235, 0x0D841857, 0xF16DC4D2, 0x72042EA0, 0x4AFF944C, 0x96834FEF, 0xF726A04A, 0xA8592C0D] := by decide +kernel
theorem packageMsg_run17 : shaRun (shaPad packageMsg) 17 17 [0xFAF6C235, 0x0D841857, 0xF16DC4D2, 0x72042EA0, 0x4AFF944C, 0x96834FEF, 0xF726A04A, 0xA8592C0D] = [0x9F91EAA5, 0xE14F52E4, 0x70686BC4, 0x78F1741C, 0x42B82E7F, 0xDD3EFFF5, 0x450D1E2A, 0x41175E2F] := by decide +kernel
theorem packageMsg_run34 : shaRun (shaPad packageMsg) 34 17 [0x9F91EAA5, 0xE14F52E4, 0x70686BC4, 0x78F1741C, 0x42B82E7F, 0xDD3EFFF5, 0x450D1E2A, 0x41175E2F] = [0xF2400D7B, 0x75CA08A9, 0x002F2BBE, 0x8CE5D9CE, 0x32944DE5, 0x3973E18B, 0xF0515C02, 0x999268D3] := by decide +kernel
theorem packageMsg_run51 : shaRun (shaPad packageMsg) 51 15 [0xF2400D7B, 0x75CA08A9, 0x002F2BBE, 0x8CE5D9CE, 0x32944DE5, 0x3973E18B, 0xF0515C02, 0x999268D3] = [0x41C5B601, 0x3245F4DF, 0xC924543C, 0x980872A9, 0xF1291866, 0x244DF663, 0xF359B94A, 0xE90E28A3] := by decide +kernel

theorem packageMsg_digest : sha256Bytes packageMsg = ([0x41C5B601, 0x3245F4DF, 0xC924543C, 0x980872A9, 0xF1291866, 0x244DF663, 0xF359B94A, 0xE90E28A3] : List Word).flatMap (fun x => (toBytes x 4).reverse) := by
  rw [sha256Bytes_run packageMsg 66 (by decide +kernel), show (66 : Nat) = 17 + (17 + (17 + 15)) from rfl,
    shaRun_add, shaRun_add, shaRun_add, packageMsg_run0]
  simp only [Nat.zero_add, Nat.reduceAdd, packageMsg_run17, packageMsg_run34, packageMsg_run51]

theorem goodPackage_signed : pkgSigned keyed goodPackage = true := by
  show sigValid keyed packageMsg ((goodPackage.drop 64).take 512) = true
  simp only [sigValid, rsaPssVerify, pssOk, packageMsg_digest]
  decide +kernel

theorem goodPackage_passes : slotOk keyed goodPackage = true ∧ pkgImage goodPackage = goodImage ∧ imageCheck keyed [] (pkgImage goodPackage) none = 0 := by
  have h : pkgImage goodPackage = goodImage := by decide +kernel
  have m : fieldAt goodPackage 40 4 = 0 := by decide +kernel
  refine ⟨?_, h, by rw [h]; exact goodImage_passes.2⟩
  simp only [slotOk, goodPackage_signed, m]
  refine (Bool.and_true _).trans ?_
  have r : decide (0 ≤ Config.romVer.toNat) = true := by simp
  rw [r]
  decide +kernel

/-- The checks read the fuses and the keys of the part, and nothing else of its boot state. -/
theorem slotOk_same (b c : Boot) (d : List Byte) (f : b.fuses = c.fuses) (k : b.identity = c.identity) : slotOk b d = slotOk c d := by
  cases b; cases c; cases f; cases k; rfl
theorem imageCheck_same (b c : Boot) (a d : List Byte) (n : Option Nat) (f : b.fuses = c.fuses) (k : b.identity = c.identity) :
    imageCheck b a d n = imageCheck c a d n := by
  cases b; cases c; cases f; cases k; rfl

/-- DRAM that holds `bs` from address `a` on and nothing else. -/
def cells (a : Nat) : List Byte → List (Nat × Byte)
  | [] => []
  | b :: bs => if b = 0#8 then cells (a + 1) bs else (a, b) :: cells (a + 1) bs

theorem get_cells (bs : List Byte) : ∀ a k, Table.get 0#8 (cells a bs) k = if a ≤ k then bs.getD (k - a) 0#8 else 0#8 := by
  induction bs with
  | nil => intro a k; simp [cells, Table.get]
  | cons b bs ih =>
    intro a k
    by_cases e : a = k
    · subst e
      by_cases z : b = 0#8
      · simp [cells, z, ih, show ¬ a + 1 ≤ a by omega]
      · simp [cells, z, Table.get]
    · have g : Table.get 0#8 (cells a (b :: bs)) k = Table.get 0#8 (cells (a + 1) bs) k := by
        by_cases z : b = 0#8 <;> simp [cells, z, Table.get, e]
      rw [g, ih]
      by_cases l : a ≤ k
      · obtain ⟨n, rfl⟩ : ∃ n, k = a + 1 + n := ⟨k - a - 1, by omega⟩
        have : a + 1 + n - a = n + 1 := by omega
        simp [this, show a ≤ a + 1 + n by omega, List.getD]
      · simp [l, show ¬ a + 1 ≤ k by omega]

theorem bytes_of_cells (s : State) (a n : Nat) (bs : List Byte) (hd : s.dram = cells a bs) (hc : s.channels = []) (hn : n ≤ bs.length)
    (hf : a + bs.length ≤ dramBytes) : dramBytesAt s a n = bs.take n := by
  apply List.ext_getElem
  · simp [dramBytesAt, dramRead, upTo, hn]
  · intro i h1 h2
    simp only [dramBytesAt, dramRead, upTo, List.length_map, List.length_range] at h1
    have m : (a + i) % dramBytes = a + i := Nat.mod_eq_of_lt (by omega)
    have f : chanFailed s (a + i) = false := by simp [chanFailed, State.chan, hc, Table.get, Channel.dflt]
    simp [dramBytesAt, dramRead, upTo, m, f, hd, get_cells, show i < bs.length by omega]
/-! ### Witnesses: the hypotheses of each clause of a statement can be met -/

def perstHigh : State := { lit with elec := { Elec.reset with perst := false, pllLocked := true } }
def unlocked : State := { lit with elec := Elec.reset }
def trialB : Boot := { Boot.reset with phase := .gated, slotB := { state := .pending, attempts := 0, data := [] } }
def confirmedA : Boot := { Boot.reset with phase := .relock, slotA := { state := .confirmed, attempts := 0, data := [] } }

theorem serving_lit : Serving lit := ⟨by decide, by decide⟩

theorem witness_registerWrite : Serving lit ∧ regHit 0xC = .empty ∧ (∃ r i j, regHit 8 = .word r i j ∧ r.lock i j lit = false) ∧
    ∃ r i j, regHit joinOff = .word r i j ∧ r.lock i j { lit with ether := { lit.ether with join := .running } } = true :=
  ⟨serving_lit, rfl, ⟨_, _, _, rfl, by decide⟩, _, _, _, rfl, by decide⟩

theorem witness_halves : (∃ r i j, regHit hqBase = .low r i j ∧ r.lock i j lit = false) ∧
    ∃ r i j, regHit (hqBase + 4) = .high r i j ∧ r.lock i j lit = false ∧
      Table.get none { lit with writeHold := [(holdKey hqBase, some (5 : Word))] }.writeHold (holdKey hqBase) = some 5 :=
  ⟨⟨_, _, _, rfl, by decide⟩, _, _, _, rfl, by decide, by decide⟩

theorem witness_reads : (∃ r i j, regHit 8 = .word r i j) ∧ (11 : BitVec 26).toNat / 4 * 4 = 8 ∧ (11 : BitVec 26).toNat % 8 ≠ 0 ∧ (4 : BitVec 13) ≠ 8 ∧
    hqBase % 8 = 0 := ⟨⟨_, _, _, rfl⟩, by decide⟩

theorem witness_resets : (inPower .cold).power.state = .cold ∧ lit.power.state ≠ .cold ∧ powered lit = true ∧ lit.elec.perst = true ∧
    powered perstHigh = true ∧ perstHigh.elec.perst = false := by decide

theorem witness_pllLock : ∃ s : State, powered s = true ∧ s.elec.sysclk = true ∧ s.elec.perst = false ∧ s.elec.tripWait = false ∧ s.boot.phase = .relock ∧
    s.boot.slotA.state ∉ [.pending, .trial] ∧ s.boot.slotB.state ∉ [.pending, .trial] ∧ slotIn s.boot .confirmed = some 0 :=
  ⟨{ perstHigh with boot := confirmedA }, by decide⟩

def trialState : State := { perstHigh with boot := { keyed with phase := .relock, slotB := { state := .pending, attempts := 0, data := goodPackage } } }

theorem witness_trial : trialSlot trialState = some 1 ∧ trialState.elec.sysclk = true ∧ trialState.elec.perst = false ∧ trialState.elec.tripWait = false ∧
    trialState.boot.phase = .relock ∧ slotOk trialState.boot (trialState.boot.slot 1).data = true :=
  ⟨rfl, rfl, rfl, rfl, rfl, (slotOk_same trialState.boot keyed _ rfl rfl).trans goodPackage_passes.1⟩

theorem witness_gatedLock : ({ perstHigh with boot := trialB }).boot.phase = .gated ∧ lit.elec.perst = true := by decide

theorem witness_lostClocks : perstHigh.elec.pllLocked = true ∧ unlocked.elec.pllLocked = false ∧ powered lit = true ∧ lit.boot.order = none ∧
    lit.recorder.flushing = none ∧ powered (inPower .cold) = false := by decide

def busyUpdate : State := { lit with boot := { Boot.reset with update := { Update.idle with state := .receiving } } }
def marchingState : State := withHearth 0 (fun x => { x with march := { March.dflt with running := true } })

theorem witness_powerRequests : clocked lit = true ∧ (lit.power.state = .lit ∧ lit.power.bankedWaits = false ∧ bankedResult lit = 0 ∧ marching lit = false) ∧
    bankedResult busyUpdate ≠ 0 ∧ (bankedResult marchingState = 0 ∧ marching marchingState = true) ∧
    (inPower .enteringBanked).power.state = .enteringBanked ∧ (inPower .exitingBanked).power.state = .exitingBanked ∧
    ((inPower .banked).power.state = .banked ∧ (inPower .banked).pcie.notReady = false) := by decide

theorem witness_waitingRequest : { lit.power with bankedWaits := true }.bankedWaits = true ∧ { lit.power with bankedWaits := true }.state = .lit := by decide

theorem witness_transitions : (∃ s : State, s.power.state = .enteringBanked ∧ channelsBusy s = false ∧ s.power.pending = 0 ∧ s.power.flrAfterWake = false ∧
      ∀ b, b < 16 → (s.bkt b).state = .disabled) ∧
    (∃ s : State, s.power.state = .exitingBanked ∧ channelsBusy s = false ∧ banksBusy s = false ∧ s.power.pending = 0 ∧
      s.power.flrAfterWake = false ∧ s.power.deferredFaults = [] ∧ s.image.regions = [] ∧ NothingFetched s) :=
  ⟨⟨inPower .enteringBanked, by decide⟩, ⟨inPower .exitingBanked, by decide, by decide, by decide, by decide, by decide, by decide, by decide, fun _ => rfl⟩⟩

theorem witness_pins : (∃ s : State, powered s = true ∧ s.power.state = .banked ∧ bit (cfgGet s (cpmBase + 0x108)) 3 = true ∧
      bit (cfgGet s (cpmBase + 0x200)) 3 = false) ∧ (powered lit = true ∧ lit.power.state ≠ .banked) ∧
    (lit.recorder.pfail = false ∧ lit.boot.update.state = .idle) ∧ ∃ s : State, powered s = true ∧ s.recorder.pfail = true :=
  ⟨⟨cfgSet (cpmBase + 0x108) 8 (inPower .banked), by decide⟩, by decide, by decide, { lit with recorder := { Recorder.reset with pfail := true } }, by decide⟩

theorem witness_flr : (Serving lit ∧ liveJobs lit = [] ∧ (∀ i, i < 256 → (lit.ses i).state = .closed) ∧ lit.reload.state = .idle ∧ lit.image.regions = []) ∧
    State.reset.pcie.notReady = true ∧ ((inPower .banked).pcie.notReady = false ∧ (inPower .banked).power.state = .banked) ∧
    (∃ s : State, s.pcie.notReady = true ∧ s.pcie.flrBusy = false ∧ s.power.flrAfterWake = false ∧ s.power.state = .lit) ∧
    State.reset.power.state = .booting :=
  ⟨⟨serving_lit, by decide, fun _ _ => rfl, by decide, by decide⟩, by decide, by decide, ⟨{ lit with pcie := Pcie.reset }, by decide⟩, by decide⟩

theorem witness_unoccupied : Serving lit ∧ (0xC : BitVec 26).toNat % 4 = 0 ∧ regHit (0xC : BitVec 26).toNat = .empty := ⟨serving_lit, by decide, rfl⟩

theorem witness_banked : (inPower .banked).power.state = .banked ∧ (inPower .banked).pcie.notReady = false ∧ (8 : BitVec 26).toNat < hqBase ∧
    hqBase ≤ (0x40000 : BitVec 26).toNat := by decide

theorem witness_latched : ∀ p ∈ [PState.enteringBanked, .exitingBanked], (inPower p).pcie.notReady = false ∧ (inPower p).power.flrAfterWake = false ∧
    channelsBusy (inPower p) = false ∧ banksBusy (inPower p) = false := by decide

theorem witness_budgets : (∃ r : Recorder, eventSeverity 0x0101 ≠ 3 ∧ 8 ≤ Table.get 0 r.spent 0x0101) ∧ Table.get 0 Recorder.reset.spent 0x0101 < 8 ∧
    (∃ c, eventSeverity c = 3) ∧ Table.wf 0 lit.recorder.spent = true :=
  ⟨⟨{ Recorder.reset with spent := [(0x0101, 8)] }, by decide⟩, by decide, ⟨0x0201, by decide⟩, by decide⟩

theorem witness_fuses : FusesLegal lit.boot.fuses ∧ lit.boot.order = none ∧ MemoriesLegal lit ∧ ∃ t, step lit = .next t :=
  ⟨by unfold FusesLegal; decide, by decide, by refine ⟨rfl, rfl, ?_⟩; simp [lit, State.reset], _, rfl⟩

def address (v : Word) : Nat := (effAddr (((x1 v false).core 3 2).getX 1).v 0).toNat

theorem witness_accesses : CoreRuns (x1 0 true) 3 2 ∧ (((x1 0 true).core 3 2).getX 1).p = true ∧
    (CoreRuns (x1 1 false) 3 2 ∧ (((x1 1 false).core 3 2).getX 1).p = false ∧ address 1 % loadBytes .lw ≠ 0 ∧ address 1 % storeBytes .sw ≠ 0 ∧ address 1 % 16 ≠ 0) ∧
    (address 0x30000000 % 16 = 0 ∧ decodeAddr (x1 0x30000000 false) 3 (address 0x30000000) = .none) ∧
    (DataAddr (address 16) ∧ readAccess (x1 16 false) 3 (address 16) (agentOf (x1 16 false) 3) = .ok ∧
      writeAccess (x1 16 false) 3 (address 16) (agentOf (x1 16 false) 3) = .ok ∧ address 16 % 16 = 0 ∧ marchHolds (x1 16 false) 3 (address 16) 16 = false ∧ decodeAddr (x1 16 false) 3 (address 16) ≠ .none ∧
      (∀ f ∈ ((x1 16 false).core 3 2).stores, f.hearth 3 = 3 → f.landed = true)) ∧
    (0x20000000 ≤ address 0x20000040 ∧ address 0x20000040 < 0x20020000 ∧ address 0x20000040 % 4 = 0) ∧
    (0x10000000 ≤ address 0x10400000 ∧ address 0x10400000 < 0x18000000 ∧ localHearth (x1 0x10400000 false) 3 ((address 0x10400000 - 0x10000000) / 0x400000) = 4 ∧
      ((x1 0x10400000 false).hearth 4).state = .active) ∧
    ((modHearth 4 (fun x => { x with state := .removing }) (x1 0x10400000 false)).hearth 4).state ≠ .active ∧
    ((coreAt (fun k => { k with v := [(2, { v := 0, p := true })] })).core 3 2).getV 2 = { v := 0, p := true } := by decide +kernel

def oneStore (d : StoreDst) (landed : Bool) : State := coreAt (fun k => { k with stores := [{ dst := d, data := [1], poison := false, landed := landed, tag := 15 }] })
def waiting (w : CoreWait) : State := coreAt (fun k => { k with run := .stalled, wait := some w })

theorem witness_cores : (CoreRuns (x1 0 false) 3 2 ∧ ((x1 0 false).core 3 2).stores = [] ∧ jobOfHearth (x1 0 false) 3 = none ∧
      (((x1 0 false).core 3 2).getX 17).p = false ∧ (((x1 0 false).core 3 2).getX 17).v = 0) ∧
    (CoreRuns (oneStore (.spm 4 0) false) 3 2 ∧ ((oneStore (.spm 4 0) false).core 3 2).stores ≠ []) ∧
    (∃ s, CoreRuns s 3 2 ∧ ((s.core 3 2).getX 17).p = true) ∧ (∃ s, CoreRuns s 3 2 ∧ ((s.core 3 2).getX 17).p = false ∧ ((s.core 3 2).getX 17).v ≠ 0) ∧
    (((waiting (.load false 5 true 4 16 4)).core 3 2).wait = some (.load false 5 true 4 16 4) ∧ ((waiting (.load false 5 true 4 16 4)).hearth 4).state = .active ∧
      readAccess (waiting (.load false 5 true 4 16 4)) 4 16 (agentOf (waiting (.load false 5 true 4 16 4)) 3) = .ok) ∧
    ((x1 0 false).core 3 2).wait = none ∧
    (∀ f ∈ ((oneStore (.spm 3 0) true).core 3 2).stores, f.hearth 3 = 3 ∧ f.landed = true) ∧
    ((waiting (.counter 1 0 6)).core 3 2).wait = some (.counter 1 0 6) ∧ (((waiting (.counter 1 0 6)).hearth 3).ctr 1).broken = false ∧
    0 ≤ ((((waiting (.counter 1 0 6)).hearth 3).ctr 1).value - 0).toInt ∧ ((((waiting (.counter 1 0 6)).hearth 3).ctr 1).value - 1).toInt < 0 ∧
    ¬ CoreRuns (waiting .fence) 3 2 := by
  refine ⟨by decide +kernel, by decide +kernel, ⟨coreAt (fun k => { k with x := [(17, { v := 0, p := true })] }), by decide +kernel⟩,
    ⟨coreAt (fun k => { k with x := [(17, { v := 4, p := false })] }), by decide +kernel⟩, by decide +kernel⟩

/-- Core 2 of hearth 3 at address 0, its instruction cache holding the bytes `bs` there. -/
def fetched (bs : List (Byte × Bool)) : State := coreAt (fun k => { k with pc := 0, icache := [(0, bs)] })
/-- The bytes of the word `w`. -/
def word (w : Word) : List (Byte × Bool) := (toBytes w 4).map (fun b => (b, false))

/-- ADDI x1, x0, 1; SUB x1, x0, x0; JAL x1, 0; BEQ x0, x0, 0; CSRRS x1, cycle, x0; a word of an unlisted opcode. -/
abbrev Fetches (w : Word) : Prop :=
  CoreRuns (fetched (word w)) 3 2 ∧ marchHolds (fetched (word w)) 3 0 4 = false ∧ bits w 1 0 = 3 ∧ icHalf ((fetched (word w)).core 3 2) 0 = (w.setWidth 16, false) ∧
    icHalf ((fetched (word w)).core 3 2) 2 = ((w >>> 16).setWidth 16, false) ∧ (((fetched (word w)).core 3 2).getX 0).p = false

theorem witness_program : (∀ n ∈ [0x00100093, 0x400000B3, 0x000000EF, 0x00000063, 0xC00020F3, 0x0000005B], Fetches (BitVec.ofNat 32 n)) ∧
    instOp 0x00100093#32 = 0x13 ∧ instF3 0x00100093#32 = 0 ∧ instOp 0x400000B3#32 = 0x33 ∧ instF7 0x400000B3#32 = 0x20 ∧ instOp 0x000000EF#32 = 0x6F ∧
    instOp 0x00000063#32 = 0x63 ∧ instOp 0xC00020F3#32 = 0x73 ∧ instF3 0xC00020F3#32 = 2 ∧ csrValue lit 3 2 (bits 0xC00020F3#32 31 20) ≠ none ∧
    instOp 0x0000005B#32 ∉ [0x37, 0x17, 0x6F, 0x67, 0x63, 0x03, 0x23, 0x13, 0x33, 0x0F, 0x73, 0x0B, 0x2B] ∧
    (icHalf ((fetched [(0, true)]).core 3 2) 0).2 = true ∧ (icHalf ((fetched [(0x93, false), (0, false), (0, true)]).core 3 2) 2).2 = true ∧
    0x400000 ≤ (0x400001#32 &&& ~~~1#32).toNat := by decide +kernel

theorem test_addi_runs : (match exec (.ecall 3 { c := 2, fetch := some { fetchErrs := [], errs := [], rivals := Rivals.none, evict := 0, tag := 15 } }) (fetched (word 0x00100093)) with
    | .next t => ((t.core 3 2).getX 1).v | _ => 0) = 1 := by decide +kernel

def vop (ty vs2 : Nat) : VOp := { hearth := 3, core := 2, ty := Fin.ofNat 8 ty, vd := 4, vs1 := 6, vs2 := Fin.ofNat 32 vs2 }

theorem witness_vectors : CoreRuns (x1 0 false) 3 2 ∧ elemOf (vop 7 1).ty = none ∧
    (∀ ty ∈ [0, 1, 2, 3, 4, 5], ∃ e, elemOf (vop ty 1).ty = some e) ∧ (∀ n ∈ [0, 1, 2, 3], (vop 0 n).vs2.val % 4 = n) ∧
    (∀ n ∈ [1, 4, 6], (((x1 0 false).core 3 2).getV n).p = false) ∧ (((coreAt (fun k => { k with v := [(6, { v := 0, p := true })] })).core 3 2).getV 6).p = true ∧
    (vop 1 1).vs1.val % 2 = 0 ∧ (vop 1 1).vd.val % 2 = 0 ∧ (((x1 0 false).core 3 2).getV 7).p = false ∧
    (((x1 0 false).core 3 2).getX 6).p = false ∧ (((coreAt (fun k => { k with x := [(6, { v := 0, p := true })] })).core 3 2).getX 6).p = true ∧
    (∃ e : Elem, e.fmt = none) := by
  refine ⟨?_, ?_, ?_, ?_, ?_, ?_, ?_, ?_, ?_, ?_, ?_, .i8, rfl⟩
  case refine_3 =>
    intro ty h
    simp only [List.mem_cons, List.not_mem_nil, or_false] at h
    rcases h with rfl | rfl | rfl | rfl | rfl | rfl <;> exact ⟨_, rfl⟩
  all_goals decide +kernel

/-- Ladle 5 of hearth 3 is `d`, with core 2 RUNNING. -/
def ladleAt (d : Ladle) : State := modLadle 3 5 (fun _ => d) (x1 0 false)

theorem witness_ladles : CoreRuns (ladleAt Ladle.dflt) 3 2 ∧ ((ladleAt Ladle.dflt).hearth 3).ladle 5 = Ladle.dflt ∧
    (Ladle.dflt.steal = none ∧ Ladle.dflt.tail = Ladle.dflt.head ∧ Ladle.dflt.pending = none ∧ Ladle.dflt.stealEn = false ∧ Ladle.dflt.valid = false) ∧
    (∃ d : Ladle, d.steal = none ∧ d.head + 2 ≤ d.tail ∧ d.valid = true) ∧ (∃ d : Ladle, d.steal = none ∧ d.tail = d.head + 1) ∧
    (∃ d : Ladle, d.steal ≠ none) ∧
    (((x1 0 false).core 3 2).getX 1).p = false ∧ (((x1 0 true).core 3 2).getX 1).p = true ∧
    (((x1 0 false).hearth 3).ctr 7).broken = false ∧ 0 ≤ ((((x1 0 false).hearth 3).ctr 7).value - (((x1 0 false).core 3 2).getX 1).v).toInt ∧
    ((((x1 4 false).hearth 3).ctr 7).value - (((x1 4 false).core 3 2).getX 1).v).toInt < 0 ∧ (((x1 4 false).core 3 2).getX 1).v.toNat % 8 ≠ 0 :=
  ⟨by decide +kernel, by decide +kernel, by decide +kernel, ⟨{ Ladle.dflt with tail := 2, valid := true }, by decide +kernel⟩, ⟨{ Ladle.dflt with tail := 1 }, by decide +kernel⟩,
    ⟨{ Ladle.dflt with steal := some { victims := [], probed := none, reply := none } }, by decide +kernel⟩, by decide +kernel, by decide +kernel, by decide +kernel, by decide +kernel, by decide +kernel, by decide +kernel⟩

/-- A trie node without children at address 8. -/
theorem witness_trie : landEarlier 3 2 3 (x1 8 false) = x1 8 false ∧ ((x1 8 false).hearth 3).state = .active ∧ ∃ nd ts : List (Byte × Bool), coreRead 3 3 0 8 8 [] (x1 8 false) = (nd, x1 8 false) ∧ nd.any (·.2) = false ∧ ts.any (·.2) = false ∧
    coreRead 3 3 0 (8 + fieldAt (nd.map (·.1)) 6 2 * 8) (min (fieldAt (nd.map (·.1)) 4 2) 256 * 4) [] (x1 8 false) = (ts, x1 8 false) :=
  ⟨by decide +kernel, by decide +kernel, List.replicate 8 (0, false), [], by decide +kernel⟩

/-- Ladle 5 of hearth 3 steals from that of hearth 4, which holds the indices [0, t). -/
def stealing (x : Steal) (t : Nat) : State := modLadle 4 5 (fun _ => { Ladle.dflt with tail := t }) (ladleAt { Ladle.dflt with steal := some x, total := 4 })
def reported (i : Nat) (s : State) : State := { s with dones := [{ src := 3, ladle := 5, home := 3, index := i }] }

theorem witness_steals : ((stealing { victims := [4], probed := none, reply := none } 2).hearth 3).ladle 5 =
      { Ladle.dflt with steal := some { victims := [4], probed := none, reply := none }, total := 4 } ∧
    ((stealing { victims := [4], probed := none, reply := none } 2).hearth 4).ladle 5 = { Ladle.dflt with tail := 2 } ∧
    stealCount 0 0 2 ≤ 2 ∧ bitmapBit (reported 1 (ladleAt { Ladle.dflt with total := 4 })) 3 5 1 = false ∧
    (∃ s : State, bitmapBit s 3 5 1 = true ∧ ((s.hearth 3).ladle 5).total = 4) ∧ (reported 9 (ladleAt { Ladle.dflt with total := 4 })).dones ≠ [] :=
  ⟨by decide +kernel, by decide +kernel, by decide +kernel, by decide +kernel, ⟨modHearth 3 (fun x => { x with mem := [(0, 2)] }) (ladleAt { Ladle.dflt with total := 4 }), by decide +kernel⟩, by decide +kernel⟩

def hearthIn (st : HearthState) : State := modHearth 3 (fun x => { x with state := st }) lit
def marchOf (m : March) (st : HearthState) : State := modHearth 3 (fun x => { x with march := m }) (hearthIn st)

theorem witness_hearths : (∀ st ∈ [HearthState.unassigned, .active, .removing, .stoppingPendingEnable, .faulted, .testing],
      ((hearthIn st).hearth 3).state = st ∧ (hearthIn st).power.state ≠ .banked) ∧
    ((on 3 id (inPower .banked)).hearth 3).state = .active ∧ (on 3 id (inPower .banked)).power.state = .banked ∧ Serving (hearthIn .faulted) ∧
    ((hearthIn .testing).hearth 3).march.running = false ∧ ((marchOf { March.dflt with result := 1 } .testing).hearth 3).march.result = 1 ∧
    ((marchOf { March.dflt with running := true } .testing).hearth 3).march.running = true := by decide +kernel

/-- Port 1 of hearth 3 sends to port 2 of hearth 4. -/
def flueState (st : FlueState) (flight : List (BitVec 512 × Bool × Nat)) (owed : Nat) : State :=
  modOut 3 1 (fun _ => { FluePort.dflt with valid := true, state := st, peer := 4, peerPort := 2, depth := 16, flight := flight })
    (modIn 4 2 (fun _ => { FluePort.dflt with valid := true, credits := owed }) twoHearths)

theorem witness_flues : (∀ st ∈ [FlueState.openF, .closed, .draining, .broken],
      let o := ((flueState st [(0, false, 15)] 1).hearth 3).outPort 1
      o.state = st ∧ o.flight = [(0, false, 15)] ∧ o.valid = true ∧ o.peer ≠ 3 ∧ o.slotMask ≠ BitVec.allOnes 64 ∧
        0 < (((flueState st [(0, false, 15)] 1).hearth o.peer).inPort o.peerPort).credits) ∧
    (((flueState .draining [] 0).hearth 3).outPort 1).flight = [] ∧ (((flueState .draining [] 0).hearth 3).outPort 1).state = .draining ∧
    ((lit.hearth 3).outPort 1).valid = false := by decide +kernel

theorem witness_banks : (∃ s : State, ((s.hearth 3).bank 5).state = .waking) ∧ ((lit.hearth 3).bank 5).state ≠ .waking ∧ (lit.hearth 3).scrubLeft = [] ∧
    (∀ off ∈ [false, true], ∃ s : State, (s.hearth 3).scrubLeft = [5] ∧ ((s.hearth 3).bank 5).offAfter = off) ∧
    (Serving (marchOf { March.dflt with running := true } .testing) ∧ bit (0x80000000 : Word) 31 = true ∧ bit (0x80000000 : Word) 0 = false ∧
      bit (0x80000001 : Word) 0 = true) ∧ (lit.hearth 3).march.running = false ∧ (lit.hearth 3).state ∈ [.unassigned, .faulted, .testing] ∧
    (twoHearths.hearth 3).state ∉ [.unassigned, .faulted, .testing] ∧
    (∃ s : State, Serving s ∧ maskBanks (cfgGet s (marchMaskOff 3)) = [0] ∧ (s.hearth 3).state ≠ .removing ∧
      ∀ x ∈ maskBanks (cfgGet s (marchMaskOff 3)), ((s.hearth 3).bank x).state = .ready) ∧
    (∀ left ∈ [[], [1]], ∀ p ∈ [false, true], ∃ s : State, (s.hearth 3).march = { March.dflt with running := true, preserving := p, left := left } ∧
      s.power.bankedWaits = false ∧ (s.hearth 3).state ≠ .active) := by
  refine ⟨⟨modBank 3 5 (fun b => { b with state := .waking }) lit, ?_⟩, ?_, ?_, ?_, ?_, ?_, ?_, ?_, ⟨cfgSet (marchMaskOff 3) 1 twoHearths, ?_⟩, ?_⟩
  case refine_4 =>
    intro off _
    exact ⟨modHearth 3 (fun x => { x with scrubLeft := [5] }) (modBank 3 5 (fun b => { b with offAfter := off }) lit), by cases off <;> decide⟩
  case refine_10 =>
    intro left hl p _
    refine ⟨marchOf { March.dflt with running := true, preserving := p, left := left } .testing, ?_⟩
    simp only [List.mem_cons, List.not_mem_nil, or_false] at hl
    rcases hl with rfl | rfl <;> cases p <;> decide +kernel
  all_goals decide +kernel

/-- A load that falls into the bank of a preserving march waits for its end. -/
theorem witness_marchedLoad :
    let s := modBank 3 0 (fun b => { b with state := .testing }) (marchOf { March.dflt with running := true, preserving := true } .active)
    marchHolds s 3 16 4 = true ∧ isControl 16 = false ∧ clocked s = true := by decide +kernel

/-- Hoop 20 of hearth 3 BOUND with 8 slots and 3 filled. -/
def hoopState : State := modHoop 3 20 (fun _ => { Hoop.dflt with state := .bound, size := 8, tail := 3 }) twoHearths

theorem witness_control : landSource 3 none hoopState = hoopState ∧ (lit.hearth 3).state ≠ .active ∧ (hoopState.hearth 3).state = .active ∧ ((hoopState.hearth 3).hoop 20).state = .bound ∧ ((hoopState.hearth 3).hoop 20).occ = 3 ∧
    ((hoopState.hearth 3).hoop 20).flue = false ∧ 0 < (3 : Word).toNat ∧ (3 : Word).toNat ≤ ((hoopState.hearth 3).hoop 20).occ ∧
    ((hoopState.hearth 3).hoop 20).occ < (4 : Word).toNat ∧ (5 : Word).toNat ≤ ((hoopState.hearth 3).hoop 20).size - ((hoopState.hearth 3).hoop 20).occ ∧
    ((hoopState.hearth 3).hoop 20).size - ((hoopState.hearth 3).hoop 20).occ < (6 : Word).toNat := by decide +kernel

theorem witness_bar4 : memServed (inPower .banked) = false ∧ (memServed lit = true ∧ (lit.hearth 3).state ≠ .active) ∧
    (memServed twoHearths = true ∧ (twoHearths.hearth 3).state = .active ∧ isControl 16 = false ∧ ((twoHearths.hearth 3).bank (bankOf 16)).state = .ready ∧
      ((twoHearths.hearth 3).bank (bankOf 16)).cls = .working ∧ (0xC00010 : BitVec 27).toNat / 0x400000 = 3 ∧ (0xC00010 : BitVec 27).toNat % 0x400000 = 16 ∧
      Table.get false (twoHearths.hearth 3).poison 1 = false) ∧
    Table.get false ((modHearth 3 (fun x => { x with poison := [(1, true)] }) twoHearths).hearth 3).poison 1 = true := by decide +kernel

def pass (reuse : Bool) (wait : Option (Nat × Word)) : Pass :=
  { job := 7, seq := 1, mode := 0, group := 0, grid := 0, model := 0, wbase := 0, xbase := 0, xStride := 0, rows := 1, accBase := 0, kValid := 1, nValid := 1,
    mask := none, wait := wait, acc := false, reuse := reuse, fed := [], own := none }
/-- Array 0 of hearth 3 is `a`, job 7 in state `st`. -/
def arrayState (st : JobState) (a : Arr) : State := modHearth 3 (fun x => { x with arrs := [(0, a)] }) (jobState (job st) [])
def fullSet : WSet := { WSet.empty with rows := List.replicate 128 [], scales := List.replicate (groupCount 0 0) [] }

theorem witness_arrays : (∀ st ∈ [JobState.running, .suspended], ((arrayState st { Arr.dflt with queue := [pass false none] }).hearth 3).arr 0 =
        { Arr.dflt with queue := [pass false none] }) ∧ (arrayState .running Arr.dflt).hearth 3 ≠ Hearth.dflt ∧
    jobRuns (arrayState .running Arr.dflt) 7 = true ∧ jobRuns (arrayState .suspended Arr.dflt) 7 = false ∧ ((arrayState .running Arr.dflt).hearth 3).state = .active ∧
    WSet.empty.rows = [] ∧ fullSet.complete = true ∧ fullSet.rows ≠ [] ∧ WSet.empty.complete = false ∧ (pass true none).reuse = true ∧
    (((arrayState .running { Arr.dflt with queue := [pass false (some (0, 1))] }).hearth 3).ctr 0).broken = false ∧
    ((((arrayState .running Arr.dflt).hearth 3).ctr 0).value - 1).toInt < 0 ∧
    ((arrayState .running { Arr.dflt with shadow := fullSet, queue := [pass false none] }).hearth 3).arr 0 = { Arr.dflt with shadow := fullSet, queue := [pass false none] } ∧
    ((arrayState .running { Arr.dflt with active := fullSet, flight := [pass false none] }).hearth 3).arr 0 = { Arr.dflt with active := fullSet, flight := [pass false none] } := by decide +kernel

/-- What the clauses about a pass that starts, one fed vector, and the oldest pass in flight ask. -/
theorem witness_passes : (pass false none).mode = 0 ∧ 1 ≤ (pass false none).kValid ∧ (pass false none).wbase + 128 ≤ 0xFFC00 ∧ (pass false none).rows = 1 ∧
    (pass false none).mask = none ∧ (pass false none).xbase + (pass false none).kValid * actBytes 0 ≤ 0xFFC00 ∧ (setFor (pass false none)).complete = false ∧
    { pass false none with mode := 1 }.mode ≠ (pass false none).mode ∧ ((pass false none).own.getD fullSet).complete = true ∧
    ((pass false none).own.getD WSet.empty).complete = false ∧ { pass false none with fed := [(0, [], false)] }.fed = [(0, [], false)] := by decide +kernel

def drainRun (d : Nat) : DrainRun := { job := 7, seq := 1, desc := List.replicate 64 0, entryBase := 0, count := 2, done := d }

theorem witness_drains : outTarget (drainRun 0).desc = 0 ∧ bumpEn (drainRun 0).desc = false ∧ (drainRun 0).done + 1 < (drainRun 0).count ∧
    (drainRun 1).done + 1 = (drainRun 1).count ∧
    ((arrayState .running { Arr.dflt with drains := [drainRun 0] }).hearth 3).arr 0 = { Arr.dflt with drains := [drainRun 0] } ∧
    ((arrayState .suspended { Arr.dflt with drain := some (drainRun 1) }).hearth 3).arr 0 = { Arr.dflt with drain := some (drainRun 1) } := by decide +kernel

/-- A drain descriptor of zeros but for its control bytes. -/
def drainDesc (fs : List (Nat × Nat)) : List Byte := toBytes (entry fs) 64

theorem witness_drainRows : outTarget (drainDesc [(24, 2)]) = 1 ∧ flueRoom (flueState .openF [] 0) 3 1 4 = false ∧ flueRoom (flueState .closed [] 0) 3 1 4 = true ∧
    bumpEn (drainDesc [(26, 0x80), (28, 1)]) = true ∧ bumpEvery (drainDesc [(26, 0x80), (28, 1)]) = 1 ∧ fieldAt (drainDesc []) 16 4 < 0x400000 ∧
    drainReads (drainDesc []) (descColumns (drainDesc [])) 0 0 0 = [] ∧
    fieldAt (drainDesc []) 16 4 + (drainRow (fun _ _ => []) (drainDesc []) (descColumns (drainDesc [])) 0 0 0 AccRow.dflt).1.length ≤ 0xFFC00 ∧
    ∀ b, b < 32 → ((withHearth 3 (fun x => { x with banks := (List.range 32).map fun b => (b, readyBank) })).hearth 3).bank b = readyBank := by decide +kernel

def version (st : VersionState) : Version := { model := 5, version := 9, state := st, base := 0, len := 0, tensors := [], grids := [], masters := [] }
def adaptJob (st : AdaptState) : Job := { job .running with adapt := some { state := st, params := [], steps := 0, tensors := [], acts := [] } }
def versionState (st : VersionState) : State := { lit with versions := [version st] }

theorem witness_models : (∀ st ∈ [AdaptState.stepping, .quantising], (jobState (adaptJob st) []).job 7 = some (adaptJob st)) ∧ (jobState (job .running) []).job 7 = some (job .running) ∧
    (∀ st ∈ [VersionState.staged, .idle, .current, .retiring], findVersion (versionState st) 5 9 = some (version st) ∧ publisher (versionState st) 5 9 = none) ∧
    findVersion lit 5 9 = none ∧ (∃ s : State, ∃ a : Adapt, s.job 7 = some { adaptJob .quantising with adapt := some a } ∧ a.state = .quantising ∧
      findVersion s a.model a.baseVersion ≠ none) := by
  refine ⟨by decide +kernel, by decide +kernel, by decide +kernel, by decide +kernel, ⟨{ jobState (adaptJob .quantising) [] with versions := [{ version .current with model := 0, version := 0 }] }, _, rfl, rfl, by decide +kernel⟩⟩

def tensor0 : TensorRec := { offset := 0, len := 0, blocks := 0, store := 0, k := 1, n := 1, group := 0, grid := 0, train := some 0 }
/-- Two steps over a crop set of one crop, with lead `m`; the crop is valid and has a weight. -/
def adapting (m : Nat) : Adapt :=
  { state := .stepping, params := toBytes (entry [(7, m), (12, 2), (16, 1), (56, 1), (60, 1)]) 64, steps := 0, tensors := [], acts := [] }
def adaptState (m : Nat) : State :=
  { jobState { job .running with adapt := some (adapting m) } [] with
    versions := [{ version .current with model := 0, version := 0, tensors := [tensor0] }], dram := [(8, 1), (4106, 1)] }

theorem witness_adapt : findVersion (adaptState 0xFF) (adapting 0xFF).model (adapting 0xFF).baseVersion =
      some { version .current with model := 0, version := 0, tensors := [tensor0] } ∧
    (trained { version .current with tensors := [tensor0] } (adapting 0xFF)).map (·.1) = [0] ∧ batchValid (adaptState 0xFF) 0 (adapting 0xFF) 1 = [true] ∧
    gradsPoisoned [[{ num := 0, w := [], poisoned := true }]] [true] [0] = true ∧ gradsPoisoned [] [true] [0] = false ∧ (adapting 0xFF).lead = 0xFF ∧
    isLead (adaptState 0xFF) (adapting 0xFF) = true ∧ isLead (adaptState 2) (adapting 2) = false ∧
    (∃ s : State, isLead s (adapting 2) = false ∧ (s.member (adapting 2).lead).state = .up) ∧ (adapting 2).steps = 0 := by
  refine ⟨?_, ?_, ?_, ?_, ?_, ?_, ?_, ?_, ⟨modMember 2 (fun m => { m with state := .up }) (adaptState 2), ?_⟩, ?_⟩ <;> decide +kernel
/-- The command of job 7 in `execState`. -/
def running (fs : List (Nat × Nat)) : Cmd := cmd .executing (entry fs)

theorem witness_jobCommands : (∀ op ∈ [opNop, opJobBegin, opJobEnd, opBindHoop, opSetCounter, opSemAcquire, opSemRelease],
      executing (execState [(0, op)]) 7 1 op = some (running [(0, op)])) ∧
    (∀ op ∈ [opJobBegin, opJobEnd], (execState [(0, op)]).job 7 = some (job .running) ∧ (job .running).bound = [] ∧
      (∀ d ∈ jobCmds (execState [(0, op)]) 7, d.deferred07 = none) ∧ heldSems (execState [(0, op)]) 7 = []) ∧ (∀ k, ((execState [(0, opJobEnd)]).bkt k).curds = []) ∧
    semOwner (execState [(0, opSemAcquire)]) 0 ∈ [none, some 7] ∧ semOwner (setSem 0 (some 8) (execState [(0, opSemAcquire)])) 0 ∉ [none, some 7] ∧
    (semOwner (setSem 0 (some 7) (execState [(0, opSemRelease)])) 0 = some 7 ∧ (execState [(0, opSemRelease)]).cmds.filter (waitsSem (execState [(0, opSemRelease)]) 0) = []) ∧
    (∃ s w, executing s 7 1 opSemRelease = some (running [(0, opSemRelease)]) ∧ semOwner s 0 = some 7 ∧ s.cmds.filter (waitsSem s 0) = [w] ∧ w.seq ≠ 1) ∧
    findCmd lit 7 1 = none := by
  refine ⟨?_, ?_, fun _ => rfl, ?_, ?_, ?_, ⟨setSem 0 (some 7) (jobState (job .running) [running [(0, opSemRelease)], { running [(0, opSemAcquire)] with seq := 2 }]), { running [(0, opSemAcquire)] with seq := 2 }, ?_⟩, ?_⟩ <;> decide +kernel

def waitingCmd (fs : List (Nat × Nat)) : State := jobState (job .running) [cmd .waiting (entry fs)]
/-- Every ladle of hearths 3 and 4 is in use. -/
def ladlesFull (s : State) : State :=
  forEach (upTo 16) (fun l s => modLadle 3 l (fun d => { d with valid := true }) (modLadle 4 l (fun d => { d with valid := true }) s)) s
/-- What the start of command `c` of job 7 reads. -/
def infoOf (s : State) (c : Cmd) : StartInfo := (startInfo (job .running) c Touch.none (touchMeet Touch.none s)).1
def poolFields : List (Nat × Nat) := [(0, opPool)]

theorem witness_starts : (∀ fs ∈ [[(0, opFill)], poolFields, [(0, opSemRelease)]], startable (waitingCmd fs) (job .running) (cmd .waiting (entry fs)) = true ∧
      (infoOf (waitingCmd fs) (cmd .waiting (entry fs))).poisoned = false) ∧
    startable lit (job .running) (running []) = false ∧
    (lowest (infoOf (waitingCmd [(0, opFill)]) (cmd .waiting (entry [(0, opFill)]))).reasons = 0 ∧
      (infoOf (waitingCmd [(0, opFill)]) (cmd .waiting (entry [(0, opFill)]))).plan = none) ∧
    lowest (infoOf (waitingCmd [(0, opSemRelease)]) (cmd .waiting (entry [(0, opSemRelease)]))).reasons ≠ 0 ∧
    (lowest (infoOf (waitingCmd poolFields) (cmd .waiting (entry poolFields))).reasons = 0 ∧
      (infoOf (waitingCmd poolFields) (cmd .waiting (entry poolFields))).plan ≠ none ∧
      (infoOf (ladlesFull (waitingCmd poolFields)) (cmd .waiting (entry poolFields))).plan ≠ none) ∧
    ladlePlace (waitingCmd poolFields) (job .running) 7 (flatPlan 4 2 1 false) = some (0, 0) ∧
    ladlePlace (ladlesFull (waitingCmd poolFields)) (job .running) 7 (flatPlan 4 2 1 false) = none := by decide +kernel

def doneCmd (notify : Bool) : Cmd := cmd .finished (entry [(0, opFill), (3, if notify then 128 else 0)])
def doneState (notify : Bool) : State := jobState (job .running) [doneCmd notify]

theorem witness_retires : (∀ n ∈ [false, true], jobRuns (doneState n) 7 = true ∧ cmdDone (doneState n) (doneCmd n) = true ∧ (doneCmd n).ladle = none ∧
      (doneCmd n).op ≠ opJobEnd ∧ (doneCmd n).op ≠ opCurdTake ∧ (doneCmd n).notify = n ∧ (doneState n).store.length < 4096 ∧ (doneState n).raised = [] ∧
      findCmd (doneState n) 7 1 = some (doneCmd n)) ∧ NothingFetched (doneState true) ∧
    (∃ m : Msg, ({ doneState true with store := List.replicate 4096 m }).store.length = 4096) ∧ cmdDone (execState [(0, opFill)]) (running [(0, opFill)]) = false :=
  ⟨by decide +kernel, fun _ => rfl, ⟨{ qp := 0, cls := .kept, entry := 0 }, List.length_replicate⟩, by decide +kernel⟩

/-- One row of 4 bytes at local address 0. -/
def moveFields (op : Nat) : List (Nat × Nat) := [(0, op), (28, 4), (32, 1)]

theorem witness_moves : (∀ op ∈ [opFill, opLoad, opStore], executing (execState (moveFields op)) 7 1 op = some (running (moveFields op)) ∧
      (running (moveFields op)).moved < (running (moveFields op)).rows ∧ (running (moveFields op)).near + (running (moveFields op)).rowBytes ≤ 0xFFC00 ∧
      (∀ x, x < (running (moveFields op)).near + (running (moveFields op)).rowBytes →
        writeAccess (execState (moveFields op)) (cmdHearth (execState (moveFields op)) (running (moveFields op))) x (.job (some 7)) = .ok) ∧
      farSpace (running (moveFields op)).far = 0) ∧
    (∀ b ∈ [0, 128], ∃ c : Cmd, ∃ s : State, findCmd s 7 1 = some c ∧ c.state = .executing ∧ c.op ∈ [opLoad, opStore, opFill] ∧ jobRuns s 7 = true ∧ c.partsLeft ≠ [] ∧
      c.moved = c.rows ∧ c.field 44 1 = b) := by
  refine ⟨by decide +kernel, ?_⟩
  intro b hb
  refine ⟨running [(0, opFill), (44, b)], execState [(0, opFill), (44, b)], ?_⟩
  simp only [List.mem_cons, List.not_mem_nil, or_false] at hb
  rcases hb with rfl | rfl <;> decide +kernel

def onePlan : Plan := flatPlan 4 2 1 false
/-- A layer command with a plan on ladle 0, of which hearth 3 holds index 0. -/
def layerCmd (fs : List (Nat × Nat)) : Cmd := { running fs with ladle := some 0, plan := some onePlan, stages := List.replicate 64 0, desc := List.replicate 64 0 }
def layerState (fs : List (Nat × Nat)) : State := modLadle 3 0 (fun _ => { Ladle.dflt with held := [0], valid := true }) (jobState (job .running) [layerCmd fs])

/-- A FUSED of two GEMM stages of one row, column and element. -/
def fusedCmd : Cmd :=
  let stage := toBytes (entry [(0, opGemm), (40, 1), (44, 1), (46, 1)]) 64
  { layerCmd [(0, opFused), (20, 2)] with stages := stage ++ stage }
def fusedState : State := modLadle 3 0 (fun _ => { Ladle.dflt with held := [0], valid := true }) (jobState (job .running) [fusedCmd])
def fusedReady : State := (readyHands 3 fusedCmd fusedCmd.fusedStages fusedState).getD lit

theorem witness_layers : (∀ op ∈ [opGemm, opConv, opPool, opFused], executing (layerState [(0, op), (20, 1)]) 7 1 op = some (layerCmd [(0, op), (20, 1)]) ∧
      (((layerState [(0, op), (20, 1)]).hearth 3).ladle 0).held = [0] ∧ olderTiles (layerState [(0, op), (20, 1)]) 3 (layerCmd [(0, op), (20, 1)]) = false ∧
      ((layerState [(0, op), (20, 1)]).hearth 3).state = .active ∧ 3 ∈ (layerCmd [(0, op), (20, 1)]).hearths ∧
      arrayFree (layerState [(0, op), (20, 1)]) 3 0 = true ∧ arrayFree (layerState [(0, op), (20, 1)]) 3 1 = true ∧
      nextIndex 3 0 0 (layerState [(0, op), (20, 1)]) = (some 0, layerState [(0, op), (20, 1)]) ∧ executing (execState [(0, op)]) 7 1 op = some (running [(0, op)])) ∧
    (layerCmd [(0, opPool)]).layer.wout = 0 ∧
    (layerCmd [(0, opPool), (40, 1), (42, 1), (44, 1), (48, 0x11), (49, 0x11), (50, 0x11), (51, 1)]).layer.wout = 1 ∧
    executing fusedState 7 1 opFused = some fusedCmd ∧ olderTiles fusedState 3 fusedCmd = false ∧ fusedCmd.fusedStages.getLast? ≠ none ∧
    readyHands 3 fusedCmd fusedCmd.fusedStages fusedState = some fusedReady ∧ nextIndex 3 0 0 fusedReady = (some 0, fusedReady) := by
  refine ⟨?_, ?_, ?_, ?_, ?_, ?_, ?_, ?_⟩ <;> decide +kernel

theorem witness_engines : (∀ op ∈ [opArrayPass, opDrain, opKernel], executing (execState [(0, op)]) 7 1 op = some (running [(0, op)]) ∧
      (running [(0, op)]).moved = 0 ∧ (running [(0, op)]).partsLeft = [3] ∧ (running [(0, op)]).cores = [] ∧ (running [(0, op)]).ladle = none) ∧
    (∀ op ∈ [opArrayPass, opDrain], executing (jobState (job .running) [{ running [(0, op)] with moved := 1 }]) 7 1 op = some { running [(0, op)] with moved := 1 }) ∧
    (∀ k, k < (running [(0, opKernel)]).kernelCores → ((execState [(0, opKernel)]).core 3 k).run = .idle) ∧
    reserveAt (execState [(0, opKernel), (44, 64)]) 3 7 ((running [(0, opKernel), (44, 64)]).field 44 4) = some 0 ∧
    kernelRuns (modCore 3 2 (fun k => { k with run := .running }) (execState [(0, opKernel)])) { running [(0, opKernel)] with cores := [(3, 2)] } 3 2 = true := by decide +kernel

def prefetchFields : List (Nat × Nat) := [(0, opGemm), (3, 64), (40, 1), (44, 1), (46, 1)]

theorem witness_prefetch : findCmd (waitingCmd prefetchFields) 7 1 = some (cmd .waiting (entry prefetchFields)) ∧ (cmd .waiting (entry prefetchFields)).prefetchOk = true ∧
    (cmd .waiting (entry [])).prefetchOk = false ∧ jobRuns (waitingCmd prefetchFields) 7 = true ∧ (cmd .waiting (entry prefetchFields)).prefetch = [] := by refine ⟨?_, ?_, ?_, ?_, ?_⟩ <;> decide +kernel

def curd (st : CurdState) : Curd := { seq := 4, state := st, slots := [], short := false, holder := none, takenBy := 0 }
/-- Bucket 2 holds one curd. -/
def curdState (k : Curd) (c : Cmd) : State := modBkt 2 (fun b => { b with state := .running, curds := [k], slotBytes := 4 }) (jobState (job .running) [c])
def takeCmd (next : Bool) : Cmd := running [(0, opCurdTake), (16, 2), (17, if next then 1 else 0), (19, 1)]

theorem witness_curds : (∃ s c, executing s 7 1 opCurdTake = some c ∧ takenCurd s c = none) ∧
    (∃ s c k, executing s 7 2 opCurdTake = some c ∧ c.partsLeft ≠ [] ∧ c.field 20 4 + 4 ≤ 0xFFC00 ∧ takenCurd s c = some k ∧ c.field 19 1 = 1 ∧ bit c.entry 137 = false ∧ c.field 32 1 < 128 ∧
      (s.bkt c.bucket).slotBytes = 4 ∧ ∀ x, x < 4 → writeAccess s (homeHearth s (jobVat s 7)) x (.job (some 7)) = .ok) ∧
    (lit.cmds.filter (waitsCurd lit 2) = [] ∧ readyCurds (lit.bkt 2) = []) ∧
    (∃ s c k, (sortBy (·.execOrder) (s.cmds.filter (waitsCurd s 2))).head? = some c ∧ (readyCurds (s.bkt 2)).head? = some k ∧ (s.bkt 2).curds.filter (fun d => decide (d.seq = k.seq)) = [k] ∧
      findCmd s c.job.toNat c.seq = some c ∧ ∀ d ∈ (s.bkt 2).curds, d.holder ≠ some c.job) :=
  ⟨⟨curdState (curd .ready) (takeCmd false), takeCmd false, by decide +kernel⟩,
    ⟨curdState { curd .taken with holder := some 7, takenBy := 1 } { takeCmd false with seq := 2 }, { takeCmd false with seq := 2 }, { curd .taken with holder := some 7, takenBy := 1 },
      by decide +kernel⟩, by decide +kernel,
    ⟨curdState (curd .ready) (takeCmd true), takeCmd true, curd .ready, by decide +kernel⟩⟩

/-- EMIT of one slot from hoop 20 of hearth 3, whose first 32 bytes hold `e`. -/
def emitState (e : Entry32) (n : Nat) : State :=
  modHearth 3 (fun x => { x with mem := pokeBytes [] 0 (toBytes e 32) }) (modHoop 3 20 (fun _ => { Hoop.dflt with state := .bound, size := 8, tail := BitVec.ofNat 32 n })
    (execState [(0, opEmit), (17, 20), (20, 1)]))
/-- A frame record of source 0, timestamp 0, and its open placeholder. -/
def frameRecord : Entry32 := BitVec.ofNat 256 0x10

theorem witness_emits : executing (execState [(0, opEmit)]) 7 1 opEmit = some (running [(0, opEmit)]) ∧ (((execState [(0, opEmit)]).hearth 3).hoop 0).state ≠ .bound ∧
    (∀ n ∈ [0, 1], executing (emitState 0 n) 7 1 opEmit = some (running [(0, opEmit), (17, 20), (20, 1)]) ∧ (((emitState 0 n).hearth 3).hoop 20).state = .bound ∧
      (((emitState 0 n).hearth 3).hoop 20).occ = n ∧ (((emitState 0 n).hearth 3).hoop 20).flue = false ∧ emitReady (emitState 0 n) (running [(0, opEmit), (17, 20), (20, 1)]) 3 = if n = 1 then some 1 else none) ∧
    (hoopEntries 3 20 1 (.job (some 7)) Touch.none (emitState 0 1)).1 = [(0, false), (0, false)] ∧
    (hoopEntries 3 20 1 (.job (some 7)) Touch.none (emitState frameRecord 1)).1 = [(frameRecord, false), (0, false)] ∧ bits frameRecord 15 0 = 0x10 ∧ bits frameRecord 55 48 = 0 ∧
    recSource frameRecord < 272 ∧ recOpen (openRec 0 0 0 false (emitState frameRecord 1)) (recSource frameRecord) (recTs frameRecord) = true := by
  refine ⟨?_, ?_, ?_, ?_, ?_, ?_, ?_, ?_, ?_⟩ <;> decide +kernel

/-- Vat 0 RUNNING. -/
def vatRunning (s : State) : State := modVat 0 (fun v => { v with state := .running }) s
def schedState (b : Job) : State := vatRunning (jobState b [running [(0, opJobBegin)]])

theorem witness_dispatch : firstRanked lit 0 (vatTakes lit 0) = none ∧ vatFree (vatRunning (jobState (job .running) [])) 0 = false ∧ activeJob lit 0 = none ∧
    (∀ st ∈ [JobState.queued, .suspended], vatFree (schedState (job st)) 0 = true ∧
      firstRanked (schedState (job st)) 0 (vatTakes (schedState (job st)) 0) = some (7, job st) ∧ findCmd (schedState (job st)) 7 1 ≠ none) ∧
    (∃ b : Job, 5 ∈ b.bind ∧ b.state = .queued ∧ currentVersion (schedState b) 5 = none ∧
      firstRanked (schedState b) 0 (vatTakes (schedState b) 0) = some (7, b)) ∧
    (∀ st ∈ [JobState.running, .switchingOut, .switchingIn], activeJob (schedState (job st)) 0 = some (7, job st)) ∧
    arraysStopped (schedState (job .switchingOut)) 0 = true ∧ ((schedState (job .running)).vat 0).deferral = none := by
  refine ⟨?_, ?_, ?_, ?_, ⟨{ job .queued with bind := [5] }, ?_⟩, ?_, ?_, ?_⟩ <;> decide +kernel

/-- An adaptation job whose parameters have passed or not, one suspended that its STOPPING vat still takes, and the two ends of a teardown. -/
theorem witness_jobKinds : (∃ s b, vatFree s 0 = true ∧ firstRanked s 0 (vatTakes s 0) = some (7, b) ∧ b.kind = 1 ∧ b.state = .queued ∧
      let p := dramRead s (vatDramBase s b.vat + b.paramAddr.toNat % 2 ^ 40) 64
      p.any (·.2) = false ∧ adaptBad s (p.map (·.1)) (vatDramBytes s b.vat) = true) ∧
    vatTakes (modVat 0 (fun v => { v with state := .stopping }) twoHearths) 0 (job .suspended) = true ∧
    teardownScrubbed (schedState (job .tearingDown)) (job .tearingDown) = true ∧
    teardownScrubbed (modHearth 3 (fun x => { x with scrubLeft := [0] }) (schedState (job .tearingDown))) (job .tearingDown) = false := by
  refine ⟨⟨schedState { job .queued with kind := 1 }, { job .queued with kind := 1 }, ?_⟩, ?_, ?_, ?_⟩ <;> decide +kernel

def saved3 : SavedHearth := { hearth := 3, written := 0, mem := [], poison := [], ctrs := [], hoops := [], ladles := [], cores := [], arrs := [] }
/-- A deferred pre-emptor that wants semaphore 0. -/
def deferredState : State :=
  modVat 0 (fun v => { v with deferral := some { preemptor := 8, since := 0 } })
    { schedState (job .running) with jobs := [(7, some (job .running)), (8, some { job .queued with semMask := 1 })] }

theorem witness_switches : NothingFetched (schedState (job .switchingOut)) ∧
    (∃ b : Job, b.state = .switchingIn ∧ b.saved = [saved3] ∧ activeJob (schedState b) 0 = some (7, b)) ∧
    (((deferredState.vat 0).deferral = some { preemptor := 8, since := 0 }) ∧ activeJob deferredState 0 = some (7, job .running) ∧ heldSems deferredState 7 = []) ∧
    (∃ i ∈ heldSems (setSem 0 (some 7) deferredState) 7, ∃ y, (setSem 0 (some 7) deferredState).job 8 = some y ∧ bit y.semMask i = true) :=
  ⟨fun _ => rfl, ⟨{ job .switchingIn with saved := [saved3] }, by decide +kernel⟩, by decide +kernel, 0, by decide +kernel, _, rfl, by decide +kernel⟩

theorem witness_kills : Serving (schedState (job .running)) ∧ lit.job 7 = none ∧ publishing (adaptJob .publishing) = true ∧
    (∀ st ∈ [JobState.queued, .suspended, .tearingDown, .running, .switchingOut, .switchingIn], (schedState (job st)).job 7 = some (job st) ∧ publishing (job st) = false) := by
  decide +kernel

def piece : CavePiece := { tensor := 0, stripe := 0, offset := 0, len := 16, hearth := 3, addr := 0, landed := false }
def caveEntry : CaveEntry := { model := 5, version := 9, state := .loading, pieces := [piece], spilled := [], bound := 0 }
def caveState : State := modVat 0 (fun v => { v with cave := [caveEntry] }) { twoHearths with versions := [version .current] }

theorem witness_cave : findVersion lit 5 9 = none ∧ (caveState.vat 0).cave.find? (fun e => decide (e.model = 5 ∧ e.version = 9)) = some caveEntry ∧
    findVersion caveState 5 9 = some (version .current) ∧ writeAccess caveState 3 0 .unchecked = .ok ∧ piece.addr % 0x20000 + piece.len ≤ 0x20000 ∧
    (∃ e : CaveEntry, e.state ≠ .loading) := ⟨by decide +kernel, by decide +kernel, by decide +kernel, by decide +kernel, by decide +kernel, { caveEntry with state := .resident }, by decide +kernel⟩


/-! ### Vats, DRAM -/

def vatIn (st : VatState) (s : State) : State := modVat 0 (fun v => { v with state := st }) s
def reloadIn (st : ReloadState) (kill : Bool) (s : State) : State := { s with reload := { Reload.reset with state := st, kill := kill } }
def lockedFuses : Fuses := { Fuses.shipped with locked := 1 }

theorem witness_vats : (∀ st ∈ [VatState.unformed, .running, .stopping, .stoppingPendingEnable, .stopped, .reloading, .holding],
      ((vatIn st lit).vat 0).state = st ∧ Serving (vatIn st lit)) ∧ NothingFetched (vatIn .stopped lit) ∧
    (Serving (vatRunning (jobState (job .running) [])) ∧ hasLive (vatRunning (jobState (job .running) [])) 0 = true) ∧ hasLive (vatIn .running lit) 0 = false ∧
    (∀ st ∈ [ReloadState.idle, .verifying, .waitingIdle, .quiescing, .applying], (reloadIn st false lit).reload.state = st ∧ Serving (reloadIn st false lit)) ∧
    NothingFetched (reloadIn .verifying false lit) ∧
    (∃ s : State, Serving s ∧ s.reload.state = .idle ∧ reloadBlocked s 0 = true) ∧
    (lit.reload.state = .idle ∧ reloadBlocked lit 0 = false ∧ bit lit.boot.fuses.locked 0 = false) ∧
    (∃ s : State, Serving s ∧ s.reload.state = .idle ∧ reloadBlocked s 0 = false ∧ bit s.boot.fuses.locked 0 = true) ∧
    (hasLive (reloadIn .verifying false lit) 0 = false ∧ ∀ k ∈ [false, true], hasLive (reloadIn .verifying k (jobState (job .running) [])) 0 = true ∧
      (reloadIn .verifying k (jobState (job .running) [])).jobs = [(7, some (job .running))] ∧ (job .running).adapt = none) ∧
    (liveJobs (reloadIn .quiescing false lit)).any (fun p => decide (p.2.vat = 0 ∧ p.2.state ≠ .queued)) = false ∧
    (liveJobs (reloadIn .quiescing true (jobState (job .running) []))).any (fun p => decide (p.2.vat = 0 ∧ p.2.state ≠ .queued)) = true ∧
    ((reloadIn .applying false lit).pcie.flrBusy = false ∧ NothingFetched (reloadIn .applying false lit)) :=
  by
  refine ⟨?_, fun _ => rfl, ?_, ?_, ?_, fun _ => rfl, ⟨modHearth 3 (fun x => { x with state := .removing }) twoHearths, ?_⟩, ?_,
    ⟨{ lit with boot := { Boot.reset with fuses := lockedFuses } }, ?_⟩, ?_, ?_, ?_, ?_, fun _ => rfl⟩ <;> decide +kernel

/-- The good image stands in the staging area of a reload, with or without a live job. -/
def staging (kill : Bool) (s : State) : State :=
  { reloadIn .verifying kill s with boot := keyed, channels := [], dram := cells stagingBase goodImage }

theorem goodImage_length : goodImage.length = 704 := by decide +kernel

theorem staging_bytes (kill : Bool) (s : State) : stagedBytes (staging kill s) = goodImage := by
  have hf : stagingBase + goodImage.length ≤ dramBytes := by rw [goodImage_length]; decide
  have hd : (staging kill s).dram = cells stagingBase goodImage := by simp only [staging]
  have hc : (staging kill s).channels = [] := by simp only [staging]
  have b := fun n (h : n ≤ goodImage.length) => bytes_of_cells (staging kill s) stagingBase n goodImage hd hc h hf
  have i : imgBytes (goodImage.take 64) = 704 := by decide +kernel
  have e : dramBytesAt (staging kill s) stagingBase 704 = goodImage := by
    rw [b 704 (Nat.le_of_eq goodImage_length.symm), ← goodImage_length, List.take_length]
  rw [stagedBytes, b 64 (by rw [goodImage_length]; decide), i]
  exact e

theorem witness_stagedImage : (∀ k ∈ [false, true], ∀ s ∈ [lit, jobState (job .running) []],
      imageCheck (staging k s).boot (staging k s).image.raw (stagedBytes (staging k s)) (some (staging k s).reload.region) = 0) ∧
    hasLive (staging false lit) 0 = false ∧ (∀ k ∈ [false, true], hasLive (staging k (jobState (job .running) [])) 0 = true) ∧
    imageCheck lit.boot lit.image.raw (stagedBytes (reloadIn .verifying false lit)) (some 0) ≠ 0 ∧
    regionSettled (reloadIn .applying false lit) Image.empty 0 = true ∧
    regionSettled (modBank 3 0 (fun b => { b with state := .scrubbing }) twoHearths) Image.empty 0 = false := by
  refine ⟨?_, ?_, ?_, ?_, ?_, ?_⟩
  case refine_1 =>
    intro k _ s hs
    rw [staging_bytes]
    simp only [List.mem_cons, List.not_mem_nil, or_false] at hs
    rcases hs with rfl | rfl <;> exact goodImage_passes.1
  all_goals decide +kernel

/-- Channel 0 is `k`. -/
def chanIs (k : Channel) : State := { lit with channels := [(0, k)] }
def online : Channel := { Channel.dflt with state := .online }
def window (s : State) : State := modDrams (fun d => { d with window := true }) s

theorem witness_channels : (∀ st ∈ [ChState.training, .online, .retraining, .fullRetrain, .selfRefresh, .failed], ∀ n ∈ [1, 2, 3], ∀ b ∈ [false, true],
      let s := chanIs { Channel.dflt with state := st, attempt := n, latched := b }
      (s.chan 0).state = st ∧ (s.chan 0).attempt = n ∧ (s.chan 0).latched = b ∧ Serving s) ∧
    (lit.drams.next = none ∧ (window lit).drams.window = true) ∧
    (∀ r ∈ [0, 1], (modDrams (fun d => { d with next := some r }) (chanIs online)).drams.next = some r ∧ (chanIs online).drams.window = false ∧ (chanIs online).now = 0) ∧
    ((window lit).drams.started + 160 ≤ { window lit with now := 160 }.now ∧ (window lit).now < (window lit).drams.started + 160) ∧
    (∀ d ∈ [false, true], ((window (chanIs { online with armed := d })).chan 0).armed = d) ∧
    lit.drams.hot = false ∧ (modDrams (fun d => { d with hot := true }) lit).drams.hot = true ∧
    (340 < (341 : BitVec 16).toInt ∧ (340 : BitVec 16).toInt ≤ 340 ∧ 328 < (329 : BitVec 16).toInt ∧ (328 : BitVec 16).toInt ≤ 328) := by decide +kernel

def dreq (p : Nat) (w : Bool) : DReq :=
  { id := 0, port := p, addr := 0, len := 4, write := w, rmw := false, readDone := false, hint := 0, bulk := false, came := 0, at_ := 0, data := [], beats := [],
    sawRetrain := false, sawRefresh := false, missed := false, patrol := false, found := [] }
/-- Channel 0 ONLINE with one queued read and the row `w` open in its bank. -/
def oneRead (w : Option Nat) : Channel := { online with reads := [dreq 0 false], banks := [(0, { DBank.dflt with row := w })] }
/-- The same with one queued write. -/
def oneWrite : Channel := { online with writes := [dreq 0 true], banks := [(0, { DBank.dflt with row := some 0 })] }
def landing : DFlight := { req := dreq 0 false, data := [(0, false)], col := 0, clean := [], bad := [] }
/-- A read is on its way back, at cycle `t`. -/
def flying (t : Nat) : State := { chanIs { online with flight := [landing] } with now := t }

theorem witness_requests : (chanOf (0 : BitVec 34).toNat = 0 ∧ ((chanIs online).chan 0).state ≠ .failed ∧ ((chanIs online).chan 0).router = [] ∧
      ((chanIs online).chan 0).reads.length < 64 ∧ ((chanIs online).chan 0).writes.length < 32 ∧ { online with reads := List.replicate 64 (dreq 0 false) }.reads.length = 64 ∧
      ((chanIs { online with state := .failed }).chan 0).state = .failed ∧ 0 < min (4 : Fin 129).val (128 - 0 % 128)) ∧
    ((lit.chan 0).state ≠ .online ∧ (window (chanIs online)).drams.window = true) ∧
    (∀ w ∈ [none, some 0, some 1], (chanIs (oneRead w)).drams.window = false ∧ ((oneRead w).bank (dbankOf (dreq 0 false).addr)).holder = none ∧
      ((oneRead w).bank (dbankOf (dreq 0 false).addr)).hits < 16 ∧
      timingOk (chanIs (oneRead w)) (oneRead w) (dreq 0 false) (nextCmd (oneRead w) (dreq 0 false)) = true ∧ fenceOk (chanIs (oneRead w)) (nextCmd (oneRead w) (dreq 0 false)) = true) ∧
    (nextCmd (oneRead none) (dreq 0 false) = .activate ∧ nextCmd (oneRead (some 1)) (dreq 0 false) = .precharge ∧ nextCmd (oneRead (some 0)) (dreq 0 false) = .readCol) ∧
    (nextCmd oneWrite (dreq 0 true) = .writeCol ∧ timingOk (chanIs oneWrite) oneWrite (dreq 0 true) .writeCol = true ∧ fenceOk (chanIs oneWrite) .writeCol = true) ∧
    timingOk lit { oneRead (some 0) with colAny := some 0 } (dreq 0 false) .readCol = false ∧
    (∃ s : State, s.chan 0 = oneRead none ∧ timingOk s (oneRead none) (dreq 0 false) .activate = true ∧ fenceOk s .activate = false) := by
  refine ⟨?_, ?_, ?_, ?_, ?_, ?_, ⟨modDrams (fun d => { d with next := some 32 }) (chanIs (oneRead none)), ?_⟩⟩ <;> decide +kernel

theorem witness_deliveries : (lit.chan 0).flight = [] ∧ (∀ t ∈ [19, 20, 28], ((flying t).chan 0).flight = [landing]) ∧ ((flying 28).chan 0).state ≠ .failed ∧
    ((flying 28).chan 0).winCorr < 64 ∧ ((chanIs online).chan 0).state ∈ [.online, .retraining, .fullRetrain] ∧
    ((lit.chan 0).bank 0).row = none ∧ (((chanIs { oneRead (some 0) with reads := [] }).chan 0).bank 0).row = some 0 ∧ Channel.requests { oneRead (some 0) with reads := [] } = [] ∧
    (∃ q ∈ (oneRead (some 0)).requests, dbankOf q.addr = 0 ∧ rowOf q.addr = 0) ∧
    (let b := ((chanIs (oneRead (some 0))).chan 0).bank 0
     after 32 b.act 33 = true ∧ after 32 b.read 6 = true ∧ after 32 b.wrEnd 16 = true ∧ b.used + 32 ≤ 32 ∧ 31 < b.used + 32) := by
  refine ⟨?_, ?_, ?_, ?_, ?_, ?_, ?_, ?_, ⟨dreq 0 false, ?_⟩, ?_⟩ <;> decide +kernel

/-! ### Streams -/

def class0 : ClassRec := { cls := 0, codecs := 1, bitDepth := 8, maxRefs := 1, maxWidth := 16, maxHeight := 16, maxLuma := 256, maxKbps := 1000, maxFps := 60, consumers := 0 }
def group0 : GroupRec := { group := 0, vat := 0, decoders := 1, scalers := 1, classes := 1, maxSessions := 2, floor := 0, dramBase := 16, dramUnits := 1 }
/-- Lit, with vat 0, group 0 and stream class 0. -/
def streams : State := { twoHearths with image := { Image.empty with regions := [{ vat0 with groups := [group0] }], classes := [class0] } }
def sesIs (x : Session) : State := modSes 0 (fun _ => x) streams
def fileCfg : Word := 0x1000000
/-- A RUNNING session 0 that takes access units from its hoop. -/
def fileSes : Session := { Session.dflt with state := .running, cfg := fileCfg, hoopSize := 65536 }
def au0 : Au := { pos := 0, padded := 64, len := 32, ts := 0, discontinuity := false, eos := false, order := 0, at_ := 0 }
def picAt (st : PicStage) (given : Nat) : Pic :=
  { au := au0, parse := noPicture, stage := st, handle := none, streamed := false, scaler := none, given := given, done := 0, cores := [], anyOk := false, concealed := false,
    poisoned := false, subst := false, broken := false }
def openable : State := cfgSet (vcdSes 0) fileCfg (cfgSet (vcdSes 0 + 0x18) 0x10000 streams)
def idleDec : Decoder := { Decoder.dflt with state := .idle }
def decIs (d : Decoder) (s : State) : State := modDec 0 (fun _ => d) s
def scJob (kind : ScKind) (started : Bool) : ScJob :=
  { kind := kind, group := 0, source := 0, ts := 0, pix := .nothing, geom := Geom.zero, concealed := false, poisoned := false, failed := false, estimated := false, crop := none, prog := [],
    started := started, slots := [], rows := [], rowPoison := [], credits := 0, queued := 0, complete := false, readyAt := 0, waitAt := none }
def sclIs (j : List ScJob) (st : CoreState) (s : State) : State := modScl 0 (fun c => { c with state := st, jobs := j }) s
def busyDec : Decoder := { idleDec with state := .busy, work := some (0, 0) }

theorem witness_sessions : (∀ st ∈ [SesState.closed, .running, .stopping, .stoppingPendingEnable, .faulted],
      ((sesIs { fileSes with state := st }).ses 0).state = st ∧ Serving (sesIs { fileSes with state := st }) ∧ ((sesIs { fileSes with state := st }).ses 0).pic = none) ∧
    ((openable.ses 0).state = .closed ∧ openCheck openable 0 = 0 ∧ openCheck lit 0 ≠ 0 ∧ (lit.ses 0).state = .closed) ∧
    (bits (lit.ses 0).cfg 25 24 ≠ 1 ∧ bits ((sesIs fileSes).ses 0).cfg 25 24 = 1) ∧
    ((1 : Word).toNat % 64 ≠ 0 ∧ fileSes.hoopSize < ((0x20000 : Word) - fileSes.head).toNat ∧ ((0 : Word) - fileSes.scan).toNat < 16 ∧ ((64 : Word) - fileSes.head).toNat ≤ fileSes.hoopSize) ∧
    (((64 : Word) - fileSes.scan).toNat = cdiv (16 + 32) 64 * 64 ∧ fieldAt (dramBytesAt { sesIs fileSes with dram := [(0x10000000, 32)] } 0x10000000 16) 0 4 = 32 ∧
      groupBase (sesIs fileSes) fileSes.group = 0x10000000 ∧ classOf (sesIs fileSes) fileSes.cls = some class0 ∧ 2 * 32 ≤ 375 * class0.maxKbps ∧ 1 ≤ 3 * class0.maxFps / 2 ∧ fileSes.windows = []) ∧
    ((lit.dec 0).state ≠ .idle ∧ splitWork (decIs idleDec streams) 0 = none ∧ nextSession (decIs idleDec streams) 0 = none) ∧
    splitWork (decIs idleDec (sesIs { fileSes with cfg := 0xB1000000, pic := some { picAt .decoding 1 with parse := { noPicture with units := [(0, 0), (0, 0)] } } })) 0 = some 0 ∧
    (nextSession (decIs idleDec (sesIs { fileSes with aus := [au0] })) 0 = some 0 ∧ splitWork (decIs idleDec (sesIs { fileSes with aus := [au0] })) 0 = none ∧
      ((sesIs { fileSes with aus := [au0] }).ses 0).pic = none ∧ spsCheck (sesIs { fileSes with aus := [au0] }) { fileSes with aus := [au0] } noPicture = 0 ∧
      noPicture.nonRef = false ∧ noPicture.refs = [] ∧ spsCheck (sesIs { fileSes with aus := [au0] }) { fileSes with aus := [au0] } { noPicture with sliceGroups := true } ≠ 0) ∧
    (let s := decIs idleDec (sesIs { fileSes with pic := some (picAt .granted 0) })
     splitWork s 0 = none ∧ nextSession s 0 = some 0 ∧ (s.ses 0).pic = some (picAt .granted 0)) ∧
    ((lit.dec 0).work = none ∧ ∀ p ∈ [picAt .needBuf 1, picAt .decoding 1], ((decIs busyDec (sesIs { fileSes with pic := some p })).dec 0).work = some (0, 0) ∧
      ((decIs busyDec (sesIs { fileSes with pic := some p })).ses 0).pic = some p ∧ p.scaler = none) ∧
    (picUnits fileSes (picAt .decoding 1) ≤ 0 + 1 ∧ 0 + 1 < picUnits { fileSes with cfg := 0xB1000000 } { picAt .decoding 1 with parse := { noPicture with units := [(0, 0), (0, 0)] } } ∧
      busyDec.leaving = false ∧ busyDec.state = .busy) ∧
    (∀ n ∈ [0, 1], streamJob (sclIs [{ scJob .streamed true with credits := n }] .busy lit) 0 0 au0.ts = some { scJob .streamed true with credits := n }) ∧
    (∀ n ∈ [0, 1], ((sclIs [{ scJob .streamed true with queued := n }] .busy lit).scl 0).jobs = [{ scJob .streamed true with queued := n }]) := by
  refine ⟨?_, ?_, ?_, ?_, ?_, ?_, ?_, ?_, ?_, ?_, ?_, ?_, ?_⟩ <;> decide +kernel

def params (codec mode qmax : Nat) : List Byte := toBytes (BitVec.ofNat 512 (codec + mode * 256 + qmax * 2 ^ 184)) 64
def encPic (tries : Nat) : EncPic := { handle := 0, ts := 0, idr := true, tries := tries, qp := 0, fallback := false }
def mediaReq (p : List Byte) (q : List EncPic) (c : Option Nat) : MediaReq :=
  { route := 0, reqId := 5, ses := 0, clip := true, state := .recording, time := 0, endTs := 0, dst := 0, dstBytes := 100, params := p, status := 0, pictures := 0, bytes := 0, firstTs := 0,
    lastTs := 0, t0 := 0, n := 0, cand := none, queue := q, core := c, f90 := 0 }
def encState (r : MediaReq) (st : CoreState) : State := modEnc 0 (fun x => { x with state := st }) (modMedia (fun m => { m with requests := [r] }) streams)

theorem witness_encoders : (Serving lit ∧ lit.media.requests = []) ∧
    (∃ s : State, Serving s ∧ s.media.requests = [mediaReq [] [encPic 0] none] ∧ (s.enc 0).state = .disabled ∧ ∀ f, f < 4 → f ≠ 0 → (s.enc f).state ≠ .idle) ∧
    (∀ t ∈ [0, 2], ∀ m ∈ [0, 1], ∀ q ∈ [0, 51], let r := mediaReq (params 0 m q) [encPic t] (some 0)
      (encState r .busy).media.requests = [r] ∧ encCodec r.params ≠ 2 ∧ encMode r.params = m ∧ encQpMax r.params = q ∧ r.bytes + 1 ≤ r.dstBytes ∧ ((encState r .busy).enc 0).state = .busy) ∧
    (∃ bs : List Byte, 0 < 720 * bs.length) ∧ (∃ bs : List Byte, 100 < 0 + bs.length) :=
  ⟨by decide +kernel, ⟨forEach (upTo 4) (fun f s => modEnc f (fun x => { x with state := .disabled }) s) (encState (mediaReq [] [encPic 0] none) .disabled), by decide +kernel⟩,
    by decide +kernel, ⟨[0], by decide⟩, List.replicate 101 0, by decide +kernel⟩

def grpIs (x : GroupIn) (s : State) : State := modGrp 0 (fun _ => x) s
/-- A program of one 16 × 16 output. -/
def oneOutput : State := cfgSet (sclBase + 0x2000) 1 (cfgSet (sclBase + 0x2000 + 0x2C) 0x00100010 lit)
def cropEntry (head : Nat) : State :=
  { sclIs [scJob .crop true, scJob .crop true, scJob .crop true] .busy (grpIs { GroupIn.dflt with cropOn := true, cropLog2 := 4 } streams) with dram := [(0x10000000 + 32 * head, 0), (0x10000004, 0xFF), (0x10000005, 0xFF), (0x10000006, 64)] }
def heldBuffer (use : Nat) : State :=
  modMedia (fun m => { m with holds := [(0, 0)] }) (cfgSet (bpmBase + 8) 0x100010 (modPool 0 (fun p => { p with buffers := [(0, { Buffer.dflt with gen := 1, state := .held, use := use })] }) streams))

theorem witness_scalers : (Serving lit ∧ bit (0 : Word) 31 = false ∧ bit (0x80000000 : Word) 31 = true ∧ progCheck (stagedProg lit) ≠ 0 ∧ Serving oneOutput ∧ progCheck (stagedProg oneOutput) = 0) ∧
    (∀ q, (lit.ses q).pic = none) ∧ (∀ st ∈ [CoreState.disabled, .idle, .busy, .stopping, .stoppingPendingEnable], ((sclIs [] st lit).scl 0).state = st) ∧
    (∀ on ∈ [false, true], ((grpIs { GroupIn.dflt with cropOn := on, cropLog2 := 4 } lit).grp 0).cropOn = on ∧ ((grpIs { GroupIn.dflt with cropOn := on, cropLog2 := 4 } lit).grp 0).cropLog2 = bits (4 : Word) 3 0) ∧
    (bits (3 : Word) 3 0 < 4 ∧ 12 < bits (13 : Word) 3 0 ∧ 4 ≤ bits (4 : Word) 3 0 ∧ bits (12 : Word) 3 0 ≤ 12) ∧
    ((lit.scl 0).jobs = [] ∧ (lit.grp (lit.scl 0).group).ready = [] ∧ (lit.scl 0).state ∉ [.idle, .busy]) ∧
    (∀ b ∈ [none, some 0], ∃ s : State, (s.scl 0).jobs = [] ∧ (s.scl 0).state = .idle ∧ (s.grp 0).ready = [scJob .whole false] ∧ bindingOf s 0 = b ∧ (s.scl 0).leaving = false ∧
      progOutputs (program s 0) = 0) ∧
    ((lit.scl 0).jobs[0]? = none ∧ ((sclIs [scJob .whole true] .busy lit).scl 0).jobs = [scJob .whole true] ∧ ((sclIs [scJob .whole true] .busy lit).scl 0).state = .busy ∧
      ((sclIs [scJob .whole false] .busy lit).scl 0).jobs[0]? = some (scJob .whole false)) ∧
    (olderJob ((sclIs [scJob .whole true] .busy lit).scl 0) 0 (scJob .whole true) = false ∧
      olderJob ((sclIs [scJob .whole true, scJob .whole true] .busy lit).scl 0) 1 (scJob .whole true) = true ∧
      ∀ f ∈ [false, true], ((sclIs [{ scJob .streamed true with complete := f }] .busy lit).scl 0).jobs[0]? = some { scJob .streamed true with complete := f }) ∧
    (fieldAt (dramBytesAt (cropEntry 0) 0x10000000 32) 0 4 = 0 ∧ 272 ≤ fieldAt (dramBytesAt (cropEntry 0) 0x10000000 32) 4 2 ∧ 64 ≤ fieldAt (dramBytesAt (cropEntry 0) 0x10000000 32) 6 1 ∧
      ((cropEntry 0).grp 0).cropOn = true ∧ ((cropEntry 0).scl 0).jobs.length = 3 ∧ groupBase (cropEntry 0) 0 = 0x10000000) ∧
    (((0 : Nat), (0 : DWord)) ∉ lit.media.holds ∧ ((0 : Nat), (0 : DWord)) ∈ (heldBuffer 2).media.holds) := by
  refine ⟨?_, fun _ => rfl, ?_, ?_, ?_, ?_, ?_, ?_, ?_, ?_, ?_⟩
  case refine_6 =>
    intro b hb
    simp only [List.mem_cons, List.not_mem_nil, or_false] at hb
    rcases hb with rfl | rfl
    · exact ⟨sclIs [] .idle (grpIs { GroupIn.dflt with ready := [scJob .whole false] } lit), by decide +kernel⟩
    · exact ⟨cfgSet (sclBase + 0x800) 0x80000000 (sclIs [] .idle (grpIs { GroupIn.dflt with ready := [scJob .whole false] } lit)), by decide +kernel⟩
  all_goals decide +kernel

theorem witness_holds : findHeld (modMedia (fun m => { m with holds := [(0, 0)] }) streams) 0 0 = none ∧ (∃ h, findHeld (heldBuffer 2) 0 0 = some h ∧ handleOk (heldBuffer 2) (handleGroup h) h = true ∧
    2 ≤ ((heldBuffer 2).buffer h).use) := ⟨by decide +kernel, 1, by decide +kernel⟩

/-! ### Sensors, buckets, requests, pools -/

def rxOn (s : State) : State := cfgSet snsBase 0x80000000 s
/-- Sensor 0 is `x`, its receiver enabled. -/
def snsIs (x : Sensor) : State := rxOn (modSns 0 (fun _ => x) streams)
def raw8 : Sensor := { Sensor.dflt with state := .running, cfg := 0x2A00, size := 0x00100010, frameCount := 2 }
def incoming (dropped : Bool) : Incoming := { slot := 0, number := 1, dropped := dropped, corrupt := false, embedded := none, lines := 0 }
def arriving (f : Incoming) : Sensor := { raw8 with incoming := some f }
def frame0 : Frame := { slot := 0, number := 0, ts := 0, estimated := false, corrupt := false, jobs := 1, hold := false }
/-- A sensor whose TS_MODE copies from source 1, whose history is `h`. -/
def copying (h : List (Half × DWord)) : State := modSns 1 (fun x => { x with history := h }) (snsIs { arriving (incoming false) with cfg := 0x40002A01 })

/-- The crop hold of group 0 off. -/
def noHold (s : State) : State := cfgSet (sclBase + 0x410) 0 s
def lastAt (l : DWord) (p : Nat) (e : Option (List Byte)) : Sensor :=
  { arriving { incoming false with embedded := e } with lastTs := some l, period := p }

theorem witness_receivers : rxEnabled lit 0 = false ∧ (rxEnabled (snsIs Sensor.dflt) 0 = true ∧ ((snsIs Sensor.dflt).sns 0).state ≠ .running) ∧
    (rxEnabled (snsIs raw8) 0 = true ∧ ((snsIs raw8).sns 0).state = .running ∧ ((snsIs raw8).sns 0).incoming = none) ∧
    (∀ d ∈ [false, true], ((snsIs (arriving (incoming d))).sns 0).incoming = some (incoming d) ∧ (incoming d).dropped = d ∧ ((snsIs (arriving (incoming d))).sns 0).state = .running) ∧
    (isPixelType (0x30 : BitVec 6).toNat = false ∧ (0x30 : BitVec 6) ≠ 0x12 ∧ isPixelType (0x2A : BitVec 6).toNat = true ∧ (0x2A : BitVec 6).toNat = raw8.dataType ∧ (0x2B : BitVec 6).toNat ≠ raw8.dataType ∧
      isPixelType (0x2B : BitVec 6).toNat = true ∧ lineBytes 0x2A raw8.width = 16 ∧ (incoming false).lines < raw8.height) ∧
    (∃ y ∈ ((snsIs { raw8 with frames := [frame0] }).sns 0).frames, y.slot = ((snsIs { raw8 with frames := [frame0] }).sns 0).nextSlot) ∧ (¬ ∃ y ∈ raw8.frames, y.slot = raw8.nextSlot) ∧
    (((snsIs (lastAt (BitVec.allOnes 64) 1 none)).sns 0).lastTs = some (BitVec.allOnes 64) ∧ (BitVec.allOnes 64 + BitVec.ofNat 64 1).toNat ≤ (BitVec.allOnes 64 : DWord).toNat) ∧
    (bits raw8.cfg 31 30 ≠ 1 ∧ ((noHold (snsIs raw8)).asm 256).waiting.length < 256 ∧ holdMs (noHold (snsIs raw8)) 0 = 0 ∧ portsPowered (noHold (snsIs raw8)) = true) ∧
    ((5 : DWord).toNat < ((5 : DWord) + BitVec.ofNat 64 1).toNat ∧ ((noHold (snsIs (lastAt 5 1 none))).sns 0).lastTs = some 5 ∧ ((noHold (snsIs (lastAt 5 1 none))).sns 0).incoming = some (incoming false) ∧
      (incoming false).embedded = none ∧ (incoming false).dropped = false) ∧
    (((noHold (snsIs { lastAt 5 1 (some []) with lastTs := none })).sns 0).incoming = some { incoming false with embedded := some [] } ∧
      ((noHold (snsIs { lastAt 5 1 (some []) with lastTs := none })).sns 0).lastTs = none) ∧
    (let s := noHold (copying [(1, 9)])
     bits (s.sns 0).cfg 31 30 = 1 ∧ (s.sns (bits (s.sns 0).cfg 3 0)).history = [((1 : Half), (9 : DWord))] ∧ (incoming false).number = 1 ∧ (s.sns 0).lastTs = none ∧ holdMs s 0 = 0) ∧
    (let s := noHold (copying [(3, 9)])
     bits (s.sns 0).cfg 31 30 = 1 ∧ (s.sns (bits (s.sns 0).cfg 3 0)).history = [((3 : Half), (9 : DWord))] ∧ (incoming false).number ≠ 3 ∧ (s.sns 0).lastTs = none ∧ holdMs s 0 = 0) ∧
    (bits ((copying []).sns 0).cfg 31 30 = 1 ∧ ((copying []).sns (bits ((copying []).sns 0).cfg 3 0)).history = []) := by
  refine ⟨?_, ?_, ?_, ?_, ?_, ⟨frame0, ?_⟩, ?_, ?_, ?_, ?_, ?_, ?_, ?_, ?_⟩ <;> decide +kernel

/-- Source 0 can be enabled: RAW8, 16 × 16, two frames. -/
def sensorReady (s : State) : State :=
  cfgSet (snsSrc 0 + 0x20) 1 (cfgSet (snsSrc 0 + 0x1C) 0x400 (cfgSet (snsSrc 0 + 0x18) 2 (cfgSet (snsSrc 0 + 0xC) 0x00100010 (cfgSet (snsSrc 0) 0x2A00 (rxOn s)))))
/-- Bucket 0 can be enabled: one slot of 256 bytes, two curds. -/
def bucketReady (s : State) : State := cfgSet (inpBkt 0 + 0x18) 2 (cfgSet (inpBkt 0 + 0xC) 256 (cfgSet (inpBkt 0) 0x100 s))
def bktIs (b : Bucket) : State := modBkt 0 (fun _ => b) streams
def oneSlot : Bucket := { Bucket.dflt with state := .running, cfg := 0x100, slotBytes := 256, ringCfg := 0x1002 }
def slotOf (written : Bool) : CurdSlot := { CurdSlot.blank with written := written }

/-- Block 4 of alignment set 0 is open, and bucket 0 has curd 4. -/
def openBlock : State := modSet 0 (fun z => { z with open_ := [{ seq := 4, first := 0, ts := 0 }] }) (bktIs { oneSlot with curds := [curd .filling] })

theorem witness_sensors : (∀ st ∈ [Run4.disabled, .running, .stopping, .stoppingPendingEnable], ((snsIs { raw8 with state := st }).sns 0).state = st ∧ Serving (snsIs { raw8 with state := st }) ∧
      ((bktIs { oneSlot with state := st }).bkt 0).state = st ∧ Serving (bktIs { oneSlot with state := st }) ∧ ((bktIs { oneSlot with state := st }).bkt 0).curds = []) ∧
    (sensorCheck (sensorReady streams) 0 = 0 ∧ sensorCheck lit 0 ≠ 0 ∧ (lit.sns 0).state = .disabled) ∧ (bucketCheck (bucketReady streams) 0 = 0 ∧ bucketCheck lit 0 ≠ 0 ∧ (lit.bkt 0).state = .disabled) ∧
    (sensorCheck (sensorReady (snsIs { raw8 with state := .stoppingPendingEnable })) 0 = 0 ∧ bucketCheck (bucketReady (bktIs { oneSlot with state := .stoppingPendingEnable })) 0 = 0) ∧
    (sensorCheck (snsIs { raw8 with state := .stoppingPendingEnable }) 0 ≠ 0 ∧ bucketCheck (bktIs { oneSlot with state := .stoppingPendingEnable }) 0 ≠ 0) ∧
    (((snsIs { raw8 with frames := [frame0] }).sns 0).frames ≠ [] ∧ ((snsIs (arriving (incoming false))).sns 0).incoming = some (incoming false) ∧ ((snsIs (arriving (incoming false))).sns 0).state = .running) ∧
    (∀ st ∈ [CurdState.filling, .closing, .ready, .taken], ((bktIs { oneSlot with curds := [curd st] }).bkt 0).curds = [curd st] ∧ ((bktIs { oneSlot with curds := [curd st] }).bkt 0).state = .running) ∧
    oneSlot.fillUs ≠ 0 ∧ (lit.bkt 0).fillUs = 0 ∧
    (∀ st ∈ [Run4.running, .stopping], ((bktIs { oneSlot with state := st, curds := [{ curd .closing with slots := [slotOf true] }] }).bkt 0).state = st ∧
      ((bktIs { oneSlot with state := st, curds := [{ curd .closing with slots := [slotOf true] }] }).bkt 0).curds = [{ curd .closing with slots := [slotOf true] }]) ∧
    (∀ q ∈ [slotOf true], q.written = true ∧ q.reserved = false) ∧ [slotOf true].length = oneSlot.slots ∧
    (∃ q ∈ [slotOf false], q.written = false ∨ q.reserved = true) ∧ (lit.alignSet 0).open_ = [] ∧
    ((openBlock.alignSet 0).open_ = [{ seq := 4, first := 0, ts := 0 }] ∧ (openBlock.alignSet 0).bucket = 0 ∧ (openBlock.bkt 0).curds = [curd .filling] ∧ (curd .filling).seq = 4) := by
  refine ⟨?_, ?_, ?_, ?_, ?_, ?_, ?_, ?_, ?_, ?_, ?_, ?_, ⟨slotOf false, ?_⟩, ?_, ?_⟩ <;> decide +kernel

def sps64 : Sps := { h265 := false, profile := .main, chroma := 1, frameMbsOnly := true, highTier := false, width := 64, height := 64, dispX := 0, dispY := 0, dispW := 64, dispH := 64, depth := 8, refs := 1, reorder := none }
/-- Session 0 RUNNING at 64 × 64, with a JPEG parameter block at offset 0 of its partition. -/
def jpegReady (s : State) : State :=
  { modSes 0 (fun x => { x with state := .running, cfg := fileCfg, sps := some sps64 }) s with
    dram := [(0x10000000, 2), (0x10000002, 64), (0x10000004, 64), (0x10000006, 1), (0x1000001C, 1), (0x1000001F, 4)] }
/-- A request for session 0 at time `t`, 1,024 bytes at offset 4,096. -/
def mediaCmd (t : Nat) : Entry64 := entry [(0, 0xE0), (4, 5), (16, t), (24, 2 ^ 64 - 1), (40, 4096), (48, 1024)]
def jpegReq (t : Nat) (clip : Bool) : Option MediaReq := (checkRequest 0 (mediaCmd t) clip (jpegReady streams)).toOption

theorem witness_requestChecks : (lit.store.length < 4096 ∧ lit.raised = []) ∧ (∀ c ∈ [false, true], (checkRequest 0 (mediaCmd 0) c lit).toOption = none ∧ (∃ st, checkRequest 0 (mediaCmd 0) c lit = .error st)) ∧
    (∀ t ∈ [0, 2 ^ 64 - 1], ∀ c ∈ [false, true], ∃ r, checkRequest 0 (mediaCmd t) c (jpegReady streams) = .ok r ∧ r.time = BitVec.ofNat 64 t ∧ r.ses = 0 ∧ findHeld (jpegReady streams) r.ses r.time = none) ∧
    (∃ h, findHeld (jpegReady (heldBuffer 2)) 0 0 = some h ∧ handleOk (jpegReady (heldBuffer 2)) (handleGroup h) h = true ∧ findReq (jpegReady (heldBuffer 2)) 0 5 = none) := by
  refine ⟨by decide +kernel, ?_, ?_, ⟨1, by decide +kernel⟩⟩
  · intro c hc
    simp only [List.mem_cons, List.not_mem_nil, or_false] at hc
    rcases hc with rfl | rfl <;> exact ⟨rfl, _, rfl⟩
  · intro t ht c hc
    simp only [List.mem_cons, List.not_mem_nil, or_false] at ht hc
    rcases ht with rfl | rfl <;> rcases hc with rfl | rfl <;> exact ⟨_, rfl, by decide +kernel⟩

def reqState (r : MediaReq) : State := modMedia (fun m => { m with requests := [r] }) streams
def clipOf (st : ReqState) (q : List EncPic) (core : Option Nat) : MediaReq := { mediaReq [] q core with state := st }
/-- A clip that records, with its candidate. -/
def candOf (endTs : DWord) : MediaReq := { clipOf .recording [] none with cand := some 1, t0 := 5, endTs := endTs }
def noIdleEnc (s : State) : State := forEach (upTo 4) (fun f s => modEnc f (fun x => { x with state := .busy }) s) s
def waitRec (fs : Option (List Entry32)) : WaitRec := { ts := 0, at_ := 0, claim := 0, concealed := false, poisoned := false, estimated := false, filled := fs, route := none }
/-- Source 0's assembler is `a`; queue pair 0 RUNNING. -/
def asmIs (a : AsmSource) : State := modAsm 0 (fun _ => a) (modQp 0 (fun x => { x with state := .running }) streams)

theorem witness_clips : (findReq lit 0 5 = none ∧ findReq (reqState (clipOf .finishing [] none)) 0 5 = some (clipOf .finishing [] none) ∧ (clipOf .finishing [] none).state = .finishing) ∧
    (∀ q ∈ [[], [encPic 0]], ∀ c ∈ [none, some 0], findReq (reqState (clipOf .recording q c)) 0 (mediaReqId (mediaCmd 0)) = some (clipOf .recording q c) ∧ (clipOf .recording q c).cand = none ∧
      (reqState (clipOf .recording q c)).store.length < 4096 ∧ (reqState (clipOf .recording q c)).raised = []) ∧
    ((candOf 100).cand = some 1 ∧ (candOf 100).clip = true ∧ clipTime (candOf 100) (candOf 100).n = 5 ∧ (candOf 0).endTs.toNat ≤ clipTime (candOf 0) 1 ∧
      clipTime (candOf 100) 1 < (candOf 100).endTs.toNat) := by decide +kernel

theorem witness_clipTimes : (∃ s : State, findReq s 0 5 = some (candOf 100) ∧ clipTime (candOf 100) 0 < (s.ses 0).lateTs ∧ handleOk s (handleGroup 1) 1 = true ∧ ∀ f, f < 4 → (s.enc f).state ≠ .idle) ∧
    (∃ s : State, findReq s 0 5 = some (candOf 100) ∧ (s.ses 0).lateTs ≤ clipTime (candOf 100) 0 ∧ (s.ses 0).state = .running) :=
  ⟨⟨noIdleEnc (modMedia (fun m => { m with requests := [candOf 100] }) (modSes 0 (fun x => { x with lateTs := 6 }) (heldBuffer 2))), by decide +kernel⟩,
    ⟨modMedia (fun m => { m with requests := [candOf 100] }) (jpegReady streams), by decide +kernel⟩⟩

/-- A filled record whose EMIT carried the route `o`, with two side records waiting behind it. -/
def recOf (o : Option Half) : WaitRec := { waitRec (some [0]) with route := o }
def recState (o : Option Half) : State := asmIs { AsmSource.dflt with waiting := [recOf o], sides := [(0, 0, [0]), (1, 0, [0])] }
/-- A side record is due, and the pictures `p` are known. -/
def sideState (p : List PostedRec) : State := asmIs { AsmSource.dflt with outbox := [(0, [0])], posted := p }
def known : PostedRec := { ts := 0, frame := 3, concealed := true, poisoned := false, estimated := false }
/-- Queue pair 0 DISABLED: a record or side record waits. -/
def stuck (a : AsmSource) : State := modAsm 0 (fun _ => a) lit

theorem witness_records : (lit.asm 0).outbox = [] ∧ nextRecord lit 0 = none ∧
    nextRecord (recState none) 0 = some (recOf none, [0], false) ∧ nextRecord (recState (some 0)) 0 = some (recOf (some 0), [0], false) ∧
    nextRecord (stuck { AsmSource.dflt with waiting := [recOf none] }) 0 = some (recOf none, [0], false) ∧ (recOf none).route.getD (lit.asm 0).route = 0 ∧ (recOf (some 0)).route.getD (lit.asm 0).route = 0 := by
  decide +kernel

theorem witness_recordRoom : (postRun (routeQp (recState none) 0) [finishHead 0 (recState none).now (recOf none) false 0] (recState none)).isSome = true ∧
    (postRun (routeQp (recState (some 0)) 0) [finishHead 0 (recState (some 0)).now (recOf (some 0)) false 0] (recState (some 0))).isSome = true ∧
    postRun (routeQp (stuck { AsmSource.dflt with waiting := [recOf none] }) 0) [finishHead 0 0 (recOf none) false 0] (stuck { AsmSource.dflt with waiting := [recOf none] }) = none := by
  refine ⟨?_, ?_, ?_⟩ <;> decide +kernel

theorem witness_sides : ((sideState []).asm 0).outbox = [(0, [0])] ∧ (postRun (routeQp (sideState []) 0) (finishSide [] [0]) (sideState [])).isSome = true ∧
    (postRun (routeQp (sideState [known]) 0) (finishSide [known] [0]) (sideState [known])).isSome = true ∧
    postRun (routeQp (stuck { AsmSource.dflt with outbox := [(0, [0])] }) 0) (finishSide [] [0]) (stuck { AsmSource.dflt with outbox := [(0, [0])] }) = none := by
  refine ⟨?_, ?_, ?_, ?_⟩ <;> decide +kernel

/-- Pool 0 with buffers `bs`, two buffers of class 0 laid out, session 0 RUNNING with picture `p`. -/
def poolIs (x : Pool) (p : Pic) : State := cfgSet (bpmBase + 8) 0x00200002 (modPool 0 (fun _ => x) (sesIs { fileSes with pic := some p }))
def runPool : Pool := { Pool.dflt with state := .running }
def heldBy (i : Nat) : Buffer := { Buffer.dflt with gen := 1, state := .held, ses := i, use := 1 }
def bothHeld : Pool := { runPool with buffers := [(0, heldBy 0), (1, heldBy 1)] }
/-- Sessions 0 and 1 each hold a buffer and wait for another. -/
def deadlocked : State :=
  modSes 1 (fun _ => { fileSes with pic := some (picAt .waitBuf 0) })
    (poolIs { bothHeld with waits := [{ ses := 0, since := 0 }, { ses := 1, since := 0 }], streak := [(0, 20), (1, 20)] } (picAt .waitBuf 0))

theorem witness_pools : (∀ st ∈ [Run4.disabled, .running, .stopping, .stoppingPendingEnable], Serving (poolIs { runPool with state := st } (picAt .needBuf 1)) ∧
      ((poolIs { runPool with state := st } (picAt .needBuf 1)).pool 0).state = st ∧ ((poolIs { runPool with state := st } (picAt .needBuf 1)).pool 0).waits = []) ∧
    (poolCheck (poolIs Pool.dflt (picAt .needBuf 1)) 0 = 0 ∧ poolCheck lit 0 ≠ 0 ∧ poolEmpty runPool = true ∧ poolEmpty bothHeld = false) ∧
    ((lit.ses 0).pic = none ∧ (picAt .decoding 1).stage ≠ .needBuf) ∧
    (let s := poolIs runPool (picAt .needBuf 1)
     (s.ses 0).pic = some (picAt .needBuf 1) ∧ (picAt .needBuf 1).stage = .needBuf ∧ underQuota s 0 (sesUse s 0) = true ∧ grantable s 0 = true ∧ (allocate 0 s).isSome = true) ∧
    (let s := poolIs bothHeld (picAt .needBuf 1)
     sizeClass s 0 ≠ none ∧ underQuota s 0 (sesUse s 0) = true ∧ grantable s 0 = false ∧ claimCore s 0 = none) ∧
    (sizeClass (cfgSet (bpmBase + 8) 0 (poolIs runPool (picAt .needBuf 1))) 0 = none ∧ (picAt .needBuf 1).au.eos = false ∧ (picAt .needBuf 1).handle = none) ∧
    (let s := cfgSet (bpmBase + 0x1000) 0 (poolIs runPool (picAt .needBuf 1))
     sizeClass s 0 ≠ none ∧ underQuota s 0 (sesUse s 0) = false) ∧
    (handleOk lit 0 1 = false ∧ handleOk (poolIs bothHeld (picAt .needBuf 1)) 0 1 = true) ∧
    (let b := (poolIs bothHeld (picAt .needBuf 1)).buffer 1
     (Buffer.change .useDown b).use = 0 ∧ (Buffer.change .useUp b).use = 2 ∧ b.state = .held ∧ b.ref = 0 ∧ b.out = false) := by decide +kernel

theorem witness_deadlock : (∀ j, (lit.pool j).waits = []) ∧ (deadlocked.pool 0).waits = [{ ses := 0, since := 0 }, { ses := 1, since := 0 }] ∧ (∀ j, j ≠ 0 → (deadlocked.pool j).waits = []) ∧
    (∀ z ∈ (deadlocked.pool 0).waits, sizeClass deadlocked z.ses = some 0 ∧ sesFloor deadlocked z.ses < sesUse deadlocked z.ses ∧ 20 ≤ Table.get 0 (deadlocked.pool 0).streak z.ses) ∧
    (deadlocked.ses 1).pic = some (picAt .waitBuf 0) :=
  ⟨fun _ => rfl, by decide +kernel, by intro j h; cases j with | zero => exact absurd rfl h | succ n => rfl, by decide +kernel, by decide +kernel⟩

/-! ### Host queues, endpoint, network -/

def qpIs (x : Qp) : State := modQp 0 (fun _ => x) lit
def runQp : Qp := { Qp.dflt with state := .running }
def tag0 (reissue quarantined : Bool) : Tag := { qp := 0, pos := 0, count := 1, reissue := reissue, quarantined := quarantined }
def tagIs (k : Tag) (x : Qp) : State := setTag 5 (some k) (qpIs x)
def control0 (s : State) : State := cfgSet (ccOff 0) 0x80000000 s
def stored (x : Qp) : State := { qpIs x with store := [{ qp := 0, cls := .kept, entry := 0 }] }

theorem witness_queues : (∀ st ∈ [Run4.disabled, .running, .stopping, .stoppingPendingEnable], Serving (qpIs { runQp with state := st }) ∧ ((qpIs { runQp with state := st }).qp 0).state = st) ∧
    (qpDest (qpIs runQp) 0 = none ∧ qpDest (control0 (qpIs runQp)) 0 ≠ none) ∧ (seqDist 16 runQp.cmdHead ≤ runQp.cmdEntries ∧ runQp.cmdEntries < seqDist 17 runQp.cmdHead) ∧
    (seqDist 0 runQp.rspHead ≤ seqDist runQp.rspTail runQp.rspHead ∧ seqDist runQp.rspTail runQp.rspHead < seqDist 1 runQp.rspHead) ∧
    (qpCheck lit 0 = 0 ∧ qpDest lit 0 = none ∧ qpCheck (cfgSet (qpOff 0 + 0x10) 13 lit) 0 ≠ 0) ∧
    ((∀ j ∈ liveJobs lit, j.2.qp ≠ 0) ∧ (∀ r ∈ lit.media.requests, routeQp lit r.route ≠ 0)) ∧ (qpStopped lit 0 = true ∧ qpStopped (jobState (job .running) []) 0 = false) ∧
    (fetchCount (qpIs runQp) 0 = 0 ∧ 0 < fetchCount (qpIs { runQp with cmdTail := 1 }) 0 ∧ freeTag (qpIs { runQp with cmdTail := 1 }) = some 0 ∧ outstanding (qpIs { runQp with cmdTail := 1 }) < 512 ∧ readCan lit = true) ∧
    (∀ st ∈ [Run4.stopping, .stoppingPendingEnable], qpStopped (qpIs { runQp with state := st }) 0 = true ∧ ((qpIs { runQp with state := st }).qp 0).state = st ∧
      qpCheck (qpIs { runQp with state := st }) 0 = 0 ∧ qpDest (qpIs { runQp with state := st }) 0 = none ∧ qpCheck (cfgSet (qpOff 0 + 0x10) 13 (qpIs { runQp with state := st })) 0 ≠ 0) ∧
    (∀ b ∈ [false, true], let s := modDest 0 (fun d => { d with stalled := b, flow := { d.flow with limit := 4 } }) (control0 (stored runQp))
      qpDest s 0 = some 0 ∧ ccRoom s 0 = (!b) ∧ s.raised = []) := by
  refine ⟨?_, ?_, ?_, ?_, ?_, ?_, ?_, ?_, ?_, ?_⟩ <;> decide +kernel

theorem witness_tags : tagOf lit 5 = none ∧ (∀ r ∈ [false, true], ∀ q ∈ [false, true], tagOf (tagIs (tag0 r q) runQp) 5 = some (tag0 r q) ∧ ((tagIs (tag0 r q) runQp).qp 0).state = .running ∧
      (tagIs (tag0 r q) runQp).store.length < 4096 ∧ (tagIs (tag0 r q) runQp).raised = []) ∧ ((tagIs (tag0 false false) Qp.dflt).qp 0).state ≠ .running ∧
    freeTag (tagIs (tag0 false false) runQp) = some 0 ∧ outstanding (setTag 5 (some (tag0 false true)) (tagIs (tag0 false false) runQp)) < 512 ∧
    (lit.store = [] ∧ (stored runQp).store.find? (fun y => y.qp = 0) = some { qp := 0, cls := .kept, entry := 0 }) ∧ (ringRoom (stored runQp) 0 1 = true ∧ ringRoom (stored Qp.dflt) 0 1 = false ∧ (stored runQp).raised = []) ∧
    (max 1 (bits (cfgGet (stored runQp) (qpOff 0 + 0x2C)) 31 16) ≤ runQp.posted + 1) ∧
    (let s := cfgSet (qpOff 0 + 0x2C) 0x30001 (stored { runQp with posted := 1 })
     let m := cfgGet s (qpOff 0 + 0x2C)
     (s.qp 0).posted + 1 < max 1 (bits m 31 16) ∧ bits m 15 0 ≠ 0 ∧ (s.qp 0).posted ≠ 0 ∧ s.now < (s.qp 0).postedAt + 1000 * bits m 15 0 ∧ qpDest s 0 = none ∧ ringRoom s 0 1 = true) ∧
    ((lit.qp 0).posted = 0 ∧ 0 < ((qpIs { runQp with posted := 1 }).qp 0).posted ∧ lit.pcie.msixOn = false) ∧
    (∀ m ∈ [false, true], (let s := modPcie (fun p => { p with msixOn := true, msixMask := m }) (cfgSet (msixOff 0 + 12) 0 (qpIs { runQp with posted := 1 }))
     s.pcie.msixOn = true ∧ msixMasked s 0 = m)) := by decide +kernel

def winIs (w : Window) : State := modPcie (fun p => { p with windows := [(0, w)] }) lit
def openWindow : Window := { base := 0x10000000, cfg := 0xE0000001 }

theorem witness_endpoint : (Serving lit ∧ ∀ i, i < 8 → bit (0xFF : Byte) i = true → winDetail (staged lit i) = 0) ∧
    (Serving (cfgSet (winOff 0 + 8) 0x80000000 lit) ∧ winDetail (staged (cfgSet (winOff 0 + 8) 0x80000000 lit) 0) ≠ 0) ∧
    (memServed State.reset = false ∧ memServed lit = true ∧ winMap lit 0 4 false = none ∧ winMap lit 0 4 true = none) ∧
    (winMap (winIs openWindow) 0 4 false = some 0x10000000 ∧ winMap (winIs openWindow) 0 4 true = some 0x10000000 ∧ (dramRead (winIs openWindow) 0x10000000 4).any (·.2) = false ∧
      (dramRead { winIs openWindow with dramPoison := [(0x800000, true)] } 0x10000000 4).any (·.2) = true ∧ 0x10000000 + 4 ≤ dramBytes) ∧
    (∀ c, ((winIs openWindow).chan c).state ≠ .failed) ∧ Table.get 0 lit.recorder.spent 0x0A04 < 8 ∧ (State.reset.pcie.notReady = true ∧ lit.pcie.notReady = false) ∧
    ((∃ x, configValue lit .ids = some x) ∧ ∃ f, configValue lit f = none) ∧ ((2 : Word).toNat ≤ 2 ∧ (5 : Word).toNat ≤ 5 ∧ bit (0x8000 : Word) 15 = true ∧ lit.pcie.pba = 0) ∧
    ((modPcie (fun p => { p with dlActive := true }) lit).pcie.dlActive = true ∧ lit.pcie.dlActive = false) :=
  ⟨by decide +kernel, by decide +kernel, by decide +kernel, by decide +kernel, by intro c; simp [State.chan, winIs, modPcie, lit, State.reset, Table.get, Channel.dflt], by decide +kernel, by decide +kernel,
    ⟨⟨_, rfl⟩, .other 0, by decide +kernel⟩, by decide +kernel, by decide +kernel⟩

def portIs (x : EthPort) (up : Bool) : State := modLink 0 (fun l => { l with up := up }) (modPort 0 (fun _ => x) streams)
def runPort : EthPort := { EthPort.dflt with state := .running }
/-- Link 0 runs at address 10.0.0.1, with peer 10.0.0.2. -/
def linked : State := cfgSet (linkBase 0 + 0x10) 0x0A000001 (portIs runPort true)
def own : List Byte := [10, 0, 0, 1]
def peer : List Byte := [10, 0, 0, 2]
def datagram (type chan : Nat) : List Byte := [0x4A, 0x4E, 1, BitVec.ofNat 8 type, 0, 0, 0, 0, 0, 0, BitVec.ofNat 8 chan] ++ List.replicate 21 0
def controlled : State := cfgSet (ccOff 0 + 4) 0x0A000002 (cfgSet (ccOff 0) 0x80000007 (cfgSet (ethBase + 0x3000) 4000 linked))
def memberIs (x : Member) (s : State) : State := modMember 1 (fun _ => x) s
def joinOn (s : State) : State := modEther (fun e => { e with join := .running, joinCfg := 0x1000 }) s
def peer1 : Member := { Member.dflt with state := .up, cfg := 0x80000000 }
def joined : State := cfgSet (peerOff 1 + 4) 0x0A000002 (cfgSet joinOff 5000 (joinOn (memberIs peer1 (cfgSet (ethBase + 0x3000) 4000 linked))))

theorem witness_links : (∀ st ∈ [Run4.disabled, .running, .stopping, .stoppingPendingEnable], Serving (portIs { runPort with state := st } false) ∧ ((portIs { runPort with state := st } false).port 0).state = st) ∧
    (bits (cfgGet lit (portOff 0)) 19 18 ≠ 3 ∧ bits (cfgGet (cfgSet (portOff 0) 0xC0000 lit) (portOff 0)) 19 18 = 3) ∧
    (((portIs runPort true).link (4 * 0 + 0)).up = true ∧ ∀ j, j < 4 → (lit.link (4 * 0 + j)).up = false) ∧
    (linkInMode (portIs runPort false) 0 = true ∧ ((portIs runPort false).link 0).up = false ∧ ((portIs runPort false).port (0 / 4)).state = .running ∧ linkInMode (portIs runPort false) 1 = false) ∧
    Table.get 0 lit.recorder.spent 0x0B01 < 8 ∧ (linkRuns lit 0 = false ∧ linkRuns linked 0 = true) ∧ (ownAddr linked 0 own = true ∧ ownAddr linked 0 peer = false) ∧
    ((4000 : Half).toNat = bits (cfgGet controlled (ethBase + 0x3000)) 15 0 ∧ destFrom controlled 0 peer 8 = none ∧ destFrom controlled 0 peer 7 = some 0 ∧ linkRuns controlled 0 = true ∧ ownAddr controlled 0 own = true) ∧
    (headerOk [] = false ∧ headerOk (datagram 1 0) = true ∧ byteAt (datagram 1 0) 10 = 0 ∧ byteAt (datagram 1 0) 3 = 1 ∧ byteAt (datagram 1 2) 10 ≠ 0) ∧
    ((5000 : Half).toNat ≠ bits (cfgGet joined (ethBase + 0x3000)) 15 0 ∧ (5000 : Half).toNat = bits (cfgGet joined joinOff) 15 0 ∧ memberFrom joined 0 own = none ∧ memberFrom joined 0 peer = some 1 ∧
      joined.ether.join = .running ∧ linkRuns joined 0 = true ∧ ownAddr joined 0 own = true) ∧
    ((portIs { runPort with state := .stoppingPendingEnable } false).link (4 * 0 + 3)).up = false ∧
    (∀ t ∈ [3, 5, 2], headerOk (datagram t 1) = true ∧ byteAt (datagram t 1) 3 = BitVec.ofNat 8 t ∧ byteAt (datagram t 1) 10 = 1) := by decide +kernel

def rtpIs (r : Rtp) (s : State) : State := modRtp 0 (fun _ => r) (modSes 0 (fun x => { x with state := .running }) s)
/-- A session on link 0, port 6000. -/
def rtp0 : Rtp := { Rtp.dflt with cfg := 0x00601770 }
def pkt (n : Nat) : RtpPkt := { seq := n, ts := 0, marker := false, payload := [1] }
def packet (n : Nat) : RtpIn := { version := 2, pt := 96, seq := BitVec.ofNat 16 n, ts := 0, marker := false, ssrc := 9, payload := [1] }
def gapOf (r : Rtp) (k : RtpIn) : Nat := (k.seq - BitVec.ofNat 16 (r.next.getD k.seq.toNat)).toNat

theorem witness_rtp : (rtpSessions linked 0 6000 = [] ∧ rtpSessions linked 0 (6000 - 1) = [] ∧ rtpSessions (rtpIs rtp0 linked) 0 6000 = [0] ∧ (6000 : Half).toNat ≠ bits (cfgGet linked (ethBase + 0x3000)) 15 0 ∧
      (6000 : Half).toNat ≠ bits (cfgGet linked joinOff) 15 0 ∧ (parseRtp (0x80 :: List.replicate 12 0)).isSome = true) ∧
    (rtpLive lit 0 = false ∧ rtpLive (rtpIs rtp0 linked) 0 = true ∧ ((rtpIs rtp0 linked).rtp 0) = rtp0) ∧ (rtp0.matches 0 96 9 = false ∧ rtp0.matches (packet 0).version (packet 0).pt (packet 0).ssrc = true) ∧
    (2 ^ 15 ≤ gapOf { rtp0 with next := some 1 } (packet 0) ∧ 0 < gapOf { rtp0 with next := some 1 } (packet 3) ∧ gapOf { rtp0 with next := some 1 } (packet 3) < 2 ^ 15 ∧ rtp0.held.length < 64 ∧
      gapOf { rtp0 with next := some 1 } (packet 1) = 0 ∧ (∃ q ∈ [pkt 3], q.seq = 1 + gapOf { rtp0 with next := some 1 } (packet 3)) ∧ ∀ q ∈ [pkt 4], q.seq ≠ 1 + gapOf { rtp0 with next := some 1 } (packet 3)) ∧
    (rtp0.held = [] ∧ rtp0.auTs = none ∧ (packet 1).marker = false ∧ (((rtpIs rtp0 linked).ses 0)).h265 = false ∧ 1 ≤ (byteAt (packet 1).payload 0).toNat % 32 ∧ (byteAt (packet 1).payload 0).toNat % 32 ≤ 23) ∧
    ({ rtp0 with held := [pkt 3], next := some 1 }.held = [pkt 3] ∧ (pkt 3).marker = false) ∧
    ((if { rtp0 with ssrcReq := 9 }.ssrcReq ≠ 0 then some { rtp0 with ssrcReq := 9 }.ssrcReq else rtp0.ssrc) = some (9 : Word) ∧ (if rtp0.ssrcReq ≠ 0 then some rtp0.ssrcReq else rtp0.ssrc) ≠ some (9 : Word)) ∧
    (∀ n ∈ [0, 1, 2, 3, 4], ((rtpIs { rtp0 with rtsp := n } linked).rtp 0).rtsp = n ∧ rtpLive (rtpIs { rtp0 with rtsp := n } linked) 0 = true) ∧
    (bits rtp0.cfg 29 27 = 0 ∧ linkRuns (rtpIs rtp0 linked) 0 = true ∧ portsPowered (rtpIs rtp0 linked) = true ∧ rtpLive linked 0 = false ∧ bits (linked.rtp 0).cfg 29 27 = 0) := by
  refine ⟨?_, ?_, ?_, ⟨?_, ?_, ?_, ?_, ?_, ⟨pkt 3, ?_⟩, ?_⟩, ?_, ?_, ?_, ?_, ?_⟩ <;> decide +kernel

def destIs (x : Dest) (s : State) : State := modDest 0 (fun _ => x) (control0 s)
def frame1 : TxFrame := { seq := 0, more := false, payload := [], sentAt := 0 }
def flow1 : Flow := { Flow.dflt with next := 1, unacked := [frame1] }

def destFlow (f : Flow) : State := destIs { Dest.dflt with flow := f } linked
def memberState (st : MemberState) : State := joinOn (memberIs { peer1 with state := st } linked)
def helloOf (id : Word) : HelloIn := { joinId := id, src := 1, epoch := 7, members := 1, glbId := glbId, image := 0 }
/-- A STEPPING adaptation whose lead is member `n`. -/
def joinedJob (n : Nat) : State :=
  jobState { job .running with adapt := some { state := .publishing, params := [0, 0, 0, 0, 0, 0, 0, BitVec.ofNat 8 n], steps := 0, tensors := [], acts := [] } } []

theorem witness_flows : (∀ v, flowLive lit (.control 0) v = false) ∧ (flowLive (destFlow Flow.dflt) (.control 0) 0 = true ∧ flowLink (destFlow Flow.dflt) (.control 0) = some 0 ∧ linkRuns (destFlow Flow.dflt) 0 = true ∧
      ((destFlow Flow.dflt).flow (.control 0)).queue = [] ∧ ((destFlow Flow.dflt).flow (.control 0)).rx = [] ∧ flowUp (destFlow Flow.dflt) (.control 0) = true ∧ portsPowered (destFlow Flow.dflt) = true) ∧
    (flowLink (destIs Dest.dflt lit) (.control 0) = some 0 ∧ linkRuns (destIs Dest.dflt lit) 0 = false ∧ flowUp (destIs Dest.dflt lit) (.control 0) = false) ∧
    (((destFlow Flow.dflt).qp (destQp (destFlow Flow.dflt) 0)).state ≠ .running ∧ ((destFlow Flow.dflt).flow (.control 0)).rx.length < flowBuffers (.control 0) ∧
      flowBuffers (.control 0) ≤ ((destFlow { Flow.dflt with rx := List.replicate 4 [] }).flow (.control 0)).rx.length) ∧
    (((destFlow Flow.dflt).flow (.control 0)).accepted < 7 ∧ 7 ≤ ((destFlow { Flow.dflt with accepted := 7 }).flow (.control 0)).accepted ∧ flowUp (destFlow { Flow.dflt with accepted := 7 }) (.control 0) = true) ∧
    ((1 : Word) ≠ Flow.dflt.expected ∧ seqDist 1 Flow.dflt.expected < 2 ^ 31 ∧ 2 ^ 31 ≤ seqDist 0xFFFFFFFF Flow.dflt.expected) ∧
    ((destFlow flow1).flow (.control 0) = flow1 ∧ seqDist 1 flow1.oldest ≤ flow1.unacked.length ∧ flow1.grown + seqDist 1 flow1.oldest < flow1.w ∧ { flow1 with w := 1 }.w ≤ flow1.grown + seqDist 1 flow1.oldest ∧ flow1.cutAt = none ∧
      flow1.unacked ≠ [] ∧ ((destFlow flow1).dest 0).stalled = false) ∧
    (∀ y ∈ [false, true], ((destIs { Dest.dflt with flow := flow1, stalled := y } linked).dest 0).stalled = y ∧ destOn (destIs { Dest.dflt with flow := flow1, stalled := y } linked) 0 = true ∧
      flowUp (destIs { Dest.dflt with flow := flow1, stalled := y } linked) (.control 0) = true) ∧ destOn lit 0 = false ∧
    (∀ e ∈ [Run4.disabled, .running, .stopping, .stoppingPendingEnable], (modEther (fun x => { x with join := e }) lit).ether.join = e ∧ Serving (modEther (fun x => { x with join := e }) lit)) ∧
    (∀ st ∈ [MemberState.down, .probing, .refused, .up, .lost], let s := memberState st
      s.ether.join = .running ∧ memberOn s 1 = true ∧ (s.member 1).state = st ∧ liveJobs s = [] ∧ linkRuns s (bits (s.member 1).cfg 29 27) = true ∧ helloReason s 1 (helloOf 0) = 0 ∧ helloReason s 1 (helloOf 1) ≠ 0 ∧
        (helloOf 0).epoch ≠ (s.member 1).epoch) ∧
    ((memberIs peer1 linked).ether.join ≠ .running ∧ linkRuns (memberIs peer1 linked) (bits ((memberIs peer1 linked).member 1).cfg 29 27) = true) ∧
    (linkRuns lit 0 = false ∧ memberOn lit 0 = false ∧ (lit.member 0).state ≠ .up ∧ liveJobs lit = []) := by
  refine ⟨fun _ => rfl, ?_, ?_, ?_, ?_, ?_, ?_, ?_, ?_, ?_, ?_, ?_, ?_⟩ <;> decide +kernel

theorem witness_join : (∀ q, (lit.member q).state ≠ .up) ∧ ∀ n ∈ [0, 0xFF], ∃ a : Adapt, a.lead = n ∧ (∃ j ∈ liveJobs (joinedJob n), j.2.adapt = some a) ∧
    ∀ st ∈ [Run4.stopping, .stoppingPendingEnable], (modEther (fun x => { x with join := st }) (joinedJob n)).ether.join = st := by
  refine ⟨by intro q; simp [State.member, lit, State.reset, Ether.reset, Table.get, Member.dflt], ?_⟩
  intro n hn
  refine ⟨{ state := .publishing, params := [0, 0, 0, 0, 0, 0, 0, BitVec.ofNat 8 n], steps := 0, tensors := [], acts := [] }, ?_, ⟨(7, { job .running with adapt := some { state := .publishing, params := [0, 0, 0, 0, 0, 0, 0, BitVec.ofNat 8 n], steps := 0, tensors := [], acts := [] } }), ?_, rfl⟩, ?_⟩ <;>
    (simp only [List.mem_cons, List.not_mem_nil, or_false] at hn; rcases hn with rfl | rfl <;> decide +kernel)

/-! ### Recorder, hangs, start, updates, power, sideband -/

def recIs (r : Recorder) : State := { lit with recorder := r }
/-- One record waits for its flush. -/
def oneRec : Recorder := { Recorder.reset with seqNext := 1, ckptDue := false }
def copy0 : SootCopy := { soot := {}, opSeconds := 0, powerCycles := 0 }

theorem witness_recorder : Recorder.reset.seqNext = Recorder.reset.seqFlushed ∧ oneRec.seqNext ≠ oneRec.seqFlushed ∧ (flashIdle oneRec = true ∧ oneRec.seqFlushed.toNat % 131072 / 2048 ∉ oneRec.eraseAgain) ∧
    flashIdle { oneRec with erasing := some 3 } = false ∧ (oneRec.lostSince = 0 ∧ { oneRec with lostSince := 2 }.lostSince ≠ 0) ∧
    (∀ up ∈ [(1 : Word), 2048], let r := { oneRec with seqNext := 2048, seqFlushed := (if up = 1 then 0 else 2047), flushing := some up }
      r.flushing = some up ∧ r.flushDue = false ∧ r.ckptDue = false ∧ r.eraseAgain = [] ∧ seqDist up r.seqFlushed ≤ 2048 - r.seqFlushed.toNat % 2048 ∧ r.erasing = none ∧ r.checkpoint = none ∧ r.pfail = false) ∧
    (seqDist { oneRec with seqNext := 2048 }.seqNext 2048 < 64 ∧ seqDist oneRec.seqNext 1 < 64 ∧ (1 : Word).toNat % 2048 ≠ 0 ∧ (2048 : Word).toNat % 2048 = 0 ∧ seqDist 2048 2047 ≠ 0) ∧
    ((recIs { oneRec with erasing := some 3 }).recorder.erasing = some 3 ∧ (recIs { oneRec with checkpoint := some (0, copy0) }).recorder.checkpoint = some (0, copy0)) ∧ Table.wf 0 oneRec.spent = true ∧
    (Serving (recIs { oneRec with loading := true }) ∧ lit.recorder.loading = false) ∧ ((inPower .cold).power.state = .cold ∧ lit.power.state ≠ .cold) ∧ Table.get 0 lit.recorder.spent 0x0303 < 8 := by
  refine ⟨?_, ?_, ?_, ?_, ?_, fun up h => ?_, ?_, ?_, ?_, ?_, ?_, ?_⟩
  case refine_6 =>
    simp only [List.mem_cons, List.not_mem_nil, or_false] at h
    rcases h with rfl | rfl <;> decide +kernel
  all_goals decide +kernel

theorem witness_hangs : Table.get 0 lit.recorder.spent 0x0801 < 8 ∧ (lit.dec 0).work = none ∧ (∀ z ∈ (lit.scl 0).jobs, z.started = false) ∧ (∀ z ∈ lit.media.requests, z.core ≠ some 0) ∧
    (∀ p ∈ [picAt .needBuf 1, picAt .decoding 1], ((decIs busyDec (sesIs { fileSes with pic := some p })).dec 0).work = some (0, 0) ∧ ((decIs busyDec (sesIs { fileSes with pic := some p })).ses 0).pic = some p) ∧
    (let q := { picAt .decoding 1 with parse := { noPicture with units := [(0, 0), (0, 0)] } }
     let s := decIs busyDec (sesIs { fileSes with cfg := 0xB1000000, pic := some q })
     q.done + 1 < picUnits (s.ses 0) q ∧ (s.dec 0).leaving = false ∧ (s.dec 0).state = .busy ∧ (s.ses 0).state = .running ∧ (s.ses 0).pic = some q) ∧
    (let q := mediaReq (params 0 0 51) [encPic 0] (some 0)
     (encState q .busy).media.requests = [q] ∧ q.core = some 0 ∧ q.queue = [encPic 0] ∧ encCodec q.params ≠ 2 ∧ encMode q.params = 0 ∧ q.clip = true ∧ q.state = .recording ∧ q.bytes + 1 ≤ q.dstBytes ∧
       ((encState q .busy).enc 0).state = .busy) ∧
    (((sclIs [scJob .whole true] .busy lit).scl 0).jobs = [scJob .whole true] ∧ ((sclIs [scJob .whole true] .busy lit).scl 0).leaving = false ∧ ((sclIs [scJob .whole true] .busy lit).grp 0).cropOn = false ∧
      (scJob .whole true).started = true ∧ (scJob .whole true).slots = [] ∧ (scJob .whole true).pix = .nothing) ∧ (∀ z, ((sclIs [scJob .whole true] .busy lit).ses z).pic = none) := by
  refine ⟨?_, ?_, ?_, ?_, ?_, ?_, ?_, ?_, fun _ => rfl⟩ <;> decide +kernel

/-- BOOTING at `ph` with the boot state changed by `f`; every channel in `st`. -/
def startAt (ph : BootPhase) (st : ChState) (f : Boot → Boot) : State :=
  { forEach (upTo 32) (fun c s => modChan c (fun k => { k with state := st }) s) (inPower .booting) with boot := f { Boot.reset with phase := ph } }
def trialA (b : Boot) : Boot := { b with slotA := { state := .trial, attempts := 1, data := [] } }
def recoveryState : State := inPower .recovery
def clsOrder (n : Nat) : List Byte := [0x4F, 0x5A, 0x4C, 0x43, 1, 0, BitVec.ofNat 8 n, 1]

theorem witness_starting : lit.boot.phase ≠ .loaded ∧ ((startAt .loaded .init id).boot.phase = .loaded ∧ (startAt .loaded .init id).power.state = .booting ∧ slotIn (startAt .loaded .init id).boot .confirmed = none) ∧
    (slotIn confirmedA .confirmed = some 0 ∧ slotIn confirmedA .old = none) ∧
    (starting lit = false ∧ starting (startAt .started .online id) = true ∧ channelsUp (startAt .started .online id) = true ∧ onTrial (startAt .started .online id) = false ∧ channelsUp (startAt .started .training id) = false) ∧
    (onTrial (startAt .started .online trialA) = true ∧ starting (startAt .started .online trialA) = true ∧ channelsUp (startAt .started .online trialA) = true ∧ drawDetail (startAt .started .online trialA) true = 0 ∧
      drawDetail (startAt .started .online trialA) false ≠ 0 ∧ (startAt .started .online trialA).boot.drawOk = false) ∧
    (confirming lit = false ∧ confirming (startAt .started .online (fun b => { trialA b with confirmAt := some 0, drawOk := true })) = true) ∧
    (∃ s : State, Serving s ∧ confirming s = true) ∧ (Serving lit ∧ lit.boot.attestBusy = false ∧ lit.boot.order = none) ∧
    (recoveryState.power.state = .recovery ∧ recoveryState.pcie.notReady = false ∧ (0 : Fin 1024).val = recoveryState.boot.recNext ∧ (1 : Fin 1024).val ≠ recoveryState.boot.recNext) ∧
    (∀ n ∈ [1, 2, 3, 4], orderSetting (clsOrder n) = n) := by
  refine ⟨?_, ?_, ?_, ?_, ?_, ?_, ⟨{ lit with boot := { trialA Boot.reset with confirmAt := some 0 } }, ?_⟩, ?_, ?_, ?_⟩ <;> decide +kernel

/-- A device of the author's key, at `ph`, whose slots hold the good package in states `x` and `y`. -/
def holding (ph : BootPhase) (x y : SlotState) (s : State) : State :=
  { s with boot := { keyed with
      phase := ph
      slotA := { state := x, attempts := 0, data := goodPackage }
      slotB := { state := y, attempts := 0, data := goodPackage } } }

/-- Its image check and package check pass, whatever else its boot state holds. -/
theorem witness_packages : (∀ x y : SlotState, ∀ s : State, imageCheck (holding .loaded x y s).boot [] (pkgImage ((holding .loaded x y s).boot.slot (holding .loaded x y s).boot.active).data) none = 0) ∧
    (∀ x y : SlotState, ∀ s : State, slotOk (holding .started x y s).boot ((holding .started x y s).boot.slotA.data.take (pkgBytes (holding .started x y s).boot.slotA.data)) = true) ∧
    ((holding .loaded .confirmed .empty (inPower .booting)).boot.phase = .loaded ∧ (holding .loaded .confirmed .empty (inPower .booting)).power.state = .booting ∧
      slotIn (holding .loaded .confirmed .empty (inPower .booting)).boot .confirmed = some 0 ∧ slotIn (holding .loaded .confirmed .empty (inPower .booting)).boot .old = none) ∧
    (let s := startAt .loaded .init id
     imageCheck s.boot [] (pkgImage (s.boot.slot s.boot.active).data) none ≠ 0 ∧ slotIn s.boot .confirmed = none) ∧
    ((holding .started .writing .empty recoveryState).power.state = .recovery ∧ (holding .started .writing .empty recoveryState).pcie.notReady = false ∧
      clocked (holding .started .writing .empty recoveryState) = true ∧ slotOk recoveryState.boot (recoveryState.boot.slotA.data.take (pkgBytes recoveryState.boot.slotA.data)) = false) := by
  have e : ∀ x y s, (holding .loaded x y s).boot.fuses = keyed.fuses := fun _ _ _ => rfl
  have k : ∀ x y s, (holding .loaded x y s).boot.identity = keyed.identity := fun _ _ _ => rfl
  have n : goodPackage.take (pkgBytes goodPackage) = goodPackage := by
    have b : pkgBytes goodPackage = 8896 := by decide +kernel
    have l : packageHead.length = 64 ∧ (signature packageSig).length = 512 ∧ goodImage.length = 704 := by decide +kernel
    rw [b]
    exact List.take_of_length_le (by simp only [goodPackage, List.length_append, List.length_replicate, l]; decide)
  refine ⟨fun x y s => ?_, fun x y s => ?_, ?_, ?_, ?_⟩
  · rw [imageCheck_same _ keyed _ _ _ (e x y s) (k x y s)]
    exact goodPackage_passes.2.2
  · rw [slotOk_same (holding .started x y s).boot keyed _ rfl rfl]
    show slotOk keyed (goodPackage.take (pkgBytes goodPackage)) = true
    rw [n]
    exact goodPackage_passes.1
  all_goals decide +kernel

theorem witness_orders : (∀ b ∈ [false, true], ∃ s : State, Serving s ∧ s.boot.attestBusy = b) ∧ (∃ s : State, Serving s ∧ s.boot.order = some (clsOrder 1)) ∧
    orderRegion (clsOrder 3) < 32 ∧ orderValue (clsOrder 4) < 4 ∧ orderStatusOf lit [] ≠ 0 ∧ orderPresent Fuses.shipped (clsOrder 1) = true ∧ orderPresent Fuses.shipped (clsOrder 2) = false :=
  ⟨fun b _ => ⟨{ lit with boot := { Boot.reset with attestBusy := b } }, by cases b <;> decide⟩, ⟨{ lit with boot := { Boot.reset with order := some (clsOrder 1) } }, by decide +kernel⟩, by decide +kernel⟩

/-- An operation of the update protocol has come from the service peer. -/
def opFrom (op off len : Nat) (data : List Byte) (s : State) : State :=
  modFlow .service (fun x => { x with rx := [toBytes (BitVec.ofNat 128 (op + (9 + (off + len * 2 ^ 32) * 2 ^ 32) * 2 ^ 32)) 16 ++ data] }) s
def updIn (st : UpdState) (s : State) : State :=
  { s with boot := { s.boot with update := { Update.idle with state := st, transfer := 9, slot := 1, rxBytes := 576, pkgBytes := 600 } } }
def head576 : List Byte := toBytes (BitVec.ofNat 192 (0x50555A4F + 0x10001 * 2 ^ 32 + 600 * 2 ^ 64 + 0x1000 * 2 ^ 160)) 24 ++ List.replicate 552 0
def fwd : Forward := { member := 1, transfer := 9, accepted := false }

theorem witness_updates : takeOp .service 1 lit = none ∧ (∀ op ∈ [1, 2, 3, 4, 5, 6], ((takeOp .service op (opFrom op 576 1 [0] (updIn .receiving lit))).map (·.1)) = some (9, 576, 1, [0])) ∧
    (updFrom lit .service = true ∧ updFrom lit (.tensor 0) = false) ∧ (offerStatus lit 600 [] ≠ 0 ∧ offerStatus lit 600 head576 = 0) ∧
    (∀ st ∈ [UpdState.idle, .receiving, .verifying], (updIn st lit).boot.update.state = st ∧ Serving (updIn st lit)) ∧
    ((updIn .receiving lit).boot.update.flow = .service ∧ (updIn .receiving lit).boot.update.transfer = 9 ∧ (updIn .receiving lit).boot.update.rxBytes + 1 ≤ (updIn .receiving lit).boot.update.pkgBytes ∧
      (updIn .receiving lit).boot.update.rxBytes ≠ (updIn .receiving lit).boot.update.pkgBytes ∧ 600 < (updIn .receiving lit).boot.update.rxBytes + 25) ∧
    ({ Update.idle with rxBytes := 600, pkgBytes := 600 }.rxBytes = { Update.idle with rxBytes := 600, pkgBytes := 600 }.pkgBytes) ∧
    (lit.boot.forward = none ∧ (∃ s : State, s.boot.forward = some fwd ∧ s.boot.update.state = .idle ∧ pendingSlot s = some 1 ∧ Serving s)) ∧ (pendingSlot lit = none) ∧
    (∃ s : State, Serving s ∧ pendingSlot s = some 1 ∧ joinSelf s + 1 = 1 ∧ bit (cfgGet s (svcBase + 0x24)) 0 = true ∧ (s.member 1).state = .up) ∧
    (1 % 65536 ≠ 0 ∧ 65536 % 65536 = 0) ∧ bit (cfgGet lit (svcBase + 0x24)) 0 = false := by
  refine ⟨?_, ?_, ?_, ?_, ?_, ?_, ?_, ⟨?_, ⟨{ lit with boot := { Boot.reset with forward := some fwd, slotB := { state := .pending, attempts := 0, data := [] } } }, ?_⟩⟩, ?_,
    ⟨cfgSet (svcBase + 0x24) 1 (memberIs peer1 { lit with boot := { Boot.reset with slotB := { state := .pending, attempts := 0, data := [] } } }), ?_⟩, ?_, ?_⟩ <;> decide +kernel

/-- A transfer into slot B is being verified: a package that passes, and one that does not. -/
def verifying (s : State) : State := updIn .verifying (holding .started .confirmed .writing s)

theorem witness_verified : (verifying lit).boot.update.state = .verifying ∧ clocked (verifying lit) = true ∧
    (let g := ((verifying lit).boot.slot (verifying lit).boot.update.slot).data
     pkgSigned (verifying lit).boot g = true ∧ imageCheck (verifying lit).boot [] (pkgImage g) none = 0) ∧
    (updIn .verifying lit).boot.update.state = .verifying := by
  refine ⟨rfl, by decide, ⟨?_, ?_⟩, rfl⟩
  · exact goodPackage_signed
  · rw [imageCheck_same (verifying lit).boot keyed _ _ _ rfl rfl]
    exact goodPackage_passes.2.2

def elecIs (f : Elec → Elec) : State := modElec f lit

theorem witness_power : (inPower .cold).power.state = .cold ∧ lit.power.state ≠ .cold ∧ lit.elec.avsFail = false ∧ (elecIs (fun e => { e with avsFail := true })).elec.avsFail = true ∧
    (lit.elec.caps.above (capsNow lit) = false ∧ (elecIs (fun e => { e with caps := { e.caps with array := 16 } })).elec.caps.above (capsNow lit) = true) ∧
    ((effectiveBudget lit).1 = 600 ∧ 600 < (601 : Half).toNat ∧ 4 < lit.elec.caps.array) ∧
    (let s := elecIs (fun e => { e with belowSteps := 49, sinceRaise := 49 })
     (100 : Half).toNat ≤ (effectiveBudget s).1 ∧ 50 ≤ (if (100 : Half).toNat + 20 < (effectiveBudget s).1 then s.elec.belowSteps + 1 else 0) ∧ 50 ≤ s.elec.sinceRaise + 1) ∧
    (∀ h ∈ [false, true], (elecIs (fun e => { e with throttleLevel := h, tripWait := h })).elec.throttleLevel = h ∧ (elecIs (fun e => { e with throttleLevel := h, tripWait := h })).elec.tripWait = h) ∧
    (logicMax lit < 460 ∧ dramMax lit < 400 ∧ 460 ≤ logicMax (elecIs (fun e => { e with sensors := [(0, 460)] })) ∧ atLevel (elecIs (fun e => { e with sensors := [(0, 420)] })) 105 95 = true ∧
      atLevel lit 105 95 = false ∧ coolOf lit 105 95 = true ∧ coolOf (elecIs (fun e => { e with sensors := [(0, 412)] })) 105 95 = false) ∧
    (lit.elec.thermBudget = none ∧ (elecIs (fun e => { e with thermBudget := some 500 })).elec.thermBudget = some 500) := by decide +kernel

theorem witness_sideband : (∀ p ∈ [PState.booting, .recovery], (inPower p).power.state ∈ [.booting, .recovery]) ∧ lit.power.state ∉ [.booting, .recovery] ∧
    (let s := cfgSet (cpmBase + 0x108) 0x100 (inPower .banked)
     s.power.state = .banked ∧ bit (cfgGet s (cpmBase + 0x108)) 8 = true) ∧ (lit.power.state ≠ .banked ∧ lit.elec.smbAlert = false) ∧
    (elecIs (fun e => { e with smbAlert := true })).elec.smbAlert = true ∧ (lit.elec.perst = true ∧ perstHigh.elec.perst = false) := by decide +kernel

theorem witness_gated : (clocked unlocked = false ∧ unlocked.power.state ∉ [.enteringBanked, .banked, .exitingBanked] ∧ (∃ t, exec .smbTimeout unlocked = .next t)) ∧
    (inPower .banked).power.state = .banked := ⟨⟨by decide, by decide, _, rfl⟩, rfl⟩

/-! ### Small tests: the manual's worked examples -/

/-- Chapter 8: address 0x1_0004_1A80 is on channel 26, bank 17, column 1, row 512. -/
theorem test_dramAddress : chanOf 0x100041A80 = 26 ∧ dbankOf 0x100041A80 = 17 ∧ colOf 0x100041A80 = 1 ∧ rowOf 0x100041A80 = 512 := by decide

/-- Chapter 2: in a vat of 4 hearths, 0x1140_0010 selects k = 5, which is vat-local hearth 1. -/
theorem test_vatWindow : localHearth { lit with image := { Image.empty with regions := [{ vat0 with hearths := [8, 9, 10, 11] }] } } 8 ((0x11400010 - 0x10000000) / 0x400000) = 9 := by decide +kernel

/-- Chapter 4: w = 0.0151 with σ = 1,678 / 1,024 × 2⁻¹² has the code 0xB. -/
theorem test_bellCode : bellCode (bellDefault.map halfOfInt) 0x3C7765FE (fp16To32 (3 * 1024 + 654)) = 0xB := by decide +kernel

/-- Chapter 4: 0.0005 rounds up to the FP16 value 1,049 / 1,024 × 2⁻¹¹. -/
theorem test_scaleRoundsUp : roundUp16 0x3A03126F = 4 * 1024 + 25 := by decide +kernel

/-- Chapter 6: 2,048 entries with M and N inside K, 256 with K innermost. -/
theorem test_accDemand : accDemand 4 512 256 512 = 2048 ∧ accDemand 0 512 256 512 = 256 := by decide

/-- Chapter 9: a 1,920 × 1,080 H.265 picture has U = 510 and passes the checks of R264. -/
def clipParams : List Byte :=
  [1, 1] ++ toBytes (1920 : Half) 2 ++ toBytes (1080 : Half) 2 ++ toBytes (6000 : Word) 4 ++ toBytes (4500 : Word) 4 ++ toBytes (900000 : Word) 4 ++ toBytes (13500 : Word) 4 ++ [10, 40, 0, 0, 15, 0] ++ List.replicate 36 0
theorem test_encodeParams : encUnits clipParams = 510 ∧ encParamOk clipParams 1920 1080 = true ∧ encParamOk clipParams 1920 1078 = false := by decide +kernel

/-- Chapter 10: the letterbox of 1,920 × 1,080 in 640 × 384 is 640 × 360 at row 12. -/
def letterbox : ScOut :=
  { stretch := false, filter := 2, block := 4, format := 0, matrix := 1, bayer := 0, outType := 0, bucket := 0, x0 := 0, y0 := 0, x1 := 0, y1 := 0, w := 640, h := 384, padT := 0, padB := 0, padL := 0, padR := 0 }
theorem test_letterbox : content letterbox (4 * 1920) (4 * 1080) = (0, 12, 640, 360) := by decide

/-- Chapter 10: Y = 120, U = 110, V = 140 gives 29, −19 and −89. -/
def exampleTensor (c : Nat) : List Byte :=
  let v := (yuvToRgb 1 c (FVal.ofInt 120, false) (FVal.ofInt 110, false) (FVal.ofInt 140, false)).1
  convertOut letterbox (FVal.ofInt 127) (toF32 ((v.sub (FVal.ofInt 128)).mul (.fin false 1 (-6))))
theorem test_scalerColours : exampleTensor 0 = [29] ∧ exampleTensor 1 = [BitVec.ofInt 8 (-19)] ∧ exampleTensor 2 = [BitVec.ofInt 8 (-89)] := by decide +kernel

/-- Chapter 13: a frame buffer of the 1080p class takes 3,551,232 bytes. -/
theorem test_frameBytes : frameBytes { class0 with bitDepth := 8, maxLuma := 1920 * 1088, maxHeight := 1088 } = 3551232 := by decide

/-- Chapter 14: in a ring of 256 entries, PHASE is 1 for sequence 250 and 0 for 256. -/
theorem test_phase : phaseOf 256 250 = 1 ∧ phaseOf 256 255 = 1 ∧ phaseOf 256 256 = 0 ∧ phaseOf 256 512 = 1 := by decide

/-- Chapter 14: with P = 50 and COUNT = 64, 21 more entries fire the vector and P returns to 0. -/
theorem test_interruptCount : ((qpPosted 0 21 (cfgSet (qpOff 0 + 0x2C) (64 * 65536 + 500) (qpIs { runQp with posted := 50 }))).qp 0).posted = 0 ∧
    ((qpPosted 0 13 (cfgSet (qpOff 0 + 0x2C) (64 * 65536 + 500) (qpIs { runQp with posted := 50 }))).qp 0).posted = 63 := by decide +kernel

/-- Table 18.7: the SMBus target's identity is GLB_ID and GLB_REV. -/
theorem test_smbId : (match exec .smbId lit with
    | .next t => some (t.out.map (fun o => match o with
      | .smbus (some d) => d.take 4
      | _ => []))
    | _ => none) = some [[0x16, 0x32, 0x5A, 0x4F]] := by decide +kernel

/-- Table 8.5: a channel whose third training attempt fails is FAILED. -/
theorem test_thirdAttempt : (match exec (.trainingAttemptEnd 0 false) (chanIs { Channel.dflt with state := .training, attempt := 3 }) with
    | .next t => some (t.chan 0).state
    | _ => none) = some .failed := by decide +kernel

/-- R34: a Banked request is accepted in Lit with no job, session or update. -/
theorem test_banked : (match exec .bankedRequest lit with
    | .next t => some t.power.state
    | _ => none) = some .enteringBanked := by decide +kernel

/-- A step takes the front command and leaves the rest of the queue. -/
theorem test_step : (match step { lit with pending := [.jtagBypass, .smbTimeout] } with
    | .next t => some (t.pending, t.elec.jtag)
    | _ => none) = some ([.smbTimeout], .bypass) := by decide +kernel

/-- On an empty queue the block idles: only its clock moves. -/
theorem test_idle : step lit = .next { lit with now := 1 } := rfl

end Sys2Proof.Tests
end

section
/-! SUPPORT. BAR0 accesses while the device serves: what a read and a full write come to, and what both come to where no
register stands (R9, R10). -/

namespace Sys2Proof.Machine
open Sys2Proof

/-! ### Reads and full writes of a serving device (R9) -/

/-- A read of any size or alignment but 8 aligned bytes is that of the enclosing aligned word (R9). -/
theorem bar0Read_word {off len : Nat} {s : State} (h : Serving s) (hs : len ≠ 8 ∨ off % 8 ≠ 0) :
    bar0Read off len s = emit (.barRead 0 (off / 4 * 4) (toBytes (bar0Word (off / 4 * 4) s) 4) false .success)
      (holdHigh (off / 4 * 4) s) := by
  have hpair : ¬(len = 8 ∧ off % 8 = 0) := by omega
  simp [bar0Read, h.2.1, hpair, bar0Served_serving s _ h]

/-- A read of 8 aligned bytes returns a pair and leaves the holding registers alone (R9, R11). -/
theorem bar0Read_pair {off : Nat} {s : State} (h : Serving s) (ha : off % 8 = 0) :
    bar0Read off 8 s = emit (.barRead 0 off (toBytes (bar0Pair off s) 8) false .success) s := by
  have hoff : off / 4 * 4 = off := by omega
  simp [bar0Read, h.2.1, ha, hoff, bar0Served_serving s _ h]

theorem exec_lowHalfRead (x : BarSpan) {s : State} (h : Serving s) :
    exec (.lowHalfRead x) s = .next (bar0Read x.off.toNat x.len.toNat s) := rooted_clocked s _ h.2.2

theorem exec_registerWrite {off : BitVec 26} (lo : Word) (be : BitVec 4) (hi : Option (Word × BitVec 4)) {s : State}
    (h : Serving s) (ha : off.toNat % 4 = 0) :
    exec (.registerWrite off lo be hi false) s = .next (bar0Write off.toNat lo be hi s) := by
  change rooted s (Machine.guard (alignedOff off) (bar0Write (alignedOff off) lo be hi) s) = _
  rw [rooted_clocked s _ h.2.2, guard_serving _ _ s h, alignedOff_of_aligned off ha]

theorem exec_lowHalfWrite {off : BitVec 26} (v : Word) {s : State} (h : Serving s) (ha : off.toNat % 4 = 0) :
    exec (.lowHalfWrite off v) s = .next (writeReg off.toNat v s) := by
  change Host.Outcome.next (Machine.guard (alignedOff off) (writeReg (alignedOff off) v) s) = _
  rw [guard_serving _ _ s h, alignedOff_of_aligned off ha]

theorem exec_highHalfWrite {off : BitVec 26} (v : Word) {s : State} (h : Serving s) (ha : off.toNat % 4 = 0) :
    exec (.highHalfWrite off v) s = .next (writeReg off.toNat v s) := exec_lowHalfWrite v h ha

@[simp] theorem bar0Write_fullWord (off : Nat) (v : Word) (s : State) : bar0Write off v 15 none s = writeReg off v s := rfl

/-- A full aligned pair at no low half is the full writes of its two words (R11). -/
theorem bar0Write_fullPair_of_not_wide {off : Nat} {v w : Word} {s : State} (hn : writeWide off (w ++ v) s = none) :
    bar0Write off v 15 (some (w, 15)) s = writeReg (off + 4) w (writeReg off v s) := by
  simp [bar0Write, writeWord, hn]

/-! ### Offsets that no register occupies (R10) -/

section
variable {off : Nat} (hempty : regHit off = .empty)
include hempty

theorem bar0Word_of_empty (s : State) : bar0Word off s = 0 := by simp [bar0Word, hempty]

theorem holdHigh_of_empty (s : State) : holdHigh off s = s := by simp [holdHigh, hempty]

theorem writeReg_of_empty (v : Word) (s : State) : writeReg off v s = s := by simp [writeReg, hempty]

theorem writeWide_of_empty (v : DWord) (s : State) : writeWide off v s = none := by simp [writeWide, hempty]

theorem bar0Pair_of_empty (hempty' : regHit (off + 4) = .empty) (s : State) : bar0Pair off s = 0 := by
  simp [bar0Pair, hempty, bar0Word_of_empty hempty, bar0Word_of_empty hempty']

end

/-- A read whose aligned word no register occupies returns four zero bytes and changes nothing else. -/
theorem lowHalfRead_word_of_empty {x : BarSpan} {s : State} (h : Serving s) (hs : x.len ≠ 8 ∨ x.off.toNat % 8 ≠ 0)
    (hempty : regHit (x.off.toNat / 4 * 4) = .empty) :
    exec (.lowHalfRead x) s = .next (emit (.barRead 0 (x.off.toNat / 4 * 4) [0, 0, 0, 0] false .success) s) := by
  have hlen : x.len.toNat ≠ 8 ∨ x.off.toNat % 8 ≠ 0 := hs.imp_left fun hne heq => hne (BitVec.eq_of_toNat_eq heq)
  rw [exec_lowHalfRead x h, bar0Read_word h hlen, bar0Word_of_empty hempty, holdHigh_of_empty hempty]
  rfl

/-- A read of 8 aligned bytes that no register occupies returns eight zero bytes and changes nothing else. -/
theorem lowHalfRead_pair_of_empty {off : BitVec 26} {s : State} (h : Serving s) (ha : off.toNat % 8 = 0)
    (hlow : regHit off.toNat = .empty) (hhigh : regHit (off.toNat + 4) = .empty) :
    exec (.lowHalfRead { off := off, len := 8 }) s =
      .next (emit (.barRead 0 off.toNat [0, 0, 0, 0, 0, 0, 0, 0] false .success) s) := by
  have hread := bar0Read_pair h ha
  rw [bar0Pair_of_empty hlow hhigh] at hread
  rw [exec_lowHalfRead _ h]
  exact congrArg _ hread

/-- A full write of an aligned pair that no register occupies changes nothing. -/
theorem bar0Write_fullPair_of_empty {off : Nat} (v w : Word) (s : State)
    (hlow : regHit off = .empty) (hhigh : regHit (off + 4) = .empty) : bar0Write off v 15 (some (w, 15)) s = s := by
  rw [bar0Write_fullPair_of_not_wide (writeWide_of_empty hlow _ s), writeReg_of_empty hlow, writeReg_of_empty hhigh]

/-- Settles O57: by `regHit … = .empty`, every form of read and write at such an offset takes its empty case. -/
theorem unoccupiedOffsetsReadZero : Obligations.UnoccupiedOffsetsReadZero := by
  intro off v w s h ha hempty
  have hwrite : writeReg off.toNat v s = s := writeReg_of_empty hempty v s
  refine ⟨fun d len hd hs => ?_, fun ha8 hhigh => ⟨⟨_, lowHalfRead_pair_of_empty h ha8 hempty hhigh, rfl⟩, ?_⟩, ?_, ?_, ?_⟩
  · have hword := lowHalfRead_word_of_empty (x := { off := d, len := len }) h hs (by rw [hd]; exact hempty)
    rw [hd] at hword
    exact ⟨_, hword, rfl⟩
  · exact (exec_registerWrite _ _ _ h ha).trans (congrArg _ (bar0Write_fullPair_of_empty v w s hempty hhigh))
  · exact (exec_registerWrite _ _ _ h ha).trans (by rw [bar0Write_fullWord, hwrite])
  · exact (exec_lowHalfWrite v h ha).trans (congrArg _ hwrite)
  · exact (exec_highHalfWrite v h ha).trans (congrArg _ hwrite)

end Sys2Proof.Machine
end

section
/-! SUPPORT. Banked: what BAR0, BAR2 and BAR4 serve there (R33), and that requests of a transition are latched and acted
on at its end (R35). -/

namespace Sys2Proof.Machine
open Sys2Proof

/-! ### BAR0 outside Lit (R33, R377) -/

/-- In Banked and in the transitions the blocks below HQ_ are served. -/
theorem bar0Served_of_lt_hqBase {off : Nat} {s : State} (hn : s.pcie.notReady = false)
    (hp : s.power.state = .enteringBanked ∨ s.power.state = .banked ∨ s.power.state = .exitingBanked) (ho : off < hqBase) :
    bar0Served s off = true := by
  have hlow : off < 0x40000 := ho
  simp [bar0Served, hn, hp, hlow]

/-- In Banked no other block is. -/
theorem bar0Served_of_hqBase_le {off : Nat} {s : State} (hp : s.power.state = .banked) (ho : hqBase ≤ off) :
    bar0Served s off = false := by
  have hhigh : 0x40000 ≤ off := ho
  simp [bar0Served, hp, hhigh]

theorem memServed_of_banked {s : State} (hp : s.power.state = .banked) : memServed s = false := by simp [memServed, hp]

/-- A guarded write acts at a served offset. -/
theorem guard_of_served {off : Nat} (f : State → State) {s : State} (hc : clocked s = true) (hs : bar0Served s off = true) :
    Machine.guard off f s = f s := by
  simp [Machine.guard, hc, hs]

/-- A guarded write at an offset that is not served, outside recovery, is discarded and recorded. -/
theorem guard_of_not_served {off : Nat} (f : State → State) {s : State} (hc : clocked s = true)
    (hr : s.power.state ≠ .recovery) (hs : bar0Served s off = false) : Machine.guard off f s = recordBar off s := by
  simp [Machine.guard, hc, hs, hr]

section
variable {off : Nat} {s : State} (hn : s.pcie.notReady = false)
include hn

theorem bar0Read_word_of_served {len : Nat} (ha : off % 4 = 0) (hlen : len ≠ 8 ∨ off % 8 ≠ 0) (hs : bar0Served s off = true) :
    bar0Read off len s = emit (.barRead 0 off (toBytes (bar0Word off s) 4) false .success) (holdHigh off s) := by
  have hoff : off / 4 * 4 = off := by omega
  have hpair : ¬(len = 8 ∧ off % 8 = 0) := by omega
  simp [bar0Read, hn, hoff, hpair, hs]

theorem bar0Read_word_of_not_served {len : Nat} (ha : off % 4 = 0) (hlen : len ≠ 8 ∨ off % 8 ≠ 0) (hs : bar0Served s off = false) :
    bar0Read off len s = emit (.barRead 0 off [0, 0, 0, 0] false .success) s := by
  have hoff : off / 4 * 4 = off := by omega
  have hpair : ¬(len = 8 ∧ off % 8 = 0) := by omega
  have hzero : toBytes 0#32 4 = [0, 0, 0, 0] := rfl
  simp [bar0Read, hn, hoff, hpair, hs, hzero]

theorem bar0Read_pair_of_served (ha : off % 8 = 0) (hs : bar0Served s off = true) :
    bar0Read off 8 s = emit (.barRead 0 off (toBytes (bar0Pair off s) 8) false .success) s := by
  have hoff : off / 4 * 4 = off := by omega
  simp [bar0Read, hn, hoff, ha, hs]

theorem bar0Read_pair_of_not_served (ha : off % 8 = 0) (hs : bar0Served s off = false) :
    bar0Read off 8 s = emit (.barRead 0 off [0, 0, 0, 0, 0, 0, 0, 0] false .success) s := by
  have hoff : off / 4 * 4 = off := by omega
  have hzero : toBytes 0#64 8 = [0, 0, 0, 0, 0, 0, 0, 0] := rfl
  simp [bar0Read, hn, hoff, ha, hs, hzero]

end

/-- A read's copy of a high half reaches nothing but the read holding registers (R11). -/
theorem holdHigh_only (off : Nat) (s : State) : holdHigh off s = { s with readHold := (holdHigh off s).readHold } := by
  unfold holdHigh
  split <;> rfl

/-! ### Host accesses while the root clocks run (R29) -/

section
variable {s : State} (hc : clocked s = true)
include hc

theorem exec_lowHalfRead_of_clocked (x : BarSpan) : exec (.lowHalfRead x) s = .next (bar0Read x.off.toNat x.len.toNat s) :=
  rooted_clocked s _ hc

theorem exec_registerWrite_of_clocked {off : BitVec 26} (lo : Word) (be : BitVec 4) (hi : Option (Word × BitVec 4))
    (ha : off.toNat % 4 = 0) :
    exec (.registerWrite off lo be hi false) s = .next (Machine.guard off.toNat (bar0Write off.toNat lo be hi) s) := by
  refine (rooted_clocked s _ hc).trans ?_
  simp [alignedOff_of_aligned off ha]

end

/-! ### BAR2 and BAR4 outside Lit (R33) -/

section
variable {s : State} (hc : clocked s = true) (hm : memServed s = false)
include hc hm

theorem exec_bar2Read_of_not_served (off : Word) (len : Fin 4097) :
    exec (.bar2Read off len) s = .next (abortRead 2 off.toNat (recordBar off.toNat s)) :=
  (rooted_clocked s _ hc).trans (by rw [if_pos hm])

theorem exec_bar2Write_of_not_served (off : Word) (data : List Byte) (poisoned : Bool) :
    exec (.bar2Write off data poisoned) s = .next (recordBar off.toNat s) :=
  (rooted_clocked s _ hc).trans (by rw [if_pos hm])

theorem exec_bar4Read_of_not_served (off : BitVec 27) (len : Fin 4097) (errs : List SpmErr) (rivals : Rivals) :
    exec (.bar4Read off len errs rivals) s = .next (abortRead 4 off.toNat (recordBar off.toNat s)) :=
  (rooted_clocked s _ hc).trans (by rw [if_pos hm])

theorem exec_bar4Write_of_not_served (off : BitVec 27) (data : List Byte) (poisoned : Bool) (rivals : Rivals) :
    exec (.bar4Write off data poisoned rivals) s = .next (recordBar off.toNat s) :=
  (rooted_clocked s _ hc).trans (by rw [if_pos hm])

end

/-- Settles O58: in Banked exactly the offsets below HQ_ are served (`bar0Served_of_lt_hqBase`, `bar0Served_of_hqBase_le`),
and each access takes its served or its unserved case. -/
theorem bankedServesFourBlocks : Obligations.BankedServesFourBlocks := by
  intro off v s hp hn hc
  have hm := memServed_of_banked hp
  have hword {len : BitVec 13} (h : len ≠ 8 ∨ off.toNat % 8 ≠ 0) : len.toNat ≠ 8 ∨ off.toNat % 8 ≠ 0 :=
    h.imp_left fun hne heq => hne (BitVec.eq_of_toNat_eq heq)
  refine ⟨fun ha ho => ?_, fun ha ho => ?_, fun o len => ⟨_, exec_bar2Read_of_not_served hc hm o len, rfl⟩,
    fun o d p => ⟨_, exec_bar2Write_of_not_served hc hm o d p, rfl⟩,
    fun o len es rs => ⟨_, exec_bar4Read_of_not_served hc hm o len es rs, rfl⟩,
    fun o d p rs => ⟨_, exec_bar4Write_of_not_served hc hm o d p rs, rfl⟩⟩
  · have hs := bar0Served_of_lt_hqBase hn (.inr (.inl hp)) ho
    refine ⟨fun len hlen => ⟨_, exec_lowHalfRead_of_clocked hc _, ?_⟩, fun ha8 => ⟨_, exec_lowHalfRead_of_clocked hc _, ?_⟩,
      ⟨_, exec_registerWrite_of_clocked hc v 15 none ha, ?_⟩⟩
    · rw [bar0Read_word_of_served hn ha (hword hlen) hs, holdHigh_only]
      rfl
    · exact bar0Read_pair_of_served hn ha8 hs
    · rw [guard_of_served _ hc hs, bar0Write_fullWord]
  · have hs := bar0Served_of_hqBase_le hp ho
    refine ⟨fun len hlen => ⟨_, exec_lowHalfRead_of_clocked hc _, ?_⟩, fun ha8 => ⟨_, exec_lowHalfRead_of_clocked hc _, ?_⟩,
      fun be hi => ⟨_, exec_registerWrite_of_clocked hc v be hi ha, ?_⟩⟩
    · exact bar0Read_word_of_not_served hn ha (hword hlen) hs
    · exact bar0Read_pair_of_not_served hn ha8 hs
    · exact guard_of_not_served _ hc (by simp [hp]) hs

end Sys2Proof.Machine
end

section
/-! SUPPORT. The power state through the ends of the transitions: what forming regions, containing faults, accepting
entries and closing buckets leave unchanged of it. -/

namespace Sys2Proof.Machine
open Sys2Proof

/-! ### Operations of many families that leave the power state alone -/

theorem forEach_power {α : Type} (l : List α) {f : α → State → State} (hf : ∀ a s, (f a s).power = s.power) (s : State) :
    (forEach l f s).power = s.power :=
  forEach_keeps (P := fun t => t.power = s.power) l f (fun a t ht => (hf a t).trans ht) s rfl

section
variable (h : Nat) (s : State)
@[simp] theorem modIn_power (p : Nat) (f : FluePort → FluePort) : (modIn h p f s).power = s.power := rfl
@[simp] theorem modOut_power (p : Nat) (f : FluePort → FluePort) : (modOut h p f s).power = s.power := rfl
@[simp] theorem modFlue_power (p : Nat) (f : FluePort → FluePort) : (modFlue h p f s).power = s.power := rfl
@[simp] theorem stopCores_power : (stopCores h s).power = s.power := rfl
@[simp] theorem abandonArrays_power : (abandonArrays h s).power = s.power := rfl
@[simp] theorem raiseHwm_power : (raiseHwm h s).power = s.power := rfl
@[simp] theorem classBanks_power (map : Nat) (vatReset : Bool) : (classBanks h map vatReset s).power = s.power := rfl
end

section
variable (s : State)
@[simp] theorem modPool_power (g : Nat) (f : Pool → Pool) : (modPool g f s).power = s.power := rfl
@[simp] theorem modBuffer_power (h : Word) (f : Buffer → Buffer) : (modBuffer h f s).power = s.power := rfl
@[simp] theorem modSes_power (i : Nat) (f : Session → Session) : (modSes i f s).power = s.power := rfl
@[simp] theorem modReq_power (route : Half) (id : Word) (f : MediaReq → MediaReq) : (modReq route id f s).power = s.power := rfl
@[simp] theorem dropReq_power (route : Half) (id : Word) : (dropReq route id s).power = s.power := rfl
@[simp] theorem modEnc_power (e : Nat) (f : Encoder → Encoder) : (modEnc e f s).power = s.power := rfl
@[simp] theorem modLink_power (l : Nat) (f : EthLink → EthLink) : (modLink l f s).power = s.power := rfl
@[simp] theorem modSet_power (a : Nat) (f : AlignSet → AlignSet) : (modSet a f s).power = s.power := rfl
@[simp] theorem modBkt_power (b : Nat) (f : Bucket → Bucket) : (modBkt b f s).power = s.power := rfl
@[simp] theorem fillDevice_power (src : Nat) (ts : DWord) (status : Nat) : (fillDevice src ts status s).power = s.power := rfl
@[simp] theorem recordOther_power (kind id : Nat) (arg : DWord) : (recordOther kind id arg s).power = s.power := record_power ..
@[simp] theorem postStatusTo_power (q : Nat) (m : StatusMsg) : (postStatusTo q m s).power = s.power := postMsg_power ..
@[simp] theorem postStatus_power (m : StatusMsg) : (postStatus m s).power = s.power := postStatusTo_power ..
@[simp] theorem postDone_power (r : MediaReq) : (postDone r s).power = s.power := postMsg_power ..
@[simp] theorem refuseReq_power (route : Half) (id : Word) (status : Nat) : (refuseReq route id status s).power = s.power :=
  postMsg_power ..
end

/-! ### Job faults and hearth faults (R338, R409) -/

@[simp] theorem postJobStatus_power (j code detail seq : Nat) (s : State) : (postJobStatus j code detail seq s).power = s.power := by
  unfold postJobStatus
  split <;> simp

@[simp] theorem closeOnQp_power (j : Nat) (s : State) : (closeOnQp j s).power = s.power := by
  unfold closeOnQp
  split
  · rfl
  · split <;> simp

@[simp] theorem jobFault_power (j status detail : Nat) (posted : Bool) (s : State) : (jobFault j status detail posted s).power = s.power := by
  unfold jobFault
  split
  · rfl
  · split
    · rfl
    · dsimp only
      split
      · simp
      · rw [forEach_power _ fun h t => by simp]
        simp

@[simp] theorem jobFaultTrap_power (h cause : Nat) (s : State) : (jobFaultTrap h cause s).power = s.power := by
  unfold jobFaultTrap
  split <;> simp

@[simp] theorem breakFlues_power (h : Nat) (s : State) : (breakFlues h s).power = s.power := by
  unfold breakFlues
  dsimp only
  rw [forEach_power _ fun p t => by split <;> simp, forEach_power _ fun p t => by split <;> simp]

@[simp] theorem breakCounters_power (h : Nat) (s : State) : (breakCounters h s).power = s.power := by
  unfold breakCounters
  split
  · rfl
  · exact forEach_power _ (fun g t => modHearth_power g _ t) s

@[simp] theorem containHearth_power (h cause : Nat) (s : State) : (containHearth h cause s).power = s.power := by
  unfold containHearth
  dsimp only
  rw [postStatus_power, forEach_power _ fun j t => jobFault_power ..]
  simp

/-! ### Regions, buckets and links -/

@[simp] theorem joinHearth_power (r : Region) (vatReset : Bool) (h : Nat) (s : State) : (joinHearth r vatReset h s).power = s.power := by
  unfold joinHearth
  split <;> simp

theorem bindFlue_power (f : FlueRec) (s : State) : (bindFlue f s).power = s.power := rfl

@[simp] theorem formRegion_power (r : Region) (vatReset : Bool) (s : State) : (formRegion r vatReset s).power = s.power := by
  unfold formRegion
  rw [forEach_power _ bindFlue_power, forEach_power _ (joinHearth_power r vatReset)]

@[simp] theorem fillCurd_power (c : Curd) (status : Nat) (s : State) : (fillCurd c status s).power = s.power :=
  forEach_power _ (fun x t => by split <;> simp) s

@[simp] theorem bucketClose_power (b status : Nat) (s : State) : (bucketClose b status s).power = s.power := by
  have hfill := forEach_power (s.bkt b).curds (fun c => fillCurd_power c status) s
  unfold bucketClose
  dsimp only
  split <;> simpa using hfill

/-- A link that goes down sends nothing. -/
@[simp] theorem linkTo_down_power (l speed : Nat) (fec : Bool) (s : State) : (linkTo l false speed fec s).power = s.power := by
  simp [linkTo]

/-! ### Marks, pools and media requests -/

@[simp] theorem poolOpen_power (g : Nat) (s : State) : (poolOpen g s).power = s.power := by
  unfold poolOpen
  split <;> simp

@[simp] theorem poolSettle_power (g : Nat) (s : State) : (poolSettle g s).power = s.power := by
  unfold poolSettle
  split
  · split <;> simp
  · rfl

theorem allocate_power {ses : Nat} {s t : State} {h : Word} (ha : allocate ses s = some (h, t)) : t.power = s.power := by
  simp only [allocate, Option.bind_eq_some_iff, Option.map_eq_some_iff, Prod.mk.injEq] at ha
  obtain ⟨_, _, _, _, _, rfl⟩ := ha
  rfl

@[simp] theorem grantWait_power (ses since : Nat) (s : State) : (grantWait ses since s).power = s.power := by
  unfold grantWait
  split
  · rfl
  · next ha => simpa using allocate_power ha

theorem poolGrantFuel_power (fuel g : Nat) (s : State) : (poolGrantFuel fuel g s).power = s.power := by
  induction fuel generalizing s with
  | zero => rfl
  | succ n ih =>
    unfold poolGrantFuel
    split
    · rfl
    · rw [ih, grantWait_power]

@[simp] theorem poolGrant_power (g : Nat) (s : State) : (poolGrant g s).power = s.power := poolGrantFuel_power ..

@[simp] theorem freeIfClear_power (h : Word) (s : State) : (freeIfClear h s).power = s.power := by
  unfold freeIfClear
  dsimp only
  split <;> simp

@[simp] theorem mark_power (h : Word) (c : MarkChange) (s : State) : (mark h c s).power = s.power := by
  unfold mark markChange
  split <;> simp

@[simp] theorem reqSettle_power (route : Half) (id : Word) (s : State) : (reqSettle route id s).power = s.power := by
  unfold reqSettle
  split
  · rfl
  · split
    · dsimp only
      split <;> simp
    · rfl

@[simp] theorem assignEnc_power (s : State) : (assignEnc s).power = s.power := by
  refine forEach_power _ (fun k t => ?_) s
  split
  · rfl
  · split
    · rfl
    · split <;> simp

@[simp] theorem takePicture_power (route : Half) (id h : Word) (idr : Bool) (s : State) : (takePicture route id h idr s).power = s.power := by
  simp [takePicture]

@[simp] theorem snapTake_power (r : MediaReq) (h : Word) (s : State) : (snapTake r h s).power = s.power := by
  unfold snapTake
  split <;> simp

@[simp] theorem reqStop_power (r : MediaReq) (closed : Bool) (s : State) : (reqStop r closed s).power = s.power := by
  unfold reqStop
  rw [reqSettle_power, modReq_power, forEach_power _ fun p t => by simp]

@[simp] theorem mediaEntry_power (route : Half) (e : Entry64) (s : State) : (mediaEntry route e s).power = s.power := by
  unfold mediaEntry
  split
  · unfold snapshotReq
    split
    · simp
    · dsimp only
      split
      · simp
      · split <;> simp
  · unfold clipReq
    split <;> simp
  · unfold clipStopReq
    split
    · rfl
    · split <;> simp

/-! ### Switches and accepted entries (R32, R34) -/

@[simp] theorem drainFlues_power (v : Nat) (s : State) : (drainFlues v s).power = s.power :=
  forEach_power _ (fun h t => forEach_power _ (fun p u => by split <;> simp) t) s

@[simp] theorem beginSwitch_power (v j : Nat) (s : State) : (beginSwitch v j s).power = s.power := by simp [beginSwitch]

@[simp] theorem considerSwitch_power (v : Nat) (s : State) : (considerSwitch v s).power = s.power := by
  unfold considerSwitch
  dsimp only
  split
  · simp
  · split
    · rfl
    · split
      · simp
      · split
        · simp
        · split
          · split
            · simp
            · split <;> simp
          · simp

@[simp] theorem addCmd_power (c : Cmd) (s : State) : (addCmd c s).power = s.power :=
  forEach_power _ raiseHwm_power _

@[simp] theorem acceptCmd_power (q : Nat) (e : Entry64) (d : Option Nat) (s : State) : (acceptCmd q e d s).power = s.power := by
  unfold acceptCmd
  dsimp only
  split
  · simp
  · split <;> simp

@[simp] theorem malformed_power (j : Nat) (seq : Word) (reason : Nat) (s : State) : (malformed j seq reason s).power = s.power := by
  simp [malformed]

/-- Everything that dispatching a fetched entry can do. -/
theorem takeEntry_cases {q : Nat} {e : Entry64} {s t : State} (h : takeEntry q e s = some t) :
    t = mediaEntry (BitVec.ofNat 16 q) e s ∨ t = s ∨ (∃ d, t = acceptCmd q e d s) ∨
      (∃ j seq reason, t = malformed j seq reason s) ∨ ∃ m, t = postStatusTo q m s := by
  unfold takeEntry at h
  dsimp only at h
  split at h
  · exact .inl (Option.some.inj h).symm
  · split at h
    · exact .inr (.inl (Option.some.inj h).symm)
    · obtain ⟨-, h⟩ := Option.ite_none_left_eq_some.1 h
      split at h
      · obtain ⟨-, h⟩ := Option.ite_none_left_eq_some.1 h
        exact .inr (.inr (.inl ⟨_, (Option.some.inj h).symm⟩))
      · split at h
        · exact .inr (.inr (.inr (.inl ⟨_, _, _, (Option.some.inj h).symm⟩)))
        · exact .inr (.inr (.inr (.inr ⟨_, (Option.some.inj h).symm⟩)))

theorem takeEntry_power {q : Nat} {e : Entry64} {s t : State} (h : takeEntry q e s = some t) : t.power = s.power := by
  obtain rfl | rfl | ⟨_, rfl⟩ | ⟨_, _, _, rfl⟩ | ⟨_, rfl⟩ := takeEntry_cases h <;> simp

theorem acceptFuel_power (fuel q : Nat) (s : State) : (acceptFuel fuel q s).power = s.power := by
  induction fuel generalizing s with
  | zero => rfl
  | succ n ih =>
    unfold acceptFuel
    split
    · rfl
    · split
      · rfl
      · split
        · rfl
        · next ht => rw [ih, modQp_power, takeEntry_power ht]

@[simp] theorem headWriteback_power (q : Nat) (old : Word) (s : State) : (headWriteback q old s).power = s.power := by
  refine if_pos_or_neg (P := fun t : State => t.power = s.power) rfl ?_
  exact if_pos_or_neg (P := fun t : State => t.power = s.power) rfl rfl

theorem acceptLoop_power (q : Nat) (s : State) : (acceptLoop q s).power = s.power := by
  unfold acceptLoop
  dsimp only
  split
  · rfl
  · rw [headWriteback_power, acceptFuel_power]

/-- Accepting what the queue pairs have fetched asks for no power state. -/
@[simp] theorem acceptAll_power (s : State) : (acceptAll s).power = s.power := forEach_power _ acceptLoop_power s

end Sys2Proof.Machine
end

section
/-! SUPPORT. Power-state requests: what is latched in a transition, and what its end makes of it (R35). -/

namespace Sys2Proof.Machine
open Sys2Proof

/-! ### Requests in a transition -/

theorem powerRequest_of_transition {s : State} (hp : s.power.state = .enteringBanked ∨ s.power.state = .exitingBanked) (req : Nat) :
    powerRequest req s = modPower (fun p => { p with pending := req }) s := by
  unfold powerRequest
  rcases hp with hp | hp <;> rw [hp]

section
variable {s : State} (hc : clocked s = true) (hn : s.pcie.notReady = false)
  (hp : s.power.state = .enteringBanked ∨ s.power.state = .exitingBanked)
include hc hn hp

/-- A valid write of CPM_PSTATE_CTRL in a transition stores REQ and latches the request; the write before it is lost. -/
theorem guard_writePstate_of_transition {v : Word} (hv : bits v 1 0 = 1 ∨ bits v 1 0 = 2) :
    Machine.guard pstateCtrlOff (writePstate v) s =
      modPower (fun p => { p with pending := bits v 1 0 }) (cfgSet pstateCtrlOff (BitVec.ofNat 32 (bits v 1 0)) s) := by
  have hserved : bar0Served s pstateCtrlOff = true :=
    bar0Served_of_lt_hqBase hn (hp.imp_right .inr) (by decide)
  rw [guard_of_served _ hc hserved, writePstate, if_pos hv]
  exact powerRequest_of_transition (s := cfgSet _ _ s) hp _

theorem bankedRequest_of_transition :
    Completes .bankedRequest s fun t => t = { s with cfg := t.cfg, power := { s.power with pending := 1 } } :=
  ⟨_, congrArg Host.Outcome.next (guard_writePstate_of_transition hc hn hp (v := 1) (.inl rfl)), rfl⟩

theorem litRequest_of_transition :
    Completes .litRequest s fun t => t = { s with cfg := t.cfg, power := { s.power with pending := 2 } } :=
  ⟨_, congrArg Host.Outcome.next (guard_writePstate_of_transition hc hn hp (v := 2) (.inr rfl)), rfl⟩

end

/-! ### No request brings an FLR (R376) -/

@[simp] theorem wake_flrAfterWake (cause : Nat) (s : State) : (wake cause s).power.flrAfterWake = s.power.flrAfterWake := by
  simp [wake]

@[simp] theorem askBanked_flrAfterWake (s : State) : (askBanked s).power.flrAfterWake = s.power.flrAfterWake := by
  unfold askBanked
  dsimp only
  split
  · simp
  · split <;> simp [enterBanked]

theorem powerRequest_flrAfterWake (req : Nat) (s : State) : (powerRequest req s).power.flrAfterWake = s.power.flrAfterWake := by
  unfold powerRequest
  split
  · rfl
  · rfl
  · split
    · rfl
    · split <;> simp
  · split <;> simp
  · rfl
  · rfl
  · rfl

theorem actOnPending_flrAfterWake (target : Nat) (s : State) : (actOnPending target s).power.flrAfterWake = s.power.flrAfterWake := by
  unfold actOnPending
  dsimp only
  split
  · rfl
  · exact powerRequest_flrAfterWake _ _

/-! ### The ends of the transitions (Table 1.5) -/

/-- The end of a transition clears what was latched, and asks for it again unless it is nothing or the state reached. -/
theorem actOnPending_eq (target : Nat) (s : State) :
    actOnPending target s =
      if s.power.pending = 0 ∨ s.power.pending = target then modPower (fun p => { p with pending := 0 }) s
      else powerRequest s.power.pending (modPower (fun p => { p with pending := 0 }) s) := rfl

/-- Entering Banked changes the power state and its count alone of the power fields. -/
theorem bankedEntry_power (s : State) :
    (bankedEntry s).power = { s.power with state := .banked, bankedCount := satAdd s.power.bankedCount 1 } := by
  unfold bankedEntry
  rw [changePower_state]
  dsimp only [modPower, modPcie, modMedia]
  rw [forEach_power (upTo 8) (fun l t => by split <;> simp)]
  dsimp only
  rw [forEach_power (upTo 16) (fun b t => by split <;> simp)]

theorem bankedEntryComplete_of_entering {s : State} (hp : s.power.state = .enteringBanked) (hb : channelsBusy s = false)
    (hf : s.power.flrAfterWake = false) : exec .bankedEntryComplete s = .next (actOnPending 1 (bankedEntry s)) := by
  have hflr : (actOnPending 1 (bankedEntry s)).power.flrAfterWake = false := by
    rw [actOnPending_flrAfterWake, bankedEntry_power, hf]
  change execBankedEntryComplete s = _
  simp [execBankedEntryComplete, hp, hb, hflr]

/-- The device as it reaches Lit, before a request latched in the exit is looked at (R408). -/
def litAgain (s : State) : State :=
  acceptAll (changePower .lit (forEach s.power.deferredFaults (fun f s => containHearth f.1 f.2 s)
    (modPower (fun p => { p with deferredFaults := [] }) (forEach s.image.regions (formRegion · false) s))))

theorem litAgain_power (s : State) : (litAgain s).power = { s.power with state := .lit, deferredFaults := [] } := by
  unfold litAgain
  rw [acceptAll_power, changePower_state, forEach_power _ fun f t => containHearth_power ..]
  dsimp only [modPower]
  rw [forEach_power _ fun r t => formRegion_power ..]

theorem bankedExitComplete_of_exiting {s : State} (hp : s.power.state = .exitingBanked) (hb : channelsBusy s = false)
    (hk : banksBusy s = false) (hf : s.power.flrAfterWake = false) :
    exec .bankedExitComplete s = .next (actOnPending 2 (litAgain s)) := by
  have hregions := forEach_power s.image.regions (fun r t => formRegion_power r false t) s
  have hflr : (actOnPending 2 (litAgain s)).power.flrAfterWake = false := by
    rw [actOnPending_flrAfterWake, litAgain_power, hf]
  have hend : exec .bankedExitComplete s = .next (flrAfterWake (actOnPending 2 (litAgain s))) := by
    change execBankedExitComplete s = _
    simp [execBankedExitComplete, litAgain, hp, hb, hk, hregions]
  rw [hend, flrAfterWake, if_neg (by simp [hflr])]

/-- Settles O59: in a transition a request is latched (`powerRequest_of_transition`), and its end is `actOnPending` of a
state whose power fields `bankedEntry_power` and `litAgain_power` give. -/
theorem latchedPowerRequestsAreActedOn : Obligations.LatchedPowerRequestsAreActedOn := by
  intro s hc hn hf
  refine ⟨fun hp => ⟨bankedRequest_of_transition hc hn hp, litRequest_of_transition hc hn hp⟩, fun hp hb => ?_, fun hp hb hk => ?_⟩
  · have hpower := bankedEntry_power s
    refine ⟨_, bankedEntryComplete_of_entering hp hb hf, modPower (fun p => { p with pending := 0 }) (bankedEntry s), ?_, ?_⟩
    · simp [modPower, hpower]
    · rw [actOnPending_eq, hpower]
  · have hpower := litAgain_power s
    refine ⟨_, bankedExitComplete_of_exiting hp hb hk hf, modPower (fun p => { p with pending := 0 }) (litAgain s), ?_, ?_⟩
    · simp [modPower, hpower]
    · rw [actOnPending_eq, hpower]

end Sys2Proof.Machine
end

section
/-! SUPPORT. Clears of a block's counters: the parts of the state they reach, and the lifetime totals that outlast them
(R62, R92, R239, R292, R312, R352, R402). -/

namespace Sys2Proof.Machine
open Sys2Proof

/-- What a guarded write makes of a serving device is what its command completes with. -/
theorem completes_of_guard {i : Instr} {off : Nat} {f : State → State} {P : State → Prop} {s : State} (hs : Serving s)
    (hexec : exec i s = .next (Machine.guard off f s)) (hP : P (f s)) : Completes i s P :=
  ⟨f s, by rw [hexec, guard_serving off f s hs], hP⟩

/-- `CounterUpdate s t`: `t` is `s` after a change of one of the blocks that hold clearable counters. -/
inductive CounterUpdate (s : State) : State → Prop
  | hearth (h : Nat) (f : Hearth → Hearth) : CounterUpdate s (modHearth h f s)
  | channel (c : Nat) (f : Channel → Channel) : CounterUpdate s (modChan c f s)
  | drams (f : DramShared → DramShared) : CounterUpdate s (modDrams f s)
  | media (f : Media → Media) : CounterUpdate s (modMedia f s)
  | vats (f : Nat → Vat → Vat) : CounterUpdate s { s with vats := Table.remap Vat.dflt f s.vats }
  | pcie (f : Pcie → Pcie) : CounterUpdate s (modPcie f s)
  | ether (f : Ether → Ether) : CounterUpdate s (modEther f s)
  | elec (f : Elec → Elec) : CounterUpdate s (modElec f s)

/-- Soot, record and what else outlasts a clear: `t` has all of it as `s` does. -/
def LastingKept (s t : State) : Prop :=
  t.recorder = s.recorder ∧ t.boot = s.boot ∧ t.power = s.power ∧ t.cfg = s.cfg ∧ t.dram = s.dram ∧ t.jobs = s.jobs ∧
    t.cmds = s.cmds ∧ t.store = s.store

theorem CounterUpdate.lastingKept {s t : State} (ht : CounterUpdate s t) : LastingKept s t := by
  cases ht <;> exact ⟨rfl, rfl, rfl, rfl, rfl, rfl, rfl, rfl⟩

/-- The counters of the hearths, the stall counters among them, stand apart from those of its arrays. -/
@[simp] theorem hearth_counts_modArr (h a : Nat) (f : Arr → Arr) (s : State) (g : Nat) :
    ((modArr h a f s).hearth g).counts = (s.hearth g).counts := by
  by_cases hg : g = h
  · subst hg
    simp [modArr]
  · rw [hearth_modArr_ne a f s hg]

/-- Settles O26: each clear is a guarded `CounterUpdate` of the block named beside it. -/
theorem clearsLeaveSoot : Obligations.ClearsLeaveSoot := by
  intro h c a s hs
  have clear {i : Instr} {off : Nat} {f : State → State} (hexec : exec i s = .next (Machine.guard off f s))
      (hf : CounterUpdate s (f s)) : Completes i s (LastingKept s) :=
    completes_of_guard hs hexec hf.lastingKept
  refine ⟨?_, completes_of_guard hs rfl fun g => hearth_counts_modArr h a _ s g⟩
  simp only [List.forall_mem_cons]
  exact ⟨
    -- STALL_, ARR_ and SPM_
    clear rfl (.hearth ..), clear rfl (.hearth ..), clear rfl (.hearth ..), clear rfl (.hearth ..), clear rfl (.hearth ..),
    clear rfl (.hearth ..), clear rfl (.hearth ..),
    -- DRC_
    clear rfl (.channel ..), clear rfl (.channel ..), clear rfl (.channel ..), clear rfl (.drams _), clear rfl (.drams _),
    -- VCD_, SCL_, SNS_ and INP_
    clear rfl (.media _), clear rfl (.media _), clear rfl (.media _), clear rfl (.media _), clear rfl (.media _),
    clear rfl (.media _), clear rfl (.media _), clear rfl (.media _), clear rfl (.media _),
    -- SCH_ and BPM_
    clear rfl (.vats _), clear rfl (.vats _), clear rfl (.media _),
    -- PEP_ and HQ_
    clear rfl (.pcie _), clear rfl (.pcie _), clear rfl (.pcie _),
    -- ETH_
    clear rfl (.ether _), clear rfl (.ether _), clear rfl (.ether _), clear rfl (.ether _),
    -- CPM_
    clear rfl (.elec _), clear rfl (.elec _), List.forall_mem_nil _⟩

end Sys2Proof.Machine
end

section
/-! SUPPORT. Event records: what writing one leaves in the ring, and the budget that its code is charged (R412, R414, R416). -/

namespace Sys2Proof.Machine
open Sys2Proof

/-- The recorder after a record of `code` is charged to its budget; severity 3 charges none (R414). -/
def spendBudget (code : Nat) (r : Recorder) : Recorder :=
  if eventSeverity code = 3 then r else { r with spent := Table.mod 0 r.spent code (· + 1) }

/-- The record that `ringWrite` puts into the ring (Table 16.3). -/
def ringRecord (code kind id : Nat) (arg : DWord) (r : Recorder) : EvRec :=
  { seq := r.seqNext, code := BitVec.ofNat 16 code, sev := BitVec.ofNat 8 (eventSeverity code), kind := BitVec.ofNat 8 kind,
    id := BitVec.ofNat 16 id, supp := Table.get 0 r.suppSince code, opSeconds := r.opSeconds, powerCycles := r.powerCycles,
    arg := arg, seqEnd := r.seqNext }

section
variable (code kind id : Nat) (arg : DWord) (now : Nat) (r : Recorder)

/-! ### The budget -/

theorem get_spendBudget_self : Table.get 0 (spendBudget code r).spent code =
    if eventSeverity code = 3 then Table.get 0 r.spent code else Table.get 0 r.spent code + 1 := by
  unfold spendBudget
  split
  · rfl
  · simp only [Table.get_mod_self]

theorem get_spendBudget_ne {k : Nat} (hk : k ≠ code) : Table.get 0 (spendBudget code r).spent k = Table.get 0 r.spent k := by
  unfold spendBudget
  split
  · rfl
  · simp only [Table.get_mod_ne 0 _ _ hk]

@[simp] theorem spendBudget_suppressed : (spendBudget code r).suppressed = r.suppressed := by
  unfold spendBudget; split <;> rfl
@[simp] theorem spendBudget_seqNext : (spendBudget code r).seqNext = r.seqNext := by
  unfold spendBudget; split <;> rfl
@[simp] theorem ringRecord_spendBudget : ringRecord code kind id arg (spendBudget code r) = ringRecord code kind id arg r := by
  unfold spendBudget; split <;> rfl

/-! ### A write into the ring -/

@[simp] theorem ringWrite_spent : (ringWrite code kind id arg now r).spent = r.spent := rfl
@[simp] theorem ringWrite_suppressed : (ringWrite code kind id arg now r).suppressed = r.suppressed := rfl
@[simp] theorem ringWrite_seqNext : (ringWrite code kind id arg now r).seqNext = r.seqNext + 1 := rfl
@[simp] theorem ringWrite_suppSince : (ringWrite code kind id arg now r).suppSince = Table.set 0 r.suppSince code 0 := rfl
@[simp] theorem ringWrite_ring : (ringWrite code kind id arg now r).ring =
    Table.set none r.ring (r.seqNext.toNat % ringSlots) (some (ringRecord code kind id arg r)) := rfl

/-- Consecutive records stand in different slots, at the wrap of SEQ too. -/
theorem ringSlot_ne_next (n : Word) : n.toNat % ringSlots ≠ (n + 1).toNat % ringSlots := by
  have hone : (1 : Word).toNat = 1 := rfl
  rw [ringSlots, BitVec.toNat_add, hone]
  omega

/-! ### The start of a flush -/

/-- A flush that starts changes only its own marks, or first writes the 0x0D01 record of earlier losses. -/
theorem startFlush_cases : ∃ w, (w = r ∨ w = ringWrite 0x0D01 0 0 (BitVec.ofNat 64 r.lostSince) now r) ∧
    ∃ lostSince flushing flushDue,
      startFlush now r = { w with lostSince := lostSince, flushing := flushing, flushDue := flushDue } := by
  unfold startFlush
  split
  · exact ⟨r, .inl rfl, _, _, _, rfl⟩
  · split
    · exact ⟨r, .inl rfl, _, _, _, rfl⟩
    · dsimp only
      split
      · exact ⟨r, .inl rfl, _, _, _, rfl⟩
      · exact ⟨_, .inr rfl, _, _, _, rfl⟩

@[simp] theorem startFlush_spent : (startFlush now r).spent = r.spent := by
  obtain ⟨w, rfl | rfl, _, _, _, h⟩ := startFlush_cases now r <;> rw [h]
  rfl

@[simp] theorem startFlush_suppressed : (startFlush now r).suppressed = r.suppressed := by
  obtain ⟨w, rfl | rfl, _, _, _, h⟩ := startFlush_cases now r <;> rw [h]
  rfl

/-- A flush adds to no code's suppressions: its own record can only clear those of 0x0D01. -/
theorem startFlush_suppSince_of_zero {r : Recorder} (hr : Table.get 0 r.suppSince code = 0) :
    Table.get 0 (startFlush now r).suppSince code = 0 := by
  obtain ⟨w, rfl | rfl, _, _, _, h⟩ := startFlush_cases now r <;> rw [h]
  · exact hr
  · simp only [ringWrite_suppSince, Table.get_set, hr, ite_self]

/-- A flush leaves the slots of the records already written. -/
theorem startFlush_ring_of_ne {r : Recorder} {i : Nat} (hi : i ≠ r.seqNext.toNat % ringSlots) :
    Table.get none (startFlush now r).ring i = Table.get none r.ring i := by
  obtain ⟨w, rfl | rfl, _, _, _, h⟩ := startFlush_cases now r <;> rw [h]
  rw [ringWrite_ring, Table.get_set_ne none _ _ hi]

/-! ### A record, suppressed or written (R414) -/

theorem recordCore_of_empty (hsev : eventSeverity code ≠ 3) (hn : 8 ≤ Table.get 0 r.spent code) :
    (recordCore code kind id arg now r).1 =
      { r with suppressed := satAdd r.suppressed 1, suppSince := Table.mod 0 r.suppSince code (fun x => satAdd x 1) } := by
  rw [recordCore, if_pos ⟨hsev, hn⟩]

variable {code r} in
/-- A record within its budget is charged and written, and may start a flush. -/
theorem recordCore_of_budget (h : eventSeverity code = 3 ∨ Table.get 0 r.spent code < 8) :
    let w := ringWrite code kind id arg now (spendBudget code r)
    (recordCore code kind id arg now r).1 = w ∨ (recordCore code kind id arg now r).1 = startFlush now w := by
  have hbudget : ¬ (eventSeverity code ≠ 3 ∧ Table.get 0 r.spent code ≥ 8) := by omega
  intro w
  rw [recordCore, if_neg hbudget]
  by_cases hflush : eventSeverity code ≥ 2 ∨ seqDist w.seqNext w.seqFlushed ≥ 64
  · exact .inr (if_pos hflush)
  · exact .inl (if_neg hflush)

section
variable {code r} (h : eventSeverity code = 3 ∨ Table.get 0 r.spent code < 8)
include h

theorem recordCore_spent_of_budget : (recordCore code kind id arg now r).1.spent = (spendBudget code r).spent := by
  obtain hq | hq := recordCore_of_budget kind id arg now h <;> simp [hq]

theorem recordCore_suppressed_of_budget : (recordCore code kind id arg now r).1.suppressed = r.suppressed := by
  obtain hq | hq := recordCore_of_budget kind id arg now h <;> simp [hq]

theorem recordCore_suppSince_of_budget : Table.get 0 (recordCore code kind id arg now r).1.suppSince code = 0 := by
  have hw : Table.get 0 (ringWrite code kind id arg now (spendBudget code r)).suppSince code = 0 := by
    rw [ringWrite_suppSince, Table.get_set_self]
  obtain hq | hq := recordCore_of_budget kind id arg now h <;> rw [hq]
  · exact hw
  · exact startFlush_suppSince_of_zero code now hw

theorem recordCore_ring_of_budget : Table.get none (recordCore code kind id arg now r).1.ring (r.seqNext.toNat % ringSlots) =
    some (ringRecord code kind id arg r) := by
  have hw : Table.get none (ringWrite code kind id arg now (spendBudget code r)).ring (r.seqNext.toNat % ringSlots) =
      some (ringRecord code kind id arg r) := by simp
  obtain hq | hq := recordCore_of_budget kind id arg now h <;> rw [hq]
  · exact hw
  · rw [startFlush_ring_of_ne now (by simpa using ringSlot_ne_next r.seqNext), hw]

end
end

/-- Settles O60: an empty budget suppresses, any other writes the record, and a refill lowers each count of records spent. -/
theorem eventBudgetsLimitRecords : Obligations.EventBudgetsLimitRecords := by
  refine ⟨fun code kind id arg now r => ⟨fun hsev hn => ?suppressed, fun h => ?written⟩,
    fun s => ⟨_, rfl, rfl, fun hwf k => Table.get_remap 0 _ k rfl hwf⟩, fun _ => rfl⟩
  case suppressed =>
    rw [recordCore_of_empty code kind id arg now r hsev hn]
    exact ⟨rfl, by rw [Table.get_mod_self], fun k hk => by rw [Table.get_mod_ne 0 _ _ hk]⟩
  case written =>
    have hring := recordCore_ring_of_budget kind id arg now h
    refine ⟨recordCore_suppressed_of_budget kind id arg now h, recordCore_suppSince_of_budget kind id arg now h,
      ⟨_, hring, rfl, rfl, rfl, rfl⟩, ?_⟩
    rw [recordCore_spent_of_budget kind id arg now h]
    exact ⟨get_spendBudget_self code r, fun k hk => get_spendBudget_ne code r hk⟩

end Sys2Proof.Machine
end
